-- ==== Sys2Proof/Word.lean ====
section
/-!
DEFINITION. The word types of the machine (R60: a g register holds a 64-bit pattern) and nothing else.
-/

namespace Sys2Proof

/-- A 64-bit pattern: the contents of a g register, an address, a `k.` register. -/
abbrev Word := BitVec 64

/-- A byte of memory. -/
abbrev Byte := BitVec 8

/-- A lane of a vector register, and the width of an instruction word (R29, R113). -/
abbrev Lane := BitVec 32

/-- A g register number (R32). -/
abbrev Reg := BitVec 4

/-- A vector register number within the slot's window (R32). -/
abbrev VReg := BitVec 6

end Sys2Proof
end

