-- ==== Sys2Proof/Syntax.lean ====
section
/-!
DEFINITION. The syntax of Rhoroth: one constructor for each row of the opcode table (190 encoded words,
R29 to R59, and 116 steps that no word encodes: events of the engines, the memory system, the schedulers,
the firmware and the host).

A word's constructor carries the fields of its row, highest bits first, under the table's names.
An event's constructor carries what tells one such event from another (a core and a slot, a die, a cluster
and which of its two units, an interface, ...).
-/

namespace Sys2Proof

/-- Where a soft error strikes (R298): an 8-byte word of memory (its memory key), a g register or a vector
register of a slot (register number within the slot's window), or a TLB. -/
inductive SoftSite where
  | memWord (key : Nat)
  | gReg (core slot reg : Nat)
  | vReg (core slot reg : Nat)
  | tlb (core : Nat)
  | tlb2 (cluster : Nat)
  deriving DecidableEq, Repr

/-- The steps of the part: one constructor per row of the opcode table. -/
inductive Instr where
  -- the words of the instruction set, the event of a word that is none, and the events that a cycle makes due by itself
  /-- `ADD`, R64: Adds two registers and wraps the sum to 64 bits. -/
  | add (d a b : BitVec 4)
  /-- `SUB`, R64: Subtracts g[b] from g[a] and wraps the result to 64 bits. -/
  | sub (d a b : BitVec 4)
  /-- `AND`, R64: Bitwise AND of two registers. -/
  | and (d a b : BitVec 4)
  /-- `OR`, R64: Bitwise OR of two registers. -/
  | or (d a b : BitVec 4)
  /-- `XOR`, R64: Bitwise XOR of two registers. -/
  | xor (d a b : BitVec 4)
  /-- `SLL`, R64: Shifts left by the low 6 bits of g[b]. -/
  | sll (d a b : BitVec 4)
  /-- `SRL`, R64: Logical shift right by the low 6 bits of g[b]. -/
  | srl (d a b : BitVec 4)
  /-- `SRA`, R64: Arithmetic shift right by the low 6 bits of g[b]. -/
  | sra (d a b : BitVec 4)
  /-- `ROL`, R64: Rotates left by the low 6 bits of g[b]. -/
  | rol (d a b : BitVec 4)
  /-- `ROR`, R64: Rotates right by the low 6 bits of g[b]. -/
  | ror (d a b : BitVec 4)
  /-- `MIN`, R64: Writes the signed smaller of two registers. -/
  | min (d a b : BitVec 4)
  /-- `MAX`, R64: Writes the signed larger of two registers. -/
  | max (d a b : BitVec 4)
  /-- `MINZ`, R64: Writes the unsigned smaller of two registers. -/
  | minz (d a b : BitVec 4)
  /-- `MAXZ`, R64: Writes the unsigned larger of two registers. -/
  | maxz (d a b : BitVec 4)
  /-- `SEQ`, R64: Writes 1 if the registers are equal, else 0. -/
  | seq (d a b : BitVec 4)
  /-- `SLT`, R64: Writes 1 if g[a] is signed-less than g[b], else 0. -/
  | slt (d a b : BitVec 4)
  /-- `SLTZ`, R64: Writes 1 if g[a] is unsigned-less than g[b], else 0. -/
  | sltz (d a b : BitVec 4)
  /-- `SEL`, R64: Selects g[a] if g[c] is nonzero, else g[b]. -/
  | sel (d a b c : BitVec 4)
  /-- `CLZ`, R64: Counts leading zero bits. -/
  | clz (d a : BitVec 4)
  /-- `CTZ`, R64: Counts trailing zero bits. -/
  | ctz (d a : BitVec 4)
  /-- `POPC`, R64: Counts one bits. -/
  | popc (d a : BitVec 4)
  /-- `SEXT_B`, R64: Sign-extends the low byte. -/
  | sextB (d a : BitVec 4)
  /-- `SEXT_H`, R64: Sign-extends the low halfword. -/
  | sextH (d a : BitVec 4)
  /-- `SEXT_W`, R64: Sign-extends the low word. -/
  | sextW (d a : BitVec 4)
  /-- `ZEXT_B`, R64: Zero-extends the low byte. -/
  | zextB (d a : BitVec 4)
  /-- `ZEXT_H`, R64: Zero-extends the low halfword. -/
  | zextH (d a : BitVec 4)
  /-- `ZEXT_W`, R64: Zero-extends the low word. -/
  | zextW (d a : BitVec 4)
  /-- `MUL`, R65: Writes the low 64 bits of the product. -/
  | mul (d a b : BitVec 4)
  /-- `MULH`, R65: Writes the high 64 bits of the signed product. -/
  | mulh (d a b : BitVec 4)
  /-- `MULHZ`, R65: Writes the high 64 bits of the unsigned product. -/
  | mulhz (d a b : BitVec 4)
  /-- `DIV`, R66: Starts a signed division and parks the slot with park 2. -/
  | div (d a b : BitVec 4)
  /-- `DIVZ`, R66: Starts an unsigned division and parks the slot. -/
  | divz (d a b : BitVec 4)
  /-- `REM`, R66: Starts a signed remainder and parks the slot. -/
  | rem (d a b : BitVec 4)
  /-- `REMZ`, R66: Starts an unsigned remainder and parks the slot. -/
  | remz (d a b : BitVec 4)
  /-- `ADDI`, R68: Adds a sign-extended 18-bit immediate. -/
  | addi (d a : BitVec 4) (imm : BitVec 18)
  /-- `ANDI`, R68: ANDs with a sign-extended immediate. -/
  | andi (d a : BitVec 4) (imm : BitVec 18)
  /-- `ORI`, R68: ORs with a sign-extended immediate. -/
  | ori (d a : BitVec 4) (imm : BitVec 18)
  /-- `XORI`, R68: XORs with a sign-extended immediate. -/
  | xori (d a : BitVec 4) (imm : BitVec 18)
  /-- `SLTI`, R68: Signed compare with a sign-extended immediate. -/
  | slti (d a : BitVec 4) (imm : BitVec 18)
  /-- `SLLI`, R69: Shifts left by an immediate amount. -/
  | slli (d a : BitVec 4) (s : BitVec 6)
  /-- `SRLI`, R69: Logical shift right by an immediate amount. -/
  | srli (d a : BitVec 4) (s : BitVec 6)
  /-- `SRAI`, R69: Arithmetic shift right by an immediate amount. -/
  | srai (d a : BitVec 4) (s : BitVec 6)
  /-- `RORI`, R69: Rotates right by an immediate amount. -/
  | rori (d a : BitVec 4) (s : BitVec 6)
  /-- `BFX`, R70: Extracts a zero-extended bit field. -/
  | bfx (d a : BitVec 4) (pos len : BitVec 6)
  /-- `BFI`, R70: Inserts a bit field into g[d], reading g[d] as a source. -/
  | bfi (d a : BitVec 4) (pos len : BitVec 6)
  /-- `LUI`, R71: Loads a sign-extended immediate shifted left by 18 bits. -/
  | lui (d : BitVec 4) (imm : BitVec 22)
  /-- `ADDPC`, R71: Writes the program counter plus four times a word offset. -/
  | addpc (d : BitVec 4) (imm : BitVec 22)
  /-- `FADD`, R73: FP32 addition rounded to nearest even. -/
  | fadd (d a b : BitVec 4)
  /-- `FSUB`, R73: FP32 subtraction. -/
  | fsub (d a b : BitVec 4)
  /-- `FMUL`, R73: FP32 multiplication. -/
  | fmul (d a b : BitVec 4)
  /-- `FFMA`, R73: FP32 fused multiply-add with one rounding. -/
  | ffma (d a b c : BitVec 4)
  /-- `FMIN`, R75: Returns the FP32 smaller operand unchanged. -/
  | fmin (d a b : BitVec 4)
  /-- `FMAX`, R75: Returns the FP32 larger operand unchanged. -/
  | fmax (d a b : BitVec 4)
  /-- `FCMP_EQ`, R76: Writes 1 if the FP32 operands are equal. -/
  | fcmpEq (d a b : BitVec 4)
  /-- `FCMP_LT`, R76: Writes 1 if x < y in FP32. -/
  | fcmpLt (d a b : BitVec 4)
  /-- `FCMP_LE`, R76: Writes 1 if x <= y in FP32. -/
  | fcmpLe (d a b : BitVec 4)
  /-- `FCMP_UN`, R76: Writes 1 if either FP32 operand is a NaN. -/
  | fcmpUn (d a b : BitVec 4)
  /-- `FCVT_F32I32`, R77: Converts a signed 32-bit integer to FP32. -/
  | fcvtF32i32 (d a : BitVec 4)
  /-- `FCVT_F32I64`, R77: Converts a signed 64-bit integer to FP32. -/
  | fcvtF32i64 (d a : BitVec 4)
  /-- `FCVT_I32F32`, R77: Converts FP32 to a signed 32-bit integer, rounding to nearest even. -/
  | fcvtI32f32 (d a : BitVec 4)
  /-- `FCVT_I64F32`, R77: Converts FP32 to a signed 64-bit integer, rounding to nearest even. -/
  | fcvtI64f32 (d a : BitVec 4)
  /-- `FCVT_I32F32_RZ`, R77: Converts FP32 to a signed 32-bit integer, truncating. -/
  | fcvtI32f32Rz (d a : BitVec 4)
  /-- `FCVT_I64F32_RZ`, R77: Converts FP32 to a signed 64-bit integer, truncating. -/
  | fcvtI64f32Rz (d a : BitVec 4)
  /-- `BR`, R79: Branches when g[a] compared with zero meets the condition. -/
  | br (a : BitVec 4) (cond : BitVec 3) (off : BitVec 19)
  /-- `JMP`, R79: Jumps unconditionally to a word offset. -/
  | jmp (off : BitVec 19)
  /-- `CALL`, R80: Writes pc + 4 to the link register and jumps. -/
  | call (a : BitVec 4) (off : BitVec 19)
  /-- `CALLR`, R81: Jumps through g[a] and writes pc + 4 to g[d]. -/
  | callr (d a : BitVec 4)
  /-- `RET`, R81: Jumps through g[a]. -/
  | ret (a : BitVec 4)
  /-- `SKIP`, R83: Skips n words when the condition holds. -/
  | skip (a : BitVec 4) (cond n : BitVec 3)
  /-- `REPF`, R56: Opens a repeat frame of n words replayed t times with register strides. -/
  | repf (n t sd sa sb : BitVec 4)
  /-- `LD`, R219: Loads a zero-extended value with optional acquire order at a scope. -/
  | ld (d a : BitVec 4) (sz : BitVec 2) (sc : BitVec 3) (od : BitVec 2) (off : BitVec 11)
  /-- `LD_S`, R219: Loads a sign-extended value with optional acquire order. -/
  | ldS (d a : BitVec 4) (sz : BitVec 2) (sc : BitVec 3) (od : BitVec 2) (off : BitVec 11)
  /-- `ST`, R219: Enters a store, optionally a release at a scope, into the store buffer. -/
  | st (d a : BitVec 4) (sz : BitVec 2) (sc : BitVec 3) (od : BitVec 2) (off : BitVec 11)
  /-- `LDX`, R222: Waits until the word is full and loads it. -/
  | ldx (d a : BitVec 4) (sc : BitVec 3) (od : BitVec 2) (off : BitVec 11)
  /-- `LDC`, R222: Waits until the word is full, loads it and sets it empty. -/
  | ldc (d a : BitVec 4) (sc : BitVec 3) (od : BitVec 2) (off : BitVec 11)
  /-- `STF`, R223: Stores a word and sets it full in one write. -/
  | stf (d a : BitVec 4) (sc : BitVec 3) (od : BitVec 2) (off : BitVec 11)
  /-- `AMO_ADD`, R225: Atomically adds g[b] to memory and returns the old value. -/
  | amoAdd (d a b : BitVec 4) (sz : BitVec 1) (sc : BitVec 3) (od : BitVec 2)
  /-- `AMO_AND`, R225: Atomic AND returning the old value. -/
  | amoAnd (d a b : BitVec 4) (sz : BitVec 1) (sc : BitVec 3) (od : BitVec 2)
  /-- `AMO_OR`, R225: Atomic OR returning the old value. -/
  | amoOr (d a b : BitVec 4) (sz : BitVec 1) (sc : BitVec 3) (od : BitVec 2)
  /-- `AMO_XOR`, R225: Atomic XOR returning the old value. -/
  | amoXor (d a b : BitVec 4) (sz : BitVec 1) (sc : BitVec 3) (od : BitVec 2)
  /-- `AMO_MIN`, R225: Atomic signed minimum returning the old value. -/
  | amoMin (d a b : BitVec 4) (sz : BitVec 1) (sc : BitVec 3) (od : BitVec 2)
  /-- `AMO_MAX`, R225: Atomic signed maximum returning the old value. -/
  | amoMax (d a b : BitVec 4) (sz : BitVec 1) (sc : BitVec 3) (od : BitVec 2)
  /-- `AMO_MINZ`, R225: Atomic unsigned minimum returning the old value. -/
  | amoMinz (d a b : BitVec 4) (sz : BitVec 1) (sc : BitVec 3) (od : BitVec 2)
  /-- `AMO_MAXZ`, R225: Atomic unsigned maximum returning the old value. -/
  | amoMaxz (d a b : BitVec 4) (sz : BitVec 1) (sc : BitVec 3) (od : BitVec 2)
  /-- `AMO_SWAP`, R225: Atomic swap returning the old value. -/
  | amoSwap (d a b : BitVec 4) (sz : BitVec 1) (sc : BitVec 3) (od : BitVec 2)
  /-- `CAS`, R225: Atomic compare-and-swap returning the old value. -/
  | cas (d a b e : BitVec 4) (sz : BitVec 1) (sc : BitVec 3) (od : BitVec 2)
  /-- `LDRES`, R226: Loads at the point P and sets a reservation on the block. -/
  | ldres (d a : BitVec 4) (sz : BitVec 1) (sc : BitVec 3) (od : BitVec 2)
  /-- `STCND`, R228: Stores only if the reservation holds and writes the status. -/
  | stcnd (d a b : BitVec 4) (sz : BitVec 1) (sc : BitVec 3) (od : BitVec 2)
  /-- `FENCE`, R230: Parks until every earlier access is performed at the scope. -/
  | fence (sc : BitVec 3)
  /-- `WRS`, R233: Parks while the slot's reservation on the block holds. -/
  | wrs (a : BitVec 4) (sc : BitVec 3)
  /-- `BARM`, R235: Counts one arrival at a barrier object in memory and parks until its generation moves. -/
  | barm (d a b : BitVec 4) (sc : BitVec 3)
  /-- `VADD_I`, R117: Integer vector addition, wrapped. -/
  | vaddI (t : BitVec 2) (d a b : BitVec 6) (m : BitVec 4)
  /-- `VSUB_I`, R117: Integer vector subtraction, wrapped. -/
  | vsubI (t : BitVec 2) (d a b : BitVec 6) (m : BitVec 4)
  /-- `VMUL_I`, R117: Integer vector multiplication, low bits. -/
  | vmulI (t : BitVec 2) (d a b : BitVec 6) (m : BitVec 4)
  /-- `VMIN_I`, R117: Signed integer vector minimum. -/
  | vminI (t : BitVec 2) (d a b : BitVec 6) (m : BitVec 4)
  /-- `VMAX_I`, R117: Signed integer vector maximum. -/
  | vmaxI (t : BitVec 2) (d a b : BitVec 6) (m : BitVec 4)
  /-- `VMINZ`, R117: Unsigned integer vector minimum. -/
  | vminz (t : BitVec 2) (d a b : BitVec 6) (m : BitVec 4)
  /-- `VMAXZ`, R117: Unsigned integer vector maximum. -/
  | vmaxz (t : BitVec 2) (d a b : BitVec 6) (m : BitVec 4)
  /-- `VADD_SAT`, R117: Integer vector addition, clamped. -/
  | vaddSat (t : BitVec 2) (d a b : BitVec 6) (m : BitVec 4)
  /-- `VSUB_SAT`, R117: Integer vector subtraction, clamped. -/
  | vsubSat (t : BitVec 2) (d a b : BitVec 6) (m : BitVec 4)
  /-- `VSHL`, R117: Integer vector shift left. -/
  | vshl (t : BitVec 2) (d a b : BitVec 6) (m : BitVec 4)
  /-- `VSHR`, R117: Integer vector logical shift right. -/
  | vshr (t : BitVec 2) (d a b : BitVec 6) (m : BitVec 4)
  /-- `VSRA`, R117: Integer vector arithmetic shift right. -/
  | vsra (t : BitVec 2) (d a b : BitVec 6) (m : BitVec 4)
  /-- `VCEQ_I`, R119: Integer vector equality compare into a g-register mask. -/
  | vceqI (t : BitVec 2) (d : BitVec 4) (a b : BitVec 6) (m : BitVec 4)
  /-- `VCLT_I`, R119: Signed integer vector less-than compare into a mask. -/
  | vcltI (t : BitVec 2) (d : BitVec 4) (a b : BitVec 6) (m : BitVec 4)
  /-- `VCLTZ`, R119: Unsigned integer vector less-than compare into a mask. -/
  | vcltz (t : BitVec 2) (d : BitVec 4) (a b : BitVec 6) (m : BitVec 4)
  /-- `VRED_I`, R120: Integer fixed-tree sum broadcast to every element. -/
  | vredI (t : BitVec 2) (d a : BitVec 6) (m : BitVec 4)
  /-- `VADD_F`, R118: Float vector addition. -/
  | vaddF (t : BitVec 2) (d a b : BitVec 6) (m : BitVec 4)
  /-- `VSUB_F`, R118: Float vector subtraction. -/
  | vsubF (t : BitVec 2) (d a b : BitVec 6) (m : BitVec 4)
  /-- `VMUL_F`, R118: Float vector multiplication. -/
  | vmulF (t : BitVec 2) (d a b : BitVec 6) (m : BitVec 4)
  /-- `VMIN_F`, R118: Float vector minimum as fmin. -/
  | vminF (t : BitVec 2) (d a b : BitVec 6) (m : BitVec 4)
  /-- `VMAX_F`, R118: Float vector maximum as fmax. -/
  | vmaxF (t : BitVec 2) (d a b : BitVec 6) (m : BitVec 4)
  /-- `VFMA`, R118: Float vector fused multiply-add into vd. -/
  | vfma (t : BitVec 2) (d a b : BitVec 6) (m : BitVec 4)
  /-- `VABS`, R118: Float vector absolute value. -/
  | vabs (t : BitVec 2) (d a : BitVec 6) (m : BitVec 4)
  /-- `VNEG`, R118: Float vector negation. -/
  | vneg (t : BitVec 2) (d a : BitVec 6) (m : BitVec 4)
  /-- `VEXP2`, R122: Table approximation of 2^x per element. -/
  | vexp2 (t : BitVec 2) (d a : BitVec 6) (m : BitVec 4)
  /-- `VLOG2`, R123: Table approximation of log2 x per element. -/
  | vlog2 (t : BitVec 2) (d a : BitVec 6) (m : BitVec 4)
  /-- `VRCP`, R124: Table approximation of 1/x per element. -/
  | vrcp (t : BitVec 2) (d a : BitVec 6) (m : BitVec 4)
  /-- `VRSQ`, R125: Table approximation of 1/sqrt x per element. -/
  | vrsq (t : BitVec 2) (d a : BitVec 6) (m : BitVec 4)
  /-- `VCEQ_F`, R119: Float vector equality compare into a mask. -/
  | vceqF (t : BitVec 2) (d : BitVec 4) (a b : BitVec 6) (m : BitVec 4)
  /-- `VCLT_F`, R119: Float vector less-than compare into a mask. -/
  | vcltF (t : BitVec 2) (d : BitVec 4) (a b : BitVec 6) (m : BitVec 4)
  /-- `VCLE`, R119: Float vector less-or-equal compare into a mask. -/
  | vcle (t : BitVec 2) (d : BitVec 4) (a b : BitVec 6) (m : BitVec 4)
  /-- `VRED_F`, R120: Float fixed-tree sum broadcast to every element. -/
  | vredF (t : BitVec 2) (d a : BitVec 6) (m : BitVec 4)
  /-- `VSEL`, R126: Chooses each lane from va or vb by the mask. -/
  | vsel (d a b : BitVec 6) (m : BitVec 4)
  /-- `VMOV`, R126: Copies enabled lanes. -/
  | vmov (d a : BitVec 6) (m : BitVec 4)
  /-- `VAND`, R126: Bitwise AND of lanes. -/
  | vand (d a b : BitVec 6) (m : BitVec 4)
  /-- `VOR`, R126: Bitwise OR of lanes. -/
  | vor (d a b : BitVec 6) (m : BitVec 4)
  /-- `VXOR`, R126: Bitwise XOR of lanes. -/
  | vxor (d a b : BitVec 6) (m : BitVec 4)
  /-- `VNOT`, R126: Bitwise complement of lanes. -/
  | vnot (d a : BitVec 6) (m : BitVec 4)
  /-- `VSHUF`, R126: Permutes lanes by an index vector. -/
  | vshuf (d a b : BitVec 6) (m : BitVec 4)
  /-- `VBCAST`, R126: Broadcasts the low 32 bits of a g register. -/
  | vbcast (d : BitVec 6) (a m : BitVec 4)
  /-- `VINS`, R126: Inserts a g register's low word into one lane. -/
  | vins (d : BitVec 6) (a : BitVec 4) (lane : BitVec 5)
  /-- `VEXT`, R126: Extracts one lane into a g register. -/
  | vext (d : BitVec 4) (a : BitVec 6) (lane : BitVec 5)
  /-- `VCVT`, R127: Converts each enabled element between two element types. -/
  | vcvt (d a : BitVec 6) (sat rz : BitVec 1) (src m dst : BitVec 4)
  /-- `VLD`, R131: Loads 32 consecutive lanes from own local memory. -/
  | vld (d : BitVec 6) (a m : BitVec 4)
  /-- `VST`, R133: Enters a 32-lane store into the store buffer as one entry. -/
  | vst (d : BitVec 6) (a m : BitVec 4)
  /-- `VLDS`, R131: Loads lanes at a register stride. -/
  | vlds (d : BitVec 6) (a str m : BitVec 4)
  /-- `VSTS`, R133: Stores lanes at a register stride. -/
  | vsts (d : BitVec 6) (a str m : BitVec 4)
  /-- `VGATH`, R131: Gathers lanes through an index vector. -/
  | vgath (d : BitVec 6) (a : BitVec 4) (idx : BitVec 6) (m : BitVec 4)
  /-- `VSCAT`, R133: Scatters lanes through an index vector. -/
  | vscat (d : BitVec 6) (a : BitVec 4) (idx : BitVec 6) (m : BitVec 4)
  /-- `VDOT_L6L6`, R129: Log6 by log6 dot product into an exact integer accumulator. -/
  | vdotL6l6 (d a b : BitVec 6) (m c : BitVec 4)
  /-- `VDOT_L6E4`, R130: Log6 by E4M3 dot product accumulated in FP32. -/
  | vdotL6e4 (d a b : BitVec 6) (m c : BitVec 4)
  /-- `VDOT_E4E4`, R130: E4M3 by E4M3 dot product accumulated in FP32. -/
  | vdotE4e4 (d a b : BitVec 6) (m c : BitVec 4)
  /-- `VDOT_E5E5`, R130: E5M2 by E5M2 dot product accumulated in FP32. -/
  | vdotE5e5 (d a b : BitVec 6) (m c : BitVec 4)
  /-- `VDOT_BFBF`, R130: BF16 by BF16 dot product accumulated in FP32. -/
  | vdotBfbf (d a b : BitVec 6) (m c : BitVec 4)
  /-- `VDOT_I8I8`, R129: INT8 by INT8 dot product into an exact integer accumulator. -/
  | vdotI8i8 (d a b : BitVec 6) (m c : BitVec 4)
  /-- `MXQ`, R277: Submits a matrix job and waits for its acceptance or refusal. -/
  | mxq (d a b : BitVec 4) (p : BitVec 3)
  /-- `ACCLD`, R280: Loads an accumulator tile from a memory image. -/
  | accld (a b : BitVec 4) (t : BitVec 1)
  /-- `ACCST`, R280: Stores an accumulator tile to a memory image. -/
  | accst (a b : BitVec 4) (t : BitVec 1)
  /-- `CPQ`, R277: Submits a copy job of the kind in fn and waits for acceptance. -/
  | cpq (d a b : BitVec 4) (k : BitVec 3)
  /-- `JWAIT`, R281: Parks until the named job is complete. -/
  | jwait (a : BitVec 4)
  /-- `JPOLL`, R281: Asks a job's target whether it is pending or complete. -/
  | jpoll (d a : BitVec 4)
  /-- `SCLS`, R282: Writes 64 scale codes into the scale stores of named engines. -/
  | scls (a b : BitVec 4)
  /-- `XENQ`, R283: Enqueues a token record to an expert queue and arms its reorder window entry. -/
  | xenq (a b : BitVec 4)
  /-- `XRET`, R284: Returns one routing's result row or LATE to a reorder window. -/
  | xret (a b : BitVec 4)
  /-- `XCFG`, R285: Configures an expert queue or the core's reorder window and writes an outcome code. -/
  | xcfg (a b : BitVec 4)
  /-- `XSTAT`, R286: Reads a snapshot status word of a queue or the window. -/
  | xstat (d a : BitVec 4)
  /-- `SPAWN`, R172: Starts a child on a core, or runs it inline when refused. -/
  | spawn (a b : BitVec 4)
  /-- `SPAWNQ`, R175: Builds a task record and sends it to a die scheduler. -/
  | spawnq (a b c : BitVec 4)
  /-- `QUIT`, R176: Frees the slot, or returns from an inline child. -/
  | quit
  /-- `MIGR`, R177: Moves the thread to the core that owns the addressed memory. -/
  | migr (a : BitVec 4)
  /-- `RPUT`, R179: Writes a value into a register of a slot in the writer's quad. -/
  | rput (d a b : BitVec 4)
  /-- `WAIT`, R150: Clears the arrival latch or parks until it is set. -/
  | wait
  /-- `YIELD`, R180: Parks until the arrival latch is set or 256 clk pass. -/
  | yield
  /-- `YIELD_TIMEOUT`, R180: A yield reaches cycle i + 256 and the slot becomes ready. -/
  | yieldTimeout (core slot : Nat)
  /-- `CHSET`, R181: Sets the chain bit. -/
  | chset
  /-- `CHCLR`, R181: Clears the chain bit. -/
  | chclr
  /-- `BAR`, R182: Releases at the level's scope, counts one arrival at a hardware barrier and parks. -/
  | bar (id : BitVec 6) (lv : BitVec 3)
  /-- `PKG_BARRIER_RELEASE`, R182: Exactly 120 clk after the last counted arrival, the package barrier's waiters become ready. -/
  | pkgBarrierRelease (id : Nat)
  /-- `SBAR_RELEASE`, R370: A slot parked in sbar is made ready once its die's E exceeds the release stamp, with g[d] filled. -/
  | sbarRelease (core slot : Nat)
  /-- `TNOW`, R359: Reads the die clock's earliest and latest times. -/
  | tnow (d a : BitVec 4)
  /-- `STS`, R363: Issues a stamped store with the die's latest time as stamp and waits for its visibility. -/
  | sts (d a b : BitVec 4)
  /-- `LDAS`, R365: Issues an as-of load of a stamped word at stamp g[b]. -/
  | ldas (d a b : BitVec 4)
  /-- `SCAS`, R363: Issues a stamped compare-and-swap. -/
  | scas (d a b c : BitVec 4)
  /-- `SBAR`, R370: A package barrier arrival that returns a release stamp. -/
  | sbar (d : BitVec 4) (id : BitVec 6)
  /-- `SYSC`, R333: Hands the slot's context to the tile's service core for a system call. -/
  | sysc (a : BitVec 4)
  /-- `TRAP`, R331: Raises F_TRAP precisely. -/
  | trap
  /-- `BKPT`, R331: Raises F_BKPT precisely. -/
  | bkpt
  /-- `ERET`, R331: Resumes the STOPPED slot selected by k.tgt. -/
  | eret
  /-- `HALT`, R332: Clears the notice bit or idles until a notice arrives. -/
  | halt
  /-- `NOP`, R332: Has no effect beyond one turn. -/
  | nop
  /-- `TLBINV`, R334: Invalidates matching TLB entries of the package. -/
  | tlbinv (a b : BitVec 4)
  /-- `ANCHOR`, R332: Marks a suspend point; raises F_BKPT when in the breakpoint set. -/
  | anchor
  /-- `MOVK`, R326: Reads a k. register into g[d]. -/
  | movk (d : BitVec 4) (k : BitVec 9)
  /-- `KMOV`, R326: Writes g[a] into a k. register that has no row of its own. -/
  | kmov (a : BitVec 4) (k : BitVec 9)
  /-- `DRAIN_LIMIT_EXPIRY`, R309: The anchor-drain limit expires and slots not yet stopped stop as in immediate mode. -/
  | drainLimitExpiry (core : Nat)
  /-- `REFLD_BASE`, R335: Reads the base of a typed reference, checking its type. -/
  | refldBase (d a c : BitVec 4)
  /-- `REFLD_SHAPE`, R335: Reads the shape of a typed reference, checking its type. -/
  | refldShape (d a c : BitVec 4)
  /-- `RBLD`, R336: Triggers a capsule rebuild and waits for VALID. -/
  | rbld (a : BitVec 4)
  /-- `SEAL`, R337: Writes one enciphered segment of a save image. -/
  | seal (d a b : BitVec 4)
  /-- `UNSEAL`, R338: Checks and opens one save-image segment into a core. -/
  | unseal (d a b : BitVec 4)
  /-- `KEYLD`, R339: Loads a fresh or unwrapped key into a key slot. -/
  | keyld (a b : BitVec 4)
  /-- `KEYCLR`, R339: Zeroes a key slot, optionally wrapping it out first. -/
  | keyclr (a : BitVec 4)
  /-- `OWNSET`, R339: Writes a core's owner register, scrubbing the core when the context changes. -/
  | ownset (a b : BitVec 4)
  /-- `ARRIVAL_CLAIM`, R140: A link head that can claim takes a FREE slot of the core and its resources. -/
  | arrivalClaim (core : Nat)
  /-- `STORE_BUFFER_DRAIN`, R221: The head store-buffer entry leaves for memory once its conditions hold. -/
  | storeBufferDrain (core slot : Nat)
  /-- `BUDGET_REFILL`, R161: Every 12,500 clk each tenant is credited its refill share, repaying loans first. -/
  | budgetRefill (die : Nat)
  /-- `STEAL_PAUSE_EXPIRY`, R167: The 1 us pause after an empty steal reply ends. -/
  | stealPauseExpiry (die : Nat)
  /-- `JOB_START`, R244: The job at the head of a target's queue starts, after its tile and ring group are ready. -/
  | jobStart (cluster : Nat) (copy : Bool)
  /-- `RING_TIMEOUT`, R247: A ring group not complete within 1,250,000 clk ends its waiting job. -/
  | ringTimeout (cluster : Nat)
  /-- `AGE_LIMIT_REACHED`, R262: A queue's head age reaches A and the queue becomes age-eligible. -/
  | ageLimitReached (die q : Nat)
  /-- `PROMOTION`, R262: A queue's head age reaches 2A and the queue competes in class 3. -/
  | promotion (die q : Nat)
  /-- `STOP_INTERFACE_REQUEST`, R376: Returns an interface to CONFIG_UNLOCKED after fetched commands complete. -/
  | stopInterfaceRequest (q : Nat)
  /-- `UNASSIGNED_WORD`, R34: A slot issues a word with major 0x00, a reserved major or an unassigned field value, and it raises F_ILLEGAL precisely. -/
  | unassignedWord (w : BitVec 32)
  -- the other events of the opcode table
  /-- `DIVISION_COMPLETE`, R66: A division in progress ends, fills g[d] with its quotient or remainder and readies the slot. -/
  | divisionComplete (core slot : Nat)
  /-- `ATOMIC_PERFORM`, R225: An atomic, ldres or stcnd sent to its point is performed there and its result fills g[d]. -/
  | atomicPerform (core slot : Nat)
  /-- `BARM_WAKE_NOTICE`, R235: A wake-up notice from a released barrier object reaches a parked slot. -/
  | barmWakeNotice (core slot : Nat)
  /-- `ACC_LOCK_RELEASE`, R252: A tile lock clears and a waiting accld or accst performs its whole transfer. -/
  | accLockRelease (core slot : Nat)
  /-- `SCALE_STORE_WRITE`, R250: The codes of an scls reach an engine's scale store whole, after acceptances of that cycle. -/
  | scaleStoreWrite (core slot : Nat)
  /-- `SPAWN_PACKET`, R143: A spawn packet reaches its target core, which accepts and claims or refuses at once. -/
  | spawnPacket (core slot : Nat)
  /-- `SPAWN_ANSWER`, R143: The answer to a remote spawn reaches the spawner and is applied. -/
  | spawnAnswer (core slot : Nat)
  /-- `MIGRATION_PACKET_DEPARTURE`, R146: After the release step, the migrating packet leaves and the slot becomes FREE. -/
  | migrationPacketDeparture (core slot : Nat)
  /-- `RPUT_FILL`, R148: An rput write arrives and fills the target register or is discarded. -/
  | rputFill (core slot : Nat)
  /-- `PKG_BARRIER_ARRIVAL`, R350: A package barrier arrival reaches the cairn-tree root and is counted. -/
  | pkgBarrierArrival (core slot : Nat)
  /-- `STAMPED_STORE_ARRIVAL`, R363: A stamped store reaches its home slice and is tested, compared and admitted or answered. -/
  | stampedStoreArrival (core slot : Nat)
  /-- `VERSION_APPEND`, R362: A version held back by the four-version limit is appended once the second-oldest version is visible. -/
  | versionAppend (line : Nat)
  /-- `COMMIT_WAIT_END`, R361: The home die's E passes a version's stamp, the version becomes visible and its store is answered. -/
  | commitWaitEnd (core slot : Nat)
  /-- `STAMPED_ANSWER`, R363: The answer to a stamped store reaches its issuer, which fills g[d] or faults. -/
  | stampedAnswer (core slot : Nat)
  /-- `LDAS_ARRIVAL`, R365: An as-of load reaches its home slice and begins its as-of wait. -/
  | ldasArrival (core slot : Nat)
  /-- `AS_OF_ANSWER`, R365: The home's E exceeds t + Dlate and the as-of load is answered with the version at or below t. -/
  | asOfAnswer (core slot : Nat)
  /-- `SYSCALL_PACKET`, R296: A system-call packet reaches a service-core slot, which performs the service. -/
  | syscallPacket (core slot : Nat)
  /-- `SYSCALL_ANSWER`, R296: The service's answer writes g1-g3 and resumes the caller. -/
  | syscallAnswer (core slot : Nat)
  /-- `SCTL_RESUME`, R292: A write of 1 to k.sctl resumes a STOPPED slot. -/
  | sctlResume (core slot : Nat)
  /-- `SCTL_FREE`, R292: A write of 2 to k.sctl frees the target slot. -/
  | sctlFree (core slot : Nat)
  /-- `PRE_IMMEDIATE`, R307: A k.pre write of operation 1 requests immediate pre-emption of a group. -/
  | preImmediate (core : Nat) (whole : Bool)
  /-- `PRE_ANCHOR_DRAIN`, R309: A k.pre write of operation 2 requests anchor-drain pre-emption with a limit. -/
  | preAnchorDrain (core : Nat) (whole : Bool) (limit : Nat)
  /-- `PRE_RELEASE`, R330: A k.pre write of operation 3 releases the group and returns waiting launches. -/
  | preRelease (core : Nat) (whole : Bool)
  /-- `PREEMPT_STOP`, R307: A slot of a pre-empted group enters STOPPED at a turn boundary after any deferral ends. -/
  | preemptStop (core slot : Nat)
  /-- `QUIESCENCE_NOTICE`, R308: Once the group is quiescent, the service core receives the quiescence notice. -/
  | quiescenceNotice (core : Nat)
  /-- `EVQ_ENABLE`, R256: A k.evq word-0 write with the valid bit set empties the ring and zeroes tail and lost counter. -/
  | evqEnable (tenant q : Nat) (w : BitVec 64)
  /-- `EVQ_DISABLE`, R256: A k.evq word-0 write with the valid bit clear disables the queue. -/
  | evqDisable (tenant q : Nat)
  /-- `STORE_ACK`, R221: The acknowledgement of a store that left the buffer returns. -/
  | storeAck (core slot idx : Nat)
  /-- `REMOTE_LOAD_RETURN`, R220: The value of a load beyond own local memory returns and fills g[d]. -/
  | remoteLoadReturn (core slot : Nat)
  /-- `SCOPE_MISS_MESSAGE`, R209: A scope-miss message reaches the issuing core, counting the miss or starting the handler. -/
  | scopeMissMessage (core slot : Nat)
  /-- `FULL_EMPTY_PERFORM`, R222: An ldx or ldc finds its word full at its point and performs. -/
  | fullEmptyPerform (core slot : Nat)
  /-- `TRANSLATION_WALK_COMPLETE`, R193: A table walk ends with a translation, a fault, a page-fault upcall or a stage-2 wait. -/
  | translationWalkComplete (core slot : Nat)
  /-- `PAGE_FAULT_COMPLETION_NOTICE`, R196: A completion notice with the token ends the park and the faulting instruction reissues. -/
  | pageFaultCompletionNotice (core slot token : Nat)
  /-- `STAGE2_RESOLUTION`, R194: The hypervisor corrects a stage-2 entry or ends the wait with F_ADDR. -/
  | stage2Resolution (core slot : Nat) (ok : Bool)
  /-- `REPLICA_COLLAPSE_COMPLETE`, R199: The service core finishes a collapse and the waiting writers issue again. -/
  | replicaCollapseComplete (page : Nat)
  /-- `FAULT_NOTICE`, R292: A fault notice reaches the tile's service core and sets the notice bit. -/
  | faultNotice (tile : Nat)
  /-- `TASK_RECORD_ARRIVAL`, R159: A task record reaches a die and is inserted at its key position once quota and storage allow. -/
  | taskRecordArrival (idx : Nat)
  /-- `DISPATCH`, R163: The scheduler takes one dispatch decision and launches a record. -/
  | dispatch (die : Nat)
  /-- `STEAL_REQUEST`, R167: An idle die sends a steal request to its next neighbour. -/
  | stealRequest (die : Nat)
  /-- `STEAL_REPLY`, R169: A victim die answers a steal request with up to four stealable records. -/
  | stealReply (die : Nat)
  /-- `STOLEN_RECORDS_ARRIVAL`, R169: The stolen records reach the thief, are deadline-tested and join its queue. -/
  | stolenRecordsArrival (die : Nat)
  /-- `JOB_REQUEST`, R242: A job request reaches its target, which checks and accepts or refuses it. -/
  | jobRequest (core slot : Nat)
  /-- `JOB_ANSWER`, R277: The acceptance answer reaches the submitter, which writes g[d] and empties the completion register. -/
  | jobAnswer (core slot : Nat)
  /-- `JOB_WORK_END`, R253: A job's last term is summed and its output rows are written out. -/
  | jobWorkEnd (cluster : Nat) (copy : Bool)
  /-- `ENGINE_SOFT_ERROR`, R294: An uncorrectable error inside an engine or copy unit ends the job with DATA_ERROR. -/
  | engineSoftError (cluster : Nat) (copy : Bool) (detail last : Nat)
  /-- `JOB_COMPLETE`, R279: A finished job completes in acceptance order, writing status, completion fill and record. -/
  | jobComplete (cluster : Nat) (copy : Bool)
  /-- `FIRING_DECISION`, R263: The arbiter chooses one eligible queue to fire. -/
  | firingDecision (die : Nat)
  /-- `FIRE_RECORD_RESEND`, R266: A kind-1 fire record refused by its target die is sent again. -/
  | fireRecordResend (die : Nat)
  /-- `WINDOW_RESULT`, R271: A result or LATE reaches a reorder window entry and is recorded or discarded. -/
  | windowResult (idx : Nat)
  /-- `PAGE_HOME_MOVE`, R351: Service cores mark a home granule moving, copy it and switch every home map. -/
  | pageHomeMove (granule newDie : Nat)
  /-- `MOVED_REQUEST_FORWARD`, R352: A request reaching the old home after the move began is forwarded to the new home. -/
  | movedRequestForward (core slot : Nat)
  /-- `HOME_FORWARDING_END`, R351: After every die acknowledges the switch, the old home stops forwarding. -/
  | homeForwardingEnd (granule : Nat)
  /-- `CORE_CHECK_FAILURE`, R300: A failure of a core's own logic stops the whole core at the next turn boundary. -/
  | coreCheckFailure (core : Nat)
  /-- `CORE_REPAIR`, R301: The service core resets, restores and retries a stopped core, substituting the spare if needed. -/
  | coreRepair (core : Nat) (transient : Bool)
  /-- `REBUILD_FINISH`, R316: The translator finishes and the capsule becomes VALID with a new body version. -/
  | rebuildFinish (handle : Nat)
  /-- `INSTALL`, R313: Installs a capsule and returns its handle and body version. -/
  | installCapsule (q : Nat)
  /-- `BIND`, R319: Binds a typed reference to a region. -/
  | bindRef (q : Nat)
  /-- `LAUNCH`, R156: Builds a task record from the command fields. -/
  | launchTask (q : Nat)
  /-- `SUSPEND`, R307: Pre-empts and saves a context, immediately or by anchor drain. -/
  | suspendCtx (q : Nat)
  /-- `RESUME`, R318: Restores a saved context, remapping across a rebuild. -/
  | resumeCtx (q : Nat)
  /-- `DELETE`, R322: Deletes a capsule when nothing refers to it. -/
  | deleteCapsule (q : Nat)
  /-- `UPDATE`, R392: Installs a new second-stage firmware image and voids the capsules. -/
  | updateFw (q : Nat)
  /-- `ATTEST`, R379: Carries an SPDM request to the security core and returns its response. -/
  | attestCmd (q : Nat)
  /-- `REBUILD`, R316: Triggers a capsule rebuild. -/
  | rebuildCmd (q : Nat)
  /-- `END`, R306: Discards a saved context and frees its key slot. -/
  | endCtx (q : Nat)
  /-- `QUERY`, R375: Returns a capsule's state and body version, or the device generation. -/
  | queryCmd (q : Nat)
  /-- `DEBUG`, R323: Performs a debugger operation on an unprotected context. -/
  | debugCmd (q : Nat)
  /-- `PLACE`, R320: Copies a capsule's data image into memory. -/
  | placeImage (q : Nat)
  /-- `NOTIFY`, R374: A host writes a new tail and the interface fetches submission entries in ring order. -/
  | notify (q tail : Nat)
  /-- `CQHEAD_WRITE`, R374: A host moves cqhead, freeing completion ring space. -/
  | cqheadWrite (q v : Nat)
  /-- `COMPLETION_WRITE`, R374: A due completion is written to the completion ring once there is room. -/
  | completionWrite (q : Nat)
  /-- `LOCK_INTERFACE_REQUEST`, R376: Locks a queue interface's configuration and zeroes its indices. -/
  | lockInterfaceRequest (q : Nat)
  /-- `START_INTERFACE_REQUEST`, R376: Moves a locked interface to RUN. -/
  | startInterfaceRequest (q : Nat)
  /-- `FROZEN_FIELD_WRITE`, R376: A write to a frozen interface field moves the interface to ERROR. -/
  | frozenFieldWrite (q word : Nat) (v : BitVec 64)
  /-- `LD_FUNCTION_LEVEL_RESET`, R377: A function-level reset of a logical device ends its contexts, calls and records. -/
  | ldFunctionLevelReset (ld : Nat)
  /-- `GET_VERSION`, R379: SPDM version request; restarts the transcript. -/
  | getVersion (chan : Nat) (msg : List (BitVec 8))
  /-- `GET_CAPABILITIES`, R379: SPDM capabilities request. -/
  | getCapabilities (chan : Nat) (msg : List (BitVec 8))
  /-- `NEGOTIATE_ALGORITHMS`, R379: SPDM algorithm negotiation. -/
  | negotiateAlgorithms (chan : Nat) (msg : List (BitVec 8))
  /-- `GET_DIGESTS`, R379: SPDM certificate digests request. -/
  | getDigests (chan : Nat) (msg : List (BitVec 8))
  /-- `GET_CERTIFICATE`, R379: SPDM certificate chain request. -/
  | getCertificate (chan : Nat) (msg : List (BitVec 8))
  /-- `CHALLENGE`, R379: SPDM challenge request. -/
  | challengeReq (chan : Nat) (msg : List (BitVec 8))
  /-- `GET_MEASUREMENTS`, R380: SPDM measurements request over the SHA-384 registers. -/
  | getMeasurements (chan : Nat) (msg : List (BitVec 8))
  /-- `KEY_EXCHANGE`, R379: SPDM ECDHE key exchange opening a session. -/
  | keyExchange (chan : Nat) (msg : List (BitVec 8))
  /-- `FINISH`, R379: SPDM finish completing a secured session. -/
  | finishReq (chan : Nat) (msg : List (BitVec 8))
  /-- `KEY_UPDATE`, R379: SPDM session key update. -/
  | keyUpdate (chan : Nat) (msg : List (BitVec 8))
  /-- `HEARTBEAT`, R379: SPDM session heartbeat. -/
  | heartbeatReq (chan : Nat) (msg : List (BitVec 8))
  /-- `END_SESSION`, R379: Ends an SPDM secured session. -/
  | endSession (chan : Nat) (msg : List (BitVec 8))
  /-- `VENDOR_DEFINED_REQUEST`, R379: Carries a TDISP request within a secured session. -/
  | vendorDefinedRequest (chan : Nat) (msg : List (BitVec 8))
  /-- `UNSUPPORTED_REQUEST`, R379: Any other SPDM request, such as PSK_EXCHANGE, is answered with ERROR UnsupportedRequest. -/
  | unsupportedRequest (chan : Nat) (msg : List (BitVec 8))
  /-- `POWER_ON`, R390: Power-on or module reset runs the bring-up steps in order. -/
  | powerOn (failed : Nat)
  /-- `POD_JOIN`, R356: After bring-up the package joins a pod and adopts its time origin. -/
  | podJoin (number origin : Nat) (members : List Nat)
  /-- `POD_CHANGE`, R355: Packages join or leave the pod and remote ranges change population. -/
  | podChange (members : List Nat)
  /-- `THROTTLE_ENTRY`, R389: Junction temperature or sustained power moves the module into THROTTLE. -/
  | throttleEntry (tj : BitVec 8) (power : Bool)
  /-- `THROTTLE_EXIT`, R389: Temperature and power fall and the module returns to NORMAL. -/
  | throttleExit (tj : BitVec 8) (low : Bool)
  /-- `CRITICAL_SHUTDOWN`, R389: At 105 C the module stops every core and removes power. -/
  | criticalShutdown (tj : BitVec 8)
  /-- `POWER_LOSS`, R392: Power is lost, leaving recovery at the next power-on if an update was mid-copy. -/
  | powerLoss
  /-- `BLOCK_EVICTION`, R227: A reserved block leaves the cluster unit or home slice that holds it, and the slot's reservation is lost. -/
  | blockEviction (core slot : Nat)
  /-- `SOFT_ERROR`, R298: An error arises in a word of memory, a register file or a TLB; it is corrected and logged if single-bit, or left uncorrectable until the word is written whole. -/
  | softError (site : SoftSite) (single : Bool)
  /-- `HOLDOVER_START`, R356: A die's time path degrades (fabric time link, grandmaster or cairn-tree link lost), and the die runs in holdover with its width growing. -/
  | holdoverStart (die : Nat)
  /-- `HOLDOVER_END`, R356: A die's time path recovers, and its interval is disciplined back within the healthy width bound. -/
  | holdoverEnd (die : Nat)
  /-- `JOB_PAGE_IN`, R255: The service core brings in an absent page, and a matrix or copy job's waiting access goes on. -/
  | jobPageIn (cluster : Nat) (copy : Bool)
  /-- `HOST_CONFIGURATION_WRITE`, R372: A host's privileged request to its logical device (configuration write or capability read) is trapped and emulated by the hypervisor. -/
  | hostConfigurationWrite (ld reg : Nat) (v : BitVec 32)
  deriving DecidableEq, Repr

end Sys2Proof
end

