-- ==== Sys2Proof/Machine/State.lean ====
section
/-!
DEFINITION. What the GQ-4100 holds, as plain data, and its value right after reset.

Every table that is sparse is a list of (number, entry) pairs with strictly rising numbers that lists no entry
equal to its reset value (Machine/Tab.lean), so that equal tables are equal lists.
The memory key of a byte is its physical address (below 2^52, Table 10.2) or, for byte o of the local memory of
core n, the address 2^56 + n * 2^18 + o, which for a compute core is its core-window address (Table 10.1).
-/

namespace Sys2Proof.Machine

/-! ## Places and page types -/

/-- The type field of a stage-1 leaf (Table 10.4, bits 62:61). -/
inductive PageTy where
  | normal | sync | stamped | device
  deriving DecidableEq, Repr

/-- Where a location is performed (R189, R207, R208): the local memory of a core, a home slice of a die of this
package, the second tier, host memory, another package, or a device register. -/
inductive Place where
  | lmem (core : Nat)
  | home (die : Nat)
  | cxl
  | hostMem
  | pkg (n : Nat)
  | devReg
  deriving DecidableEq, Repr

/-- A resolved location: its memory key, its place, the type of its page (normal for local memory), whether the page
is replicated (R199), and whether it was reached through another core's window (R187). -/
structure Loc where
  key : Nat
  place : Place
  ty : PageTy
  rp : Bool
  window : Bool
  deriving DecidableEq, Repr

/-- The access kinds of Table 10.6; and the two reads whose failures are not those of a load: that of a job descriptor, whose failure is
a refusal in register d (R273), and the translation of an accumulator image, whose absent pages wait (R280). -/
inductive Acc where
  | load | store | fetch | atomic
  | desc (d : Reg)
  | image (store : Bool)
  deriving DecidableEq, Repr

/-- The operations of the atomic major (R42). -/
inductive AtOp where
  | add | and | or | xor | min | max | minz | maxz | swap | cas | ldres | stcnd
  deriving DecidableEq, Repr

/-! ## One slot (Table 2.1) -/

/-- The four states of a slot (R24). -/
inductive SlotSt where
  | free | ready | parked | stopped
  deriving DecidableEq, Repr

/-- The kernel a slot runs: its capsule's handle, the kernel's index in it, and the body version it entered. -/
structure KernRef where
  handle : Nat
  kernel : Nat
  version : Nat
  deriving DecidableEq, Repr

/-- One entry of a store buffer (R27, R133): a scalar store (`lanes` empty) of `size` bytes of `data`, or a vector
store, whose enabled lanes stand in `lanes` in lane order as (memory key, word).
`stf` sets the word full (R223), `rel` and `sc` are its order and scope, `loose` marks a missed release store that the router
forwards as a plain one (R209): while it still has `rel`, it has been performed and its scope-miss message is on its way. `due` is the
cycle from which the entry stands in the buffer (Table 2.4), `ckey` the key under which the issuing context enciphers (R305), `ea` the effective address, `claim` the claim of the slot under which it was issued, and `kern`, `tenant`
and `ctx` what the thread of that claim runs, for a scope-miss handler (R209). -/
structure StoreEnt where
  ea : Word
  loc : Loc
  size : Nat
  data : Word
  stf : Bool
  rel : Bool
  loose : Bool
  sc : BitVec 3
  due : Nat
  ckey : Nat
  claim : Nat
  kern : Option KernRef
  tenant : BitVec 8
  ctx : Nat
  lanes : List (Nat × Lane)
  deriving DecidableEq, Repr

/-- A reservation (R226): the block as `ldres` formed it, and the memory block at its point. -/
structure Resv where
  blk : Nat
  key : Nat
  place : Place
  deriving DecidableEq, Repr

/-- A pending guard record (R198). -/
structure GuardRec where
  core : Nat
  off : Nat
  count : Nat
  deriving DecidableEq, Repr

/-- A fire buffer held by a thread (R266): die, queue and buffer number. -/
structure FireTag where
  die : Nat
  q : Nat
  buf : Nat
  deriving DecidableEq, Repr

/-- Where a stamped store stands (R363): sent; held at its home behind the four-version limit since arrival `seq`;
in commit wait for stamp `s`; answered (`code` 0 done, 24 F_LATESTAMP, 26 F_WIDEN; `v` the stamp or the old word). -/
inductive StampStage where
  | sent
  | held (seq : Nat)
  | commit (s : Nat) (v : Word)
  | answered (code : Nat) (v : Word)
  deriving DecidableEq, Repr

/-- The answer to a job request (R242): accepted with its identifier and completion register, or refused. -/
inductive JobAns where
  | accepted (id : Nat) (creg : Reg)
  | refused (code : Nat)
  deriving DecidableEq, Repr

/-- What a slot has asked of a unit that answers at a time of its own, with what it sent: the state of a job (R281); the status of a queue
or window (R286); a configuration (R285); a reference (R335); a segment of a save image, with its request and its destination (R337). -/
inductive Asked where
  | jpoll (d : Reg) (id : Word)
  | xstat (d : Reg) (sel : Word)
  | xcfg (sel : Word) (words : List Word)
  | refld (shape : Bool) (d c : Reg) (i : Word)
  | seal (d : Reg) (req : List Byte) (dst : Word) (pages : List (Word × Loc))
  deriving DecidableEq, Repr

/-- What a slot waits for beyond its own turns. `none`: nothing. `retry`: its word is evaluated again at its next
turn. Every other form waits for the event of the opcode table that ends it. -/
inductive Pend where
  | none
  | retry
  | div (d : Reg) (v : Word)
  | load (d : Reg) (ea : Word) (loc : Loc) (size : Nat) (signed : Bool)
  | devStore (ea : Word) (loc : Loc) (size : Nat) (v : Word)
  | ackWait
  | walk (va : Word) (acc : Acc) (rd wr : Bool) (ptab s2b s2l : Word)
  | page (token : Nat)
  | stage2 (va : Word) (acc : Acc)
  | collapse (page : Nat)
  | atomic (op : AtOp) (d : Reg) (ea : Word) (loc : Loc) (size : Nat) (x e : Word)
  | fullEmpty (d : Reg) (ea : Word) (loc : Loc) (take : Bool)
  | barmSent (d : Reg) (ea : Word) (loc : Loc) (count : Nat)
  | barm (d : Reg) (key : Nat) (gen : BitVec 32)
  | barrier (level inst id : Nat) (gen : Nat) (stamp : Option Reg)
  | barSent (id : Nat) (stamp : Option Reg)
  | sbarRel (d : Reg) (r due : Nat)
  | spawn (target : Nat) (entry : Word) (kernel : Nat) (regs : List Word) (ans : Option Bool)
  | taskSent
  | migr (target : Nat)
  | latch
  | yieldTill (t : Nat)
  | wrs (sc : BitVec 3)
  | jobReq (copy : Bool) (fn : Nat) (d : Reg) (ea : Word) (loc loc2 : Loc) (cap : Word) (cluster : Nat)
  | jobAns (d : Reg) (copy : Bool) (cluster : Nat) (ans : JobAns)
  | acc (load : Bool) (image : Word) (pages : List Loc) (cluster tile : Nat) (running : Bool)
  | asked (q : Asked)
  | jwait (id : Word)
  | scls (mask : Nat) (block : Nat) (codes : List Byte)
  | xret (idx : Nat)
  | sysc (service : Word) (ans : Option (Word × Word × Word))
  | rbld (handle : Nat)
  | stamped (cas : Bool) (d : Reg) (ea : Word) (loc : Loc) (s : Nat) (v x : Word) (stage : StampStage)
  | ldas (d : Reg) (ea : Word) (loc : Loc) (t : Nat) (arrived : Bool)
  | idle
  deriving DecidableEq, Repr

/-- What a pre-emption asks of a slot (R307, R309): nothing; to stop at its next turn boundary; to stop at its next `anchor`. -/
inductive StopReq where
  | none_ | now_ | anchor
  deriving DecidableEq, Repr

/-- The task whose work a slot does (R166, R266): its control word, absent for a thread that no task record started, and
the fire buffer its thread holds. -/
structure TaskRef where
  ctl : Option Word
  fire : Option FireTag
  deriving DecidableEq, Repr

/-- Everything one slot holds (Table 2.1), with what it waits for and what the machine keeps about its claim: `word` the word it fetched
last, `frameBuf` the words of a repeat frame in its sequencer buffer, by position (R59), `drainCyc` one more than the cycle in which its
buffer last drained to own local memory (R27), `stampIn` whether a release stamp has filled the register of the `sbar` at which it was
stopped (R153, R293), `waitCyc` one more than the cycle in which a `wait` of
its took a setting of its arrival latch last (R150), `counted` whether the word at which it waits has issued and its demotion been counted (R378), `owed` what a slot still waits for that goes on at a barrier word which has counted it (R153), until that word issues, `unwind` the retired core for which the slot is to stop with F_UNWIND at its next turn (R304), `stopReq` what
a pre-emption asks of it. -/
structure Slot where
  st : SlotSt
  g : Vector Word 16
  full : BitVec 16
  pc : Word
  sw : Word
  fst : Word
  epc : Word
  cause : Word
  fault : Word
  faddr : Word
  tenant : BitVec 8
  buf : List StoreEnt
  out : List StoreEnt
  spad : Option (Nat × Nat)
  kern : Option KernRef
  task : TaskRef
  ctx : Nat
  claims : Nat
  claimedAt : Nat
  resv : Option Resv
  guardRec : Option GuardRec
  tgt : Word
  notice : Bool
  pend : Pend
  popDue : Bool
  wbRegs : BitVec 16
  wbDue : Nat
  atAnchor : Bool
  upcall : Bool
  word : BitVec 32
  frameBuf : List (Nat × BitVec 32)
  drainCyc : Nat
  stampIn : Bool
  owed : Pend
  waitCyc : Nat
  counted : Bool
  unwind : Option Nat
  stopReq : StopReq
  badG : BitVec 16
  deriving DecidableEq, Repr

/-- Table 2.7 before any claim, and R28: FREE, every register zero and empty (g0 full). -/
def Slot.reset : Slot :=
  { st := .free, g := Vector.replicate 16 0, full := 1, pc := 0, sw := 0, fst := 0, epc := 0, cause := 0, fault := 0,
    faddr := 0, tenant := 0, buf := [], out := [], spad := none, kern := none, task := ⟨none, none⟩, ctx := 0, claims := 0,
    claimedAt := 0, resv := none, guardRec := none, tgt := 0, notice := false, pend := .none, popDue := false, wbRegs := 0, wbDue := 0,
    atAnchor := false, upcall := false, word := 0, frameBuf := [], drainCyc := 0, stampIn := false, owed := .none, waitCyc := 0, counted := false, unwind := none, stopReq := .none_, badG := 0 }

/-! ## Tasks and arrivals -/

/-- The key of a task record (R158). -/
structure TaskKey where
  mid : Nat
  src : Nat
  seq : Nat
  deriving DecidableEq, Repr

/-- A task record (R156). `full` bit n - 1 is the state of gn, `ctx` the context its capsule is bound to, `entry` the number of the
`.entry` at `pc`. -/
structure TaskRec where
  pc : Word
  handle : Nat
  kernel : Nat
  tenant : BitVec 8
  ctl : Word
  deadline : Word
  regs : List Word
  full : BitVec 8
  key : TaskKey
  ctx : Nat
  entry : Nat
  fire : Option FireTag
  deriving DecidableEq, Repr

/-- A task record on its way to a die (R159, R175): the slot that waits for its acceptance, if any; the interface and tag of the
LAUNCH that waits for it; for a fire record that was refused that it waits to be sent again (R266); and whether it joins its queue
beyond the tenant's quota (R169, R308). -/
structure RecFlight where
  die : Nat
  task : TaskRec
  issuer : Option (Nat × Nat)
  host : Option (Nat × Nat)
  resend : Bool
  exempt : Bool
  deriving DecidableEq, Repr

/-- The sources of Table 7.1. A spawn claims at once and never waits at a link. -/
inductive ArrSrc where
  | launch | spawn | fire | migrant | missHandler | upcall
  deriving DecidableEq, Repr

/-- An arrival (R138) waiting at link `link` of a core since cycle `at_`. `regs` lists (register, value, full).
`record` keeps a launch's record, which a release or a retirement sends back (R308); `cause` names the slot whose miss or page
fault raised the arrival, `miss` the number of the missed store that a scope-miss handler is started for. -/
structure Arrival where
  src : ArrSrc
  link : Nat
  at_ : Nat
  pc : Word
  kern : KernRef
  tenant : BitVec 8
  ctx : Nat
  regs : List (Reg × Word × Bool)
  bgen : Bool
  task : TaskRef
  record : Option TaskRec
  cause : Option (Nat × Nat)
  miss : Nat
  deriving DecidableEq, Repr

/-! ## A core (R136) and its cluster -/

/-- One TLB entry (R191): tenant, virtual base, size in bytes, the size of the page of which it is a piece (R194), physical base, guest frame of the base, page type, the
replicated bit, the permission bits of stage 1 and those of stage 2 (all set where stage 2 is off). -/
structure TlbEnt where
  tenant : BitVec 8
  va : Nat
  size : Nat
  page : Nat
  pa : Nat
  gpa : Nat
  ty : PageTy
  rp : Bool
  u : Bool
  x : Bool
  w : Bool
  r : Bool
  s2x : Bool
  s2w : Bool
  s2r : Bool
  deriving DecidableEq, Repr

/-- A reorder window's configuration (R270, Table 16.6). -/
structure WinCfg where
  base : Nat
  n : Nat
  k : Nat
  w : Nat
  deriving DecidableEq, Repr

/-- The health of a core (R300 to R302): it works; its own logic has failed and it is stopped; it is retired. -/
inductive Health where
  | ok | stopped | retired
  deriving DecidableEq, Repr

/-- How a core is being pre-empted (R307, R309): not at all; immediately; by anchor drain until a cycle. -/
inductive PreMode where
  | off | immediate | drain (until_ : Nat)
  deriving DecidableEq, Repr

/-- A missed release store that the router has handed to a scope-miss handler (R209, R230): its number, the slot that issued it and that
slot's claim, the slot and claim of the handler once it has claimed one, and whether the handler has quit. -/
structure Miss where
  id : Nat
  slot : Nat
  claim : Nat
  handler : Option (Nat × Nat)
  quit : Bool
  deriving DecidableEq, Repr

/-- Everything a core holds besides its slots and its local memory. A chain queue (R147) is held by the core that pushes it;
each entry carries the cycle in which its push is complete (R22), which a pop of the same cycle does not see (R18). `svDone` lists,
for a vector register with an uncorrectable error, the lanes that single writes have replaced (R299). `misses` lists the
missed stores whose handlers have not ended, oldest first, `missSeq` counts them. `claimCyc` is one more than the
cycle of its last claim, 0 before any (R140). -/
structure Core where
  owner : Word
  wten : BitVec 8
  vmap : BitVec 16
  poolBase : Nat
  poolSize : Nat
  latch : BitVec 16
  chq : List (Nat × List (Nat × Word))
  barGen : Nat
  barArr : Nat
  vf : List (Nat × Lane)
  badV : List Nat
  svDone : List (Nat × BitVec 32)
  win : Option WinCfg
  winPtr : Nat
  winErr : Nat
  winFlags : BitVec 5
  winTenant : BitVec 8
  links : List Arrival
  itlb : List TlbEnt
  dtlb : List TlbEnt
  health : Health
  pre : PreMode
  preGroup : List Nat
  preExpired : Bool
  quiesced : Bool
  missCount : Nat
  misses : List Miss
  missSeq : Nat
  seq : Nat
  claimCyc : Nat
  deriving DecidableEq, Repr

/-- R28, R328: a core at device reset. -/
def Core.reset : Core :=
  { owner := 0, wten := 0, vmap := 0, poolBase := 0, poolSize := 0, latch := 0, chq := [], barGen := 0, barArr := 0,
    vf := [], badV := [], svDone := [], win := none, winPtr := 0, winErr := 0, winFlags := 0, winTenant := 0, links := [], itlb := [],
    dtlb := [], health := .ok, pre := .off, preGroup := [], preExpired := false, quiesced := false, missCount := 0, misses := [], missSeq := 0, seq := 0, claimCyc := 0 }

/-- Where an accepted job stands (R244, R279): queued; at the head of its queue since a cycle, waiting for its ring group;
started, and reading its shape record or list; running; its work ended with a status word's code, detail and flags and a faulting address. -/
inductive JobStage where
  | queued
  | waiting (since : Nat)
  | opening
  | running
  | ended (code detail : Nat) (flags : BitVec 8) (faddr : Word)
  deriving DecidableEq, Repr

/-- One engine of a ring group (R247): its cluster, the acceptance of its job, and who submitted that job. -/
structure RingEngine where
  cluster : Nat
  seq : Nat
  core : Nat
  tenant : BitVec 8
  owner : Word
  ckey : Nat
  deriving DecidableEq, Repr

/-- An accepted job (R241 to R244): how many acceptances its target had made with it, what its descriptor held, where the
descriptor's two lines lie, who submitted it, the scale codes latched at its acceptance (R250), the shape record or list
that it read when it started, how far its work has come (the parts done, the flags so far, the last address written), the engines of its ring
group in cluster order, and the K-slices of B that it has: their number and, column by column, their elements (R247). -/
structure Job where
  seq : Nat
  fn : Nat
  dws : List Word
  line1 : Loc
  line2 : Loc
  tenant : BitVec 8
  owner : Word
  ckey : Nat
  core : Nat
  slot : Nat
  claim : Nat
  creg : Reg
  tile : Nat
  scaleA : List Byte
  scaleB : List Byte
  mayPost : Bool
  recWords : List Word
  pos : Nat
  fl : BitVec 8
  last : Word
  stage : JobStage
  pageWait : Bool
  ring : List RingEngine
  bs : List (Nat × List (List Nat))
  deriving DecidableEq, Repr

/-- A matrix engine or a copy unit (R241, R243): its accepted jobs, oldest first, how many it has accepted since reset, how many of
them are complete (R279), the tenants of the accepted ones, newest first (R281), and one more than the cycle of the last
acceptance. -/
structure Unit_ where
  jobs : List Job
  issued : Nat
  through_ : Nat
  past : List (BitVec 8)
  accCyc : Nat
  deriving DecidableEq, Repr

/-- An accumulator element (R105): its integer and its invalid mark. -/
structure AccEl where
  v : Word
  mark : Bool
  deriving DecidableEq, Repr

/-- What a cluster holds: its capability table, its scale server's position, its engine with scale store, tiles and the
slots that hold a tile's lock for an image transfer (R252), its copy unit, its L2 TLB and its spare, and one more than the cycle in
which its scale store or a tile was last written by an instruction. -/
structure Cluster where
  caps : List (Nat × Word)
  sserv : BitVec 3
  mx : Unit_
  cp : Unit_
  scale : List (Nat × Byte)
  acc : List (Nat × AccEl)
  accLock : List (Nat × (Nat × Nat))
  tlb2 : List TlbEnt
  spareUsed : Bool
  touchCyc : Nat
  deriving DecidableEq, Repr

/-- R328: a cluster at device reset. -/
def Cluster.reset : Cluster :=
  { caps := [], sserv := 7, mx := ⟨[], 0, 0, [], 0⟩, cp := ⟨[], 0, 0, [], 0⟩, scale := [], acc := [], accLock := [], tlb2 := [],
    spareUsed := false, touchCyc := 0 }

/-! ## A die: scheduler, bellows, clock -/

/-- A tenant's state on a die (R159, R160), and its registers of Table 21.2 there. -/
structure TenantDie where
  bal : Int
  rf : Nat
  cap : Nat
  ln : Nat
  quota : Nat
  ptab : Word
  s2b : Word
  s2l : Word
  scm : Word
  deriving DecidableEq, Repr

/-- R328: all zero. -/
def TenantDie.reset : TenantDie := ⟨0, 0, 0, 0, 0, 0, 0, 0, 0⟩

/-- A loan (R162): borrower, lender, amount still owed. -/
structure Loan where
  x : Nat
  y : Nat
  amt : Nat
  deriving DecidableEq, Repr

/-- A token in a queue (R260): its 32-byte record, its entry time and the cycle of its acceptance. -/
structure Tok where
  bytes : List Byte
  entry : Nat
  at_ : Nat
  deriving DecidableEq, Repr

/-- A bellows queue (R259 to R262): its assignment by the hypervisor (`k.xten`), the capsule and tenant that configured it,
its configuration (the eight doublewords of Table 15.2 with its areas as physical addresses), its tokens oldest first, how
many of them are on-die, its busy fire buffers and the two sticky events of its head's age. -/
structure XQueue where
  assigned : Bool
  xten : BitVec 8
  tenant : BitVec 8
  handle : Nat
  ctx : Nat
  entry : Nat
  cfg : List Word
  ckey : Nat
  spillPa : List Nat
  firePa : List Nat
  toks : List Tok
  onDie : Nat
  busy : List Nat
  aged : Bool
  promoted : Bool
  deriving DecidableEq, Repr

/-- R261, R328: disabled, empty, unassigned. -/
def XQueue.reset : XQueue :=
  { assigned := false, xten := 0, tenant := 0, handle := 0, ctx := 0, entry := 0, cfg := [], ckey := 0, spillPa := [], firePa := [],
    toks := [], onDie := 0, busy := [], aged := false, promoted := false }

/-- The steal state of a die (R167): nothing outstanding, a request travelling to a victim with the free quota of each tenant, a reply travelling back, or the
pause after an empty reply. -/
inductive StealSt where
  | none_
  | asked (victim : Nat) (quota : List (Nat × Nat))
  | reply (recs : List TaskRec)
  | pause (until_ : Nat)
  deriving DecidableEq, Repr

/-- What a die's scheduler keeps of a core (R163): its FREE slots, its allocated granules, and the pool ranges in use, guard granules
included. -/
structure CoreSum where
  free : Nat
  vmap : BitVec 16
  uses : List (Nat × Nat)
  deriving DecidableEq, Repr

/-- The summary of a core on which nothing runs. -/
def CoreSum.reset : CoreSum := ⟨16, 0, []⟩

/-- Everything a die holds beyond its cores and clusters. `dispCyc`, `refillCyc` and `cfgCyc` are one more than the cycle of its last
dispatch decision, refill and queue configuration, 0 before any. -/
structure Die where
  ten : List (Nat × TenantDie)
  recs : List TaskRec
  sums : List (Nat × CoreSum)
  loans : List Loan
  last : Nat
  stealNext : Nat
  steal : StealSt
  xq : List (Nat × XQueue)
  fireSeq : Nat
  clkE : Nat
  clkL : Nat
  goodE : Nat
  holdover : Bool
  wmax : Nat
  dlate : Nat
  dispCyc : Nat
  refillCyc : Nat
  cfgCyc : Nat
  deriving DecidableEq, Repr

/-- R328, R357: a die at device reset. -/
def Die.reset : Die :=
  { ten := [], recs := [], sums := [], loans := [], last := 255, stealNext := 0, steal := .none_, xq := [], fireSeq := 0,
    clkE := 0, clkL := 0, goodE := 0, holdover := false, wmax := 64, dlate := 1000, dispCyc := 0, refillCyc := 0,
    cfgCyc := 0 }

/-! ## The package -/

/-- A hardware barrier above the core level (R151): participant count, generation, arrivals, and for the package level the
stamp of its last release (R370). -/
structure HwBar where
  count : Nat
  gen : Nat
  arr : Nat
  stamp : Nat
  deriving DecidableEq, Repr

/-- R328: participant count 0, nothing counted. -/
def HwBar.reset : HwBar := ⟨0, 0, 0, 0⟩

/-- A version of a stamped line (R361): its stamp and its eight words, each with the key under which it is enciphered (R305). -/
structure Version where
  stamp : Nat
  words : List (Word × Nat)
  deriving DecidableEq, Repr

/-- An event queue (R256). -/
structure EvQueue where
  valid : Bool
  base : Nat
  s : Nat
  tail : Nat
  lost : Nat
  deriving DecidableEq, Repr

/-- R328: invalid. -/
def EvQueue.reset : EvQueue := ⟨false, 0, 0, 0, 0⟩

/-- An `rput` in flight (R148, R179): writer, target core and slot, the claim it names, register and value. -/
structure RputFlight where
  core : Nat
  slot : Nat
  tcore : Nat
  tslot : Nat
  claim : Nat
  tenant : BitVec 8
  d : Reg
  v : Word
  deriving DecidableEq, Repr

/-- A result on its way to a reorder window (R265, R284): origin core, entry, instance, its row or LATE, and the slot whose
`xret` waits for the window's answer. -/
structure ResultFlight where
  origin : Nat
  rslot : Nat
  inst : Nat
  row : Option (List Lane)
  issuer : Option (Nat × Nat)
  deriving DecidableEq, Repr

/-- A notice on its way to a tile's service core: the 16 bytes of a fault notice (R292); a list of stopped slots with park reason and
at-anchor bit (R308); a stage-2 wait of a slot with the address (R194); a context that has ended with its core (R302). -/
inductive Notice where
  | fault (tile : Nat) (bytes : List Byte)
  | quiescence (tile : Nat) (slots : List (Nat × Nat × Nat × Bool))
  | stage2 (tile core slot : Nat) (va : Word)
  | ended (tile ctx : Nat)
  deriving DecidableEq, Repr

/-- The states of a key slot (R306). -/
inductive KeySt where
  | empty | active | idle
  deriving DecidableEq, Repr

/-- A key slot (R306): its key, which no instruction reads, named by a number; its context, save counter and live bit; and
the save or restore in progress: whether a save is open, its next segment number, whether a restore has begun, the slots that the
save has sealed, as the machine keeps them beside what a segment carries, and of a restore the slots whose state it has opened, each with the claim under which that state stands, and the vector
registers that it has opened before their slot's state (slot, first register, lanes). A slot's key is 16 * core + slot. -/
structure KeySlot where
  st : KeySt
  key : Nat
  ctx : Nat
  c : Word
  l : Bool
  openSave : Bool
  seg : Nat
  restoring : Bool
  kept : List (Nat × Slot)
  back : List (Nat × Nat)
  lanes : List (Nat × Nat × List Lane)
  deriving DecidableEq, Repr

/-- R328: EMPTY. -/
def KeySlot.reset : KeySlot := ⟨.empty, 0, 0, 0, false, false, 0, false, [], [], []⟩

/-- The states of a capsule (Table 20.2). -/
inductive CapSt where
  | valid | void | rebuilding | deleted
  deriving DecidableEq, Repr, Inhabited

/-- A kernel header's resources (R13, R154): window granules, scratchpad bytes, most slots of a core. -/
structure Kernel where
  vsize : Nat
  spad : Nat
  slots : Nat
  deriving DecidableEq, Repr

/-- An entry point: the kernel it belongs to and its byte offset in the body. -/
structure EntryPt where
  kernel : Nat
  off : Nat
  deriving DecidableEq, Repr

/-- A reference table entry (Table 20.3): declared type, type (15 while unbound), base, shape. -/
structure RefEnt where
  decl : Nat
  ty : Nat
  base : Word
  shape : Word
  deriving DecidableEq, Repr

/-- A native register of an anchor map entry (Table 20.1). -/
inductive LiveReg where
  | g (r : Reg)
  | v (r : VReg)
  deriving DecidableEq, Repr, Inhabited

/-- An anchor map entry (Table 20.1); `off` is none where it is recorded as absent. -/
structure AnchorEnt where
  num : Nat
  kernel : Nat
  off : Option Nat
  live : List (Nat × LiveReg)
  deriving DecidableEq, Repr

/-- A native island (R313, R314): the generation that tags it, its words, its entry points (their numbers among the capsule's, byte
offsets), and its `.anchor` lines: which anchor of its part's Acoon form each one names, byte offset, live registers. -/
structure Island where
  gen : Nat
  words : List (BitVec 32)
  entries : List (Nat × Nat)
  anchors : List (Nat × Nat × List (Nat × LiveReg))
  deriving DecidableEq, Repr, Inhabited

/-- A part of a capsule's Acoon form (R15, R313): the form of a kernel that has no island, or the fallback of an island, with the island
itself. `form` is the form's bytes, `entries` the numbers of the entry points that lie in it, `marks` its anchors in order, each with the
value numbers that are live there (R315), `backEdges` for each loop back-edge the anchor marked at its target, if one is (R314). -/
structure AcoonPart where
  kernel : Nat
  form : List Byte
  entries : List Nat
  marks : List (List Nat)
  backEdges : List (Option Nat)
  island : Option Island
  deriving DecidableEq, Repr, Inhabited

/-- A body (R313, R314): its base address in the tenant's translation, the guest physical address of its pages, its words and its
anchor map. -/
structure Body where
  base : Word
  pa : Nat
  words : List (BitVec 32)
  entries : List EntryPt
  anchors : List AnchorEnt
  deriving DecidableEq, Repr, Inhabited

/-- An installed capsule (R313): state, body version, kernels, body, earlier anchor maps by version (R318), references, data
image, upcall entry, fault records (R197), its source object, the parts of its Acoon form with the islands, and the kernel of each of its
entry points. -/
structure Capsule where
  tenant : BitVec 8
  st : CapSt
  version : Nat
  kernels : List Kernel
  body : Body
  oldMaps : List (Nat × List AnchorEnt)
  refs : List RefEnt
  image : List Byte
  upcall : Option Nat
  faults : Nat
  object : List Byte
  parts : List AcoonPart
  entryKernels : List Nat
  deriving DecidableEq, Repr, Inhabited

/-- A record in use of a context's fault area (R197): its index, token, and the slot that faulted. -/
structure FaultUse where
  idx : Nat
  token : Nat
  core : Nat
  slot : Nat
  deriving DecidableEq, Repr

/-- A fault area (R197), of one context and capsule: its address, physical address, number of records, records in use. -/
structure FaultArea where
  ctx : Nat
  handle : Nat
  tenant : BitVec 8
  va : Word
  pa : Nat
  n : Nat
  used : List FaultUse
  deriving DecidableEq, Repr

/-- What a save holds (R318): stopped slots, core states, local memory bytes, empty words, keys of words, words with an uncorrectable error
(R299), anchor numbers by slot, and for a protected context the segments that were written (R311). -/
structure Saved where
  slots : List (Nat × Slot)
  cores : List (Nat × Core)
  mem : List Host.Cell
  empties : List (Nat × Bool)
  tags : List (Nat × Nat)
  bads : List (Nat × Bool)
  anchors : List (Nat × Option Nat)
  segs : List (List Byte)
  deriving DecidableEq, Repr

/-- What the firmware keeps of a context (R303) beside the `k.owner` of its cores: its breakpoint anchors by
number (R323), its save, if it is saved, and whether it ends once it is quiescent (R377). -/
structure Ctx where
  bkpts : List Nat
  saved : Option Saved
  ending : Bool
  deriving DecidableEq, Repr

/-- No breakpoint, no save. -/
def Ctx.reset : Ctx := ⟨[], none, false⟩

/-! ## Hosts -/

/-- The TDISP states of an interface (Table 26.3). -/
inductive TState where
  | unlocked | locked | run | error
  deriving DecidableEq, Repr

/-- A completion (R374): tag, status, result. -/
structure Completion where
  tag : BitVec 32
  status : Nat
  result : Word
  deriving DecidableEq, Repr

/-- A command fetched from a ring and not yet complete: its 64 bytes, and the step it has reached (0 not started). -/
structure Cmd where
  bytes : List Byte
  stage : Nat
  deriving DecidableEq, Repr

/-- A queue interface (Table 26.2; `tenant` is the index within the logical device) with its device-side completion tail and phase, its fetched commands in ring order,
the completions that are due, whether the entry at its head is a LAUNCH that waits there (R159), and whether a notify with a tail beyond the
ring is still to be answered. -/
structure QIf where
  sqbase : Nat
  cqbase : Nat
  s : Nat
  ld : Nat
  tenant : BitVec 8
  pasid : Nat
  tstate : TState
  head : Nat
  tail : Nat
  cqhead : Nat
  ctail : Nat
  phase : Bool
  cmds : List Cmd
  due : List Completion
  stopping : Bool
  atHead : Bool
  badTail : Bool
  deriving DecidableEq, Repr

/-- R390 step 6: CONFIG_UNLOCKED; the ring size is 2^4, the smallest the table allows. -/
def QIf.reset : QIf :=
  { sqbase := 0, cqbase := 0, s := 4, ld := 0, tenant := 0, pasid := 0, tstate := .unlocked, head := 0, tail := 0,
    cqhead := 0, ctail := 0, phase := true, cmds := [], due := [], stopping := false, atHead := false, badTail := false }

/-- A logical device (R372): its tenants, its policy word (fcnt and tscope), and the host configuration it emulates. -/
structure LDev where
  tenants : List (BitVec 8)
  fcnt : BitVec 32
  tscope : Bool
  config : List (Nat × BitVec 32)
  files : Nat
  deriving DecidableEq, Repr

/-- A logical device that owns no tenant and demotes nothing. -/
def LDev.reset : LDev := ⟨[], 0, false, [], 0⟩

/-- How far an SPDM exchange of the security core has come (R379). -/
inductive SpdmPhase where
  | start | version | capabilities | negotiated
  deriving DecidableEq, Repr

/-- The answers of the responder (R379). -/
inductive SpdmResp where
  | none_
  | ok (code : Nat) (body : List Byte)
  | error (code : Nat)
  deriving DecidableEq, Repr

/-- The algorithms of an SPDM connection (R379): the four that the responder offers, and any other. -/
inductive SpdmAlg where
  | sha384 | ecdsaP384 | ecdheP384 | aes256Gcm
  | other (n : Nat)
  deriving DecidableEq, Repr

/-- The SPDM responder: phase, transcript since the last GET_VERSION, the secured session (none, opening, open), the algorithms that have
been negotiated, and the last response. -/
structure Spdm where
  phase : SpdmPhase
  transcript : List Byte
  session : Nat
  keyUpdates : Nat
  algs : List SpdmAlg
  last : SpdmResp
  deriving DecidableEq, Repr

/-- How far bring-up has come (R390, R391). -/
inductive Boot where
  | off
  | reset
  | running
  | recovery
  | failed (step : Nat)
  deriving DecidableEq, Repr

/-- The thermal state (Table 28.2). -/
inductive Thermal where
  | normal | throttle | critical
  deriving DecidableEq, Repr

/-- What the firmware store holds (R392): a whole image that verifies, a whole image that does not, or a partial copy; and
whether an UPDATE is being copied. -/
inductive FwStore where
  | good (image : List Byte)
  | bad
  | partialCopy
  deriving DecidableEq, Repr

/-- Everything of the package that belongs to no one core, cluster or die. `wrapped` lists the key slots that have been wrapped under
the device key (R306, R339). `accepted`: a command that closes the time for joining a pod
has been accepted since bring-up (R356). `switched`: the module stands behind a CXL fabric switch; `ldHosts` names the host to which a logical
device is bound (R371). `seenE` holds, for a granule whose home has moved, the E of its earlier homes when it moved (R352, R361), `asOf`, for a
stamped line, one more than the greatest stamp of which an `ldas` has been answered (R366), `broken` the cores that have failed for good, in
order (R301, R390). `capList` holds the identifiers that the capability list has beside those which the machine's own state shows (R382). -/
structure Pkg where
  bars : List (Nat × HwBar)
  rels : List (Nat × Nat × Nat × Nat)
  homeMap : List (Nat × Nat)
  moving : List (Nat × Nat)
  vers : List (Nat × List Version)
  stampSeq : Nat
  evqs : List (Nat × EvQueue)
  keys : List (Nat × KeySlot)
  parked : List (Nat × KeySlot)
  wrapped : List KeySlot
  keyCount : Nat
  rputs : List RputFlight
  recs : List RecFlight
  results : List ResultFlight
  notices : List Notice
  got : List (Nat × List Notice)
  caps : List (Nat × Capsule)
  ctxs : List (Nat × Ctx)
  areas : List FaultArea
  tokens : Nat
  qifs : List (Nat × QIf)
  lds : List (Nat × LDev)
  hostSeq : List (Nat × Nat)
  spdm : Spdm
  boot : Boot
  measure : List (Nat × BitVec 384)
  fw : FwStore
  updating : Bool
  capList : List Nat
  thermal : Thermal
  tj : BitVec 8
  tcnt : BitVec 32
  podNo : Option Nat
  podMembers : List Nat
  podOff : Nat
  errLog : List (Nat × Nat)
  badWords : List (Nat × Bool)
  cxlBytes : Nat
  switched : Bool
  ldHosts : List (Nat × Nat)
  accepted : Bool
  seenE : List (Nat × Nat)
  asOf : List (Nat × Nat)
  broken : List Nat
  deriving DecidableEq, Repr

/-- R28, R328, R390: the package at device reset. -/
def Pkg.reset : Pkg :=
  { bars := [], rels := [], homeMap := [], moving := [], vers := [], stampSeq := 0, evqs := [], keys := [], parked := [], wrapped := [],
    keyCount := 0, rputs := [], recs := [], results := [], notices := [], got := [], caps := [], ctxs := [], areas := [], tokens := 0,
    qifs := [], lds := [], hostSeq := [], spdm := ⟨.start, [], 0, 0, [], .none_⟩, boot := .reset, measure := [], fw := .bad,
    updating := false, capList := [], thermal := .normal, tj := 0, tcnt := 0, podNo := none, podMembers := [], podOff := 0,
    errLog := [], badWords := [], cxlBytes := 0, switched := false, ldHosts := [], accepted := false, seenE := [], asOf := [], broken := [] }

/-! ## The machine -/

/-- An access by an agent outside the package (R200, R202): an aligned write, or an atomic with its operand and expected value. -/
inductive OutsideAcc where
  | write (pa size : Nat) (v : Word)
  | atomic (op : AtOp) (pa size : Nat) (x e : Word)
  deriving DecidableEq, Repr

/-- What the machine does next within a cycle: the turn of a slot; an event; a job's next part (R211, named by its target and acceptance); the
answer to what a slot has asked; an access by an agent outside the package (a
host to its memory, a device to its registers, another package to its memory or to this one's); or the start of a routine on a service
core or the security core by their runtime, whose means no rule gives. -/
inductive Happening where
  | turn (core slot : Nat)
  | event (i : Instr)
  | jobPart (cluster : Nat) (copy : Bool) (seq : Nat)
  | reply (core slot : Nat)
  | outside (a : OutsideAcc)
  | routine (core : Nat) (a : Arrival)
  deriving DecidableEq, Repr

/-- The whole machine. `now` counts clk since device reset, `todo` holds the rest of this cycle, `curCore` and `curSlot` name
the slot whose turn it is, `free` counts the free values taken, `slots` is keyed by 16 * core + slot, `empties` lists the
8-byte words of memory whose full/empty bit is empty (the entry is false), `tags` the key under which a word of memory was
last enciphered (R305; absent: not enciphered). -/
structure State where
  now : Nat
  todo : List Happening
  curCore : Nat
  curSlot : Nat
  free : Nat
  slots : List (Nat × Slot)
  cores : List (Nat × Core)
  clusters : List (Nat × Cluster)
  dies : List (Nat × Die)
  mem : List Host.Cell
  empties : List (Nat × Bool)
  tags : List (Nat × Nat)
  pkg : Pkg
  deriving DecidableEq, Repr

/-- The machine right after device reset (R28, R328, R357, R390): every slot FREE, every local word zero and full, every
privileged register at its reset value; bring-up has not run. -/
def State.reset : State :=
  { now := 0, todo := [], curCore := 0, curSlot := 0, free := 0, slots := [], cores := [], clusters := [], dies := [],
    mem := [], empties := [], tags := [], pkg := Pkg.reset }

/-- Why a step can stop the machine: there is no such reason. The faults of the instruction set stop one slot and are taken
as next states (R290); a machine whose power is removed goes on taking steps in which nothing comes about until it is
powered on again (R389, R390). -/
inductive Fault where
  deriving DecidableEq, Repr

/-- Why the model gives a step no meaning. -/
inductive Refusal where
  /-- Raised by an arm of `exec` whose instruction has no meaning in this model yet. Safe: it claims nothing. -/
  | notModelled (mnemonic : String)
  deriving DecidableEq, Repr

end Sys2Proof.Machine
end

