-- ==== Sys2Proof/Config.lean ====
section
/-!
DEFINITION. What one implementation fixes and what the spec leaves open: constants without a body, so that no proof sees a
value of them and every theorem holds whatever they are. Each is named in the assumption log.
-/

namespace Sys2Proof.Config

open Sys2Proof Sys2Proof.Machine

/-- The happenings whose time the spec does not fix (R5: typical figures), and everything that comes from outside the package
(host commands, errors, power): the n-th answer is what comes about at the end of the n-th cycle, in this order. An event that
is not enabled when its turn comes brings nothing about. -/
opaque freeHappenings : Nat → List Happening

/-- Free numbers for choices that the spec promises nothing about (which TLB entry is replaced, an order). -/
opaque freeNat : Nat → Nat

/-- What a read of a device register gives of which the spec says nothing: a free number, the slot that reads, the register's address. -/
opaque deviceReg : Nat → Nat → Nat → Nat

/-- Whether the scheduler's summary of a core stays as it is in a cycle (R163). -/
opaque summaryLate : Nat → Nat → Bool

/-- How far below true time the E of a die would lie at a reading, in ns (R356). -/
opaque clockBelow : Nat → Nat → Nat

/-- How far above true time the L of a die would lie at a reading, in ns (R356). -/
opaque clockAbove : Nat → Nat → Nat

/-- Whether the home die in package p of the pod runs in holdover in a cycle (R356). -/
opaque foreignHoldover : Nat → Nat → Bool

/-- Its W_max in a cycle (R357). -/
opaque foreignWmax : Nat → Nat → Nat

/-- Its Dlate in a cycle (R357). -/
opaque foreignDlate : Nat → Nat → Nat

/-- The unspecified value that a load returns of a word enciphered under another key (R305): keys of the word and of the
reader, the word's memory key, its plain value. -/
opaque cipherMix : Nat → Nat → Nat → Word → Word

/-- The AES-256-GCM keystream of a key under a nonce (R311): key number (0 is the device key), nonce, byte position. -/
opaque keystream : Nat → List Byte → Nat → Byte

/-- The AES-256-GCM tag (R311): key number, nonce, associated data, ciphertext; byte position 0 to 15. -/
opaque gcmTag : Nat → List Byte → List Byte → List Byte → Nat → Byte

/-- The 80-byte blob of a key slot wrapped under the device key (R306, R339): key, context, C, L; byte position. -/
opaque keyBlob : Nat → Nat → Word → Bool → Nat → Byte

/-- What a system-call service answers in g1, g2 and g3 (R296): the call's count, service number, caller's tenant. -/
opaque service : Nat → Word → BitVec 8 → Word × Word × Word

/-- Whether a service's pointer arguments reach only what R297 allows is told by the service; this is the list of ranges
(register number, length in bytes, whether it is written) that service n takes. -/
opaque servicePtrs : Word → List (Reg × Nat × Bool)

/-- Whether the service number is known (Table 18.4, NOSERVICE). -/
opaque serviceKnown : Word → Bool

/-- What the firmware reads out of a capsule object (R313, R375), none for one that is no capsule: the parts of its Acoon form with the
islands, kernel headers, entry points, declared references, data image, upcall entry and fault records. Nothing else of the answer is
read. -/
opaque parseCapsule : List Byte → Option Capsule

/-- The native words that the firmware's translator makes of a stretch of an Acoon form, before its first anchor (0) or after an anchor
(R314): the form, the new body version, the stretch. -/
opaque translated : List Byte → Nat → Nat → List (BitVec 32)

/-- Whether a value of a translated form lives in a v register, in every body (R315): the form, the value number. -/
opaque valueInV : List Byte → Nat → Bool

/-- The number of the native register that holds a value at an anchor of a translated form (R315): the form, the body version, the anchor among
the form's, the value number. -/
opaque valueReg : List Byte → Nat → Nat → Nat → Nat

/-- The word of a translated form at which an entry point stands: the form, the body version, the entry's number. -/
opaque entryPlace : List Byte → Nat → Nat → Nat

/-- What the firmware leaves before a part of a body (R314, `other offsets`): handle, body version, part. -/
opaque bodyGap : Nat → Nat → Nat → List (BitVec 32)

/-- The address, and guest physical address, that the firmware chooses for a body: handle, body version. The model takes whole pages of
both. -/
opaque bodyAt : Nat → Nat → Nat × Nat

/-- The segments of a protected context's save image as the restore reads them back from where the hypervisor has kept them (R312): a free
number, and the segments that were written. -/
opaque imageBack : Nat → List (List Byte) → List (List Byte)

/-- The tenant that the firmware recorded for a context when it created it (R303, R320). -/
opaque ctxTenant : Nat → BitVec 8

/-- The number of a tenant's unprotected context (R375, LAUNCH with context number 0). -/
opaque tenantCtx : BitVec 8 → Nat

/-- The tenants that the hypervisor has fixed for a logical device (R372). -/
opaque ldTenants : Nat → List (BitVec 8)

/-- What the hypervisor's emulation of a configuration write makes of the tscope bit of a logical device's policy (R372, R378): logical
device, register, value; none where it leaves it alone. -/
opaque emulate : Nat → Nat → BitVec 32 → Option Bool

/-- The address, and guest physical address, that the firmware chooses for a context's fault area (R197): context, handle. The model takes
whole pages of both. -/
opaque faultArea : Nat → Nat → Word × Nat

/-- A free page for a translation table of the firmware's (R197, R313), by number. -/
opaque tablePage : Nat → Nat

/-- The host frame that the firmware gives to a guest frame that stage 2 does not map yet (R194, R197), by number. -/
opaque hostFrame : Nat → Nat

/-- A byte whose contents are unspecified (R267, beyond a fire record). -/
opaque freeByte : Nat → Byte

/-- SHA-384 (R380). -/
opaque sha384 : List Byte → BitVec 384

/-- The RSASSA-PSS check of a firmware image against the fused key hash (R381). -/
opaque rsaVerifies : List Byte → Bool

/-- The SLH-DSA-SHA2-192s check of a firmware image against the fused key hash (R381). -/
opaque slhVerifies : List Byte → Bool

/-- The cores that fail their self-test at a bring-up (R390, step 5), by a free number. -/
opaque selfTest : Nat → List Nat

/-- The attached capacity of the CXL second tier, in bytes (Table 10.2). -/
opaque cxlBytes : Nat

/-- The identifiers in the module's capability list (R382); those of the second tier, the pod and the switch follow from the machine's state
instead. -/
opaque features : List Nat

/-- The version of an entry of the capability list (R382), by its identifier. -/
opaque featureVersion : Nat → Nat

/-- The hottest junction's temperature as the sensors give it (R389), by cycle. -/
opaque junction : Nat → Nat

/-- The algorithms that a NEGOTIATE_ALGORITHMS request offers (R379). -/
opaque spdmOffers : List Byte → List SpdmAlg

/-- The mask ROM, as measured (R380). -/
opaque maskRom : List Byte

/-- The fused public-key hashes (R380). -/
opaque fusedHashes : List Byte

/-- The body of an SPDM response (R379): request code, transcript so far, request message. -/
opaque spdmBody : Nat → List Byte → List Byte → List Byte

/-- Whether an SPDM request carries a body that the responder can follow (algorithms it offers, a signature that
verifies). -/
opaque spdmAccepts : Nat → List Byte → Bool

/-- The TDISP request inside a vendor-defined SPDM request (R376): 0 lock, 1 start, 2 stop, and the interface. -/
opaque tdispRequest : List Byte → Option (Nat × Nat)

/-- The vendor-defined request that carries a TDISP request of a kind to an interface, by a free number. -/
opaque tdispMessage : Nat → Nat → Nat → List Byte

/-- Whether the module stands behind a CXL fabric switch (R371). -/
opaque switched : Bool

/-- The host to which a logical device is bound behind a switch (R371). -/
opaque ldHost : Nat → Nat

/-- The page of host memory that a host's address leads to (R373): host, PASID, page number. -/
opaque hostPage : Nat → Nat → Nat → Nat

/-- The tile on whose service core the firmware receives the notifies of an interface (R332). -/
opaque notifyTile : Nat → Nat

end Sys2Proof.Config
end

