-- ==== Sys2Proof/WellFormed.lean ====
section
/-!
DEFINITION. Which instructions exist: the limits on coded fields of R31 and R34 to R55 that the widths of the fields do not say
already. An event of the opcode table has no word; it is well formed whatever its numbers are.
-/

namespace Sys2Proof

/-- The scopes 000 to 100 of Table 3.2. -/
def scopeOk (sc : BitVec 3) : Bool := decide (sc.toNat ≤ 4)

/-- The orders of a load (Table 3.7): plain, acquire. -/
def loadOrder (od : BitVec 2) : Bool := decide (od.toNat ≤ 1)

/-- The orders of a store (Table 3.7): plain, release. -/
def storeOrder (od : BitVec 2) : Bool := decide (od.toNat = 0 ∨ od.toNat = 2)

/-- The number of identifiers of a barrier level (R51); 0 for a level that does not exist. -/
def barIds (lv : Nat) : Nat :=
  match lv with
  | 0 => 1
  | 1 => 4
  | 2 => 8
  | 3 => 8
  | 4 => 16
  | 5 => 64
  | _ => 0

/-- R51: identifier and level of a hardware barrier. -/
def barOk (id : BitVec 6) (lv : BitVec 3) : Bool := decide (id.toNat < barIds lv.toNat)

/-- The floating element majors 0x24 to 0x26; type code 3 would be the lane major (Table 3.3). -/
def floatType (t : BitVec 2) : Bool := decide (t.toNat < 3)

/-- R38: pos + len at most 64, where the field holds len - 1. -/
def fieldOk (pos len : BitVec 6) : Bool := decide (pos.toNat + (len.toNat + 1) ≤ 64)

/-- Well-formedness of an instruction. -/
def Instr.wf : Instr → Bool
  | .bfx _ _ pos len => fieldOk pos len
  | .bfi _ _ pos len => fieldOk pos len
  | .br _ cond _ => decide (cond.toNat < 6)
  | .skip a cond n => decide (cond.toNat < 6 ∨ (cond.toNat = 6 ∧ a = 0)) && decide (n ≠ 0)
  | .ld _ _ _ sc od _ => scopeOk sc && loadOrder od
  | .ldS _ _ sz sc od _ => decide (sz.toNat < 3) && scopeOk sc && loadOrder od
  | .st _ _ _ sc od _ => scopeOk sc && storeOrder od
  | .ldx _ _ sc od _ => scopeOk sc && loadOrder od
  | .ldc _ _ sc od _ => scopeOk sc && loadOrder od
  | .stf _ _ sc od _ => scopeOk sc && storeOrder od
  | .amoAdd _ _ _ _ sc _ => scopeOk sc
  | .amoAnd _ _ _ _ sc _ => scopeOk sc
  | .amoOr _ _ _ _ sc _ => scopeOk sc
  | .amoXor _ _ _ _ sc _ => scopeOk sc
  | .amoMin _ _ _ _ sc _ => scopeOk sc
  | .amoMax _ _ _ _ sc _ => scopeOk sc
  | .amoMinz _ _ _ _ sc _ => scopeOk sc
  | .amoMaxz _ _ _ _ sc _ => scopeOk sc
  | .amoSwap _ _ _ _ sc _ => scopeOk sc
  | .cas _ _ _ _ _ sc _ => scopeOk sc
  | .ldres _ _ _ sc od => scopeOk sc && loadOrder od
  | .stcnd _ _ _ _ sc od => scopeOk sc && storeOrder od
  | .fence sc => scopeOk sc
  | .wrs _ sc => scopeOk sc
  | .barm _ _ _ sc => scopeOk sc
  | .vaddF t _ _ _ _ => floatType t
  | .vsubF t _ _ _ _ => floatType t
  | .vmulF t _ _ _ _ => floatType t
  | .vminF t _ _ _ _ => floatType t
  | .vmaxF t _ _ _ _ => floatType t
  | .vfma t _ _ _ _ => floatType t
  | .vabs t _ _ _ => floatType t
  | .vneg t _ _ _ => floatType t
  | .vexp2 t _ _ _ => floatType t
  | .vlog2 t _ _ _ => floatType t
  | .vrcp t _ _ _ => floatType t
  | .vrsq t _ _ _ => floatType t
  | .vceqF t _ _ _ _ => floatType t
  | .vcltF t _ _ _ _ => floatType t
  | .vcle t _ _ _ _ => floatType t
  | .vredF t _ _ _ => floatType t
  | .vcvt _ _ _ _ src _ dst => decide (src.toNat < 10) && decide (dst.toNat < 10) && decide (src ≠ dst)
  | .cpq _ _ _ k => decide (k.toNat < 6)
  | .bar id lv => barOk id lv
  | .tnow d a => decide (d ≠ a ∨ d = 0)
  | .movk _ k => decide (k.toNat ≤ 41)
  | .kmov _ k => decide (k.toNat ≤ 41)
  | .refldBase _ _ c => decide (c.toNat ≤ 10)
  | .refldShape _ _ c => decide (c.toNat ≤ 10)
  | _ => true

end Sys2Proof
end

