-- ==== Sys2Proof/Decode.lean ====
section
/-!
DEFINITION. The encodings of R29 to R56: a decoder that is total on any word and rejects by name, the encoder, and the reading of
the opcode table's own numbering.
-/

namespace Sys2Proof

/-- Why a word is no instruction (R34): a major that is illegal or reserved; a minor code that its major's table does not
assign; a field that must be zero; a coded field outside its assigned values. -/
inductive Reject where
  | major
  | minor
  | zeroField
  | fieldCode
  deriving DecidableEq, Repr

/-! ## The fields of the formats (Table 3.1) -/

/-- Bits 31:26. -/
def opOf (w : BitVec 32) : BitVec 6 := w.extractLsb' 26 6
/-- Bits 25:22. -/
def f25 (w : BitVec 32) : BitVec 4 := w.extractLsb' 22 4
/-- Bits 21:18. -/
def f21 (w : BitVec 32) : BitVec 4 := w.extractLsb' 18 4
/-- Bits 17:14. -/
def f17 (w : BitVec 32) : BitVec 4 := w.extractLsb' 14 4
/-- Bits 13:10. -/
def f13 (w : BitVec 32) : BitVec 4 := w.extractLsb' 10 4
/-- Bits 9:0, the minor function of formats A and E. -/
def fnA (w : BitVec 32) : BitVec 10 := w.extractLsb' 0 10
/-- Bits 17:0, the immediate of format I. -/
def immI (w : BitVec 32) : BitVec 18 := w.extractLsb' 0 18
/-- Bits 21:0, the immediate of format U. -/
def immU (w : BitVec 32) : BitVec 22 := w.extractLsb' 0 22
/-- Bits 18:0, the offset of format B. -/
def offB (w : BitVec 32) : BitVec 19 := w.extractLsb' 0 19
/-- Bits 25:20 of format V. -/
def vd (w : BitVec 32) : BitVec 6 := w.extractLsb' 20 6
/-- Bits 19:14 of format V. -/
def va (w : BitVec 32) : BitVec 6 := w.extractLsb' 14 6
/-- Bits 13:8 of format V. -/
def vb (w : BitVec 32) : BitVec 6 := w.extractLsb' 8 6
/-- Bits 7:4 of format V. -/
def vm (w : BitVec 32) : BitVec 4 := w.extractLsb' 4 4
/-- Bits 3:0 of format V. -/
def vfn (w : BitVec 32) : BitVec 4 := w.extractLsb' 0 4

/-- The instruction `i` if the field `z` that must be zero is zero (R32). -/
def ifZero {n : Nat} (z : BitVec n) (i : Instr) : Except Reject Instr := if z = 0 then .ok i else .error .zeroField

/-! ## The majors -/

/-- R37: major 0x01. -/
def decAlu (d a b c : BitVec 4) (fn : BitVec 10) : Except Reject Instr :=
  match fn.toNat with
  | 0x00 => ifZero c (.add d a b)
  | 0x01 => ifZero c (.sub d a b)
  | 0x02 => ifZero c (.and d a b)
  | 0x03 => ifZero c (.or d a b)
  | 0x04 => ifZero c (.xor d a b)
  | 0x05 => ifZero c (.sll d a b)
  | 0x06 => ifZero c (.srl d a b)
  | 0x07 => ifZero c (.sra d a b)
  | 0x08 => ifZero c (.rol d a b)
  | 0x09 => ifZero c (.ror d a b)
  | 0x0A => ifZero c (.min d a b)
  | 0x0B => ifZero c (.max d a b)
  | 0x0C => ifZero c (.minz d a b)
  | 0x0D => ifZero c (.maxz d a b)
  | 0x0E => ifZero c (.seq d a b)
  | 0x0F => ifZero c (.slt d a b)
  | 0x10 => ifZero c (.sltz d a b)
  | 0x11 => .ok (.sel d a b c)
  | 0x12 => ifZero (b ++ c) (.clz d a)
  | 0x13 => ifZero (b ++ c) (.ctz d a)
  | 0x14 => ifZero (b ++ c) (.popc d a)
  | 0x15 => ifZero (b ++ c) (.sextB d a)
  | 0x16 => ifZero (b ++ c) (.sextH d a)
  | 0x17 => ifZero (b ++ c) (.sextW d a)
  | 0x18 => ifZero (b ++ c) (.zextB d a)
  | 0x19 => ifZero (b ++ c) (.zextH d a)
  | 0x1A => ifZero (b ++ c) (.zextW d a)
  | 0x1B => ifZero c (.mul d a b)
  | 0x1C => ifZero c (.mulh d a b)
  | 0x1D => ifZero c (.mulhz d a b)
  | 0x1E => ifZero c (.div d a b)
  | 0x1F => ifZero c (.divz d a b)
  | 0x20 => ifZero c (.rem d a b)
  | 0x21 => ifZero c (.remz d a b)
  | _ => .error .minor

/-- R38: major 0x07; bits 17:8 zero, 7:6 the kind. -/
def decShift (d a : BitVec 4) (imm : BitVec 18) : Except Reject Instr :=
  let z : BitVec 10 := imm.extractLsb' 8 10
  let s : BitVec 6 := imm.extractLsb' 0 6
  match (imm.extractLsb' 6 2).toNat with
  | 0 => ifZero z (.slli d a s)
  | 1 => ifZero z (.srli d a s)
  | 2 => ifZero z (.srai d a s)
  | _ => ifZero z (.rori d a s)

/-- R38: majors 0x08 and 0x09; bits 17:12 zero, 11:6 pos, 5:0 len - 1. -/
def decField (mk : BitVec 6 → BitVec 6 → Instr) (imm : BitVec 18) : Except Reject Instr :=
  ifZero (imm.extractLsb' 12 6) (mk (imm.extractLsb' 6 6) (imm.extractLsb' 0 6))

/-- R39: major 0x0C. -/
def decFp (d a b c : BitVec 4) (fn : BitVec 10) : Except Reject Instr :=
  match fn.toNat with
  | 0x0 => ifZero c (.fadd d a b)
  | 0x1 => ifZero c (.fsub d a b)
  | 0x2 => ifZero c (.fmul d a b)
  | 0x3 => .ok (.ffma d a b c)
  | 0x4 => ifZero c (.fmin d a b)
  | 0x5 => ifZero c (.fmax d a b)
  | 0x6 => ifZero c (.fcmpEq d a b)
  | 0x7 => ifZero c (.fcmpLt d a b)
  | 0x8 => ifZero c (.fcmpLe d a b)
  | 0x9 => ifZero c (.fcmpUn d a b)
  | 0xA => ifZero (b ++ c) (.fcvtF32i32 d a)
  | 0xB => ifZero (b ++ c) (.fcvtF32i64 d a)
  | 0xC => ifZero (b ++ c) (.fcvtI32f32 d a)
  | 0xD => ifZero (b ++ c) (.fcvtI64f32 d a)
  | 0xE => ifZero (b ++ c) (.fcvtI32f32Rz d a)
  | 0xF => ifZero (b ++ c) (.fcvtI64f32Rz d a)
  | _ => .error .minor

/-- R40: major 0x10; condition 110 with a = 0 is `jmp`. -/
def decBr (a : BitVec 4) (cond : BitVec 3) (off : BitVec 19) : Except Reject Instr :=
  if cond = 6 then ifZero a (.jmp off) else .ok (.br a cond off)

/-- R40: major 0x12. -/
def decCallr (d a b c : BitVec 4) (fn : BitVec 10) : Except Reject Instr :=
  match fn.toNat with
  | 0 => ifZero (b ++ c) (.callr d a)
  | 1 => ifZero (d ++ b ++ c) (.ret a)
  | _ => .error .minor

/-- R41: majors 0x1B to 0x1D take the 8-byte size only. -/
def decD (sz : BitVec 2) (i : Instr) : Except Reject Instr := if sz = 3 then .ok i else .error .fieldCode

/-- R42: major 0x1E. -/
def decAmo (d a b c : BitVec 4) (fn : BitVec 10) : Except Reject Instr :=
  let sz : BitVec 1 := fn.extractLsb' 5 1
  let sc : BitVec 3 := fn.extractLsb' 2 3
  let od : BitVec 2 := fn.extractLsb' 0 2
  match (fn.extractLsb' 6 4).toNat with
  | 0 => ifZero c (.amoAdd d a b sz sc od)
  | 1 => ifZero c (.amoAnd d a b sz sc od)
  | 2 => ifZero c (.amoOr d a b sz sc od)
  | 3 => ifZero c (.amoXor d a b sz sc od)
  | 4 => ifZero c (.amoMin d a b sz sc od)
  | 5 => ifZero c (.amoMax d a b sz sc od)
  | 6 => ifZero c (.amoMinz d a b sz sc od)
  | 7 => ifZero c (.amoMaxz d a b sz sc od)
  | 8 => ifZero c (.amoSwap d a b sz sc od)
  | 9 => .ok (.cas d a b c sz sc od)
  | 10 => ifZero (b ++ c) (.ldres d a sz sc od)
  | 11 => ifZero c (.stcnd d a b sz sc od)
  | _ => .error .minor

/-- R43: major 0x1F. -/
def decSync (d a b c : BitVec 4) (fn : BitVec 10) : Except Reject Instr :=
  let sc : BitVec 3 := fn.extractLsb' 3 3
  let z : BitVec 3 := fn.extractLsb' 0 3
  match (fn.extractLsb' 6 4).toNat with
  | 0 => ifZero (d ++ a ++ b ++ c ++ z) (.fence sc)
  | 1 => ifZero (d ++ b ++ c ++ z) (.wrs a sc)
  | 2 => ifZero (c ++ z) (.barm d a b sc)
  | _ => .error .minor

/-- R44: majors 0x20 to 0x23, the integer column of Table 3.8; `t` is the element type of R46. -/
def decVInt (t : BitVec 2) (d a b : BitVec 6) (m fn : BitVec 4) : Except Reject Instr :=
  let g : BitVec 4 := d.extractLsb' 0 4
  let z : BitVec 2 := d.extractLsb' 4 2
  match fn.toNat with
  | 0 => .ok (.vaddI t d a b m)
  | 1 => .ok (.vsubI t d a b m)
  | 2 => .ok (.vmulI t d a b m)
  | 3 => .ok (.vminI t d a b m)
  | 4 => .ok (.vmaxI t d a b m)
  | 5 => .ok (.vminz t d a b m)
  | 6 => .ok (.vmaxz t d a b m)
  | 7 => .ok (.vaddSat t d a b m)
  | 8 => .ok (.vsubSat t d a b m)
  | 9 => .ok (.vshl t d a b m)
  | 10 => .ok (.vshr t d a b m)
  | 11 => .ok (.vsra t d a b m)
  | 12 => ifZero z (.vceqI t g a b m)
  | 13 => ifZero z (.vcltI t g a b m)
  | 14 => ifZero z (.vcltz t g a b m)
  | _ => ifZero b (.vredI t d a m)

/-- R44: majors 0x24 to 0x26, the float column of Table 3.8. -/
def decVFloat (t : BitVec 2) (d a b : BitVec 6) (m fn : BitVec 4) : Except Reject Instr :=
  let g : BitVec 4 := d.extractLsb' 0 4
  let z : BitVec 2 := d.extractLsb' 4 2
  match fn.toNat with
  | 0 => .ok (.vaddF t d a b m)
  | 1 => .ok (.vsubF t d a b m)
  | 2 => .ok (.vmulF t d a b m)
  | 3 => .ok (.vminF t d a b m)
  | 4 => .ok (.vmaxF t d a b m)
  | 5 => .ok (.vfma t d a b m)
  | 6 => ifZero b (.vabs t d a m)
  | 7 => ifZero b (.vneg t d a m)
  | 8 => ifZero b (.vexp2 t d a m)
  | 9 => ifZero b (.vlog2 t d a m)
  | 10 => ifZero b (.vrcp t d a m)
  | 11 => ifZero b (.vrsq t d a m)
  | 12 => ifZero z (.vceqF t g a b m)
  | 13 => ifZero z (.vcltF t g a b m)
  | 14 => ifZero z (.vcle t g a b m)
  | _ => ifZero b (.vredF t d a m)

/-- R45, Table 3.9: the lane major 0x27. -/
def decLane (d a b : BitVec 6) (m fn : BitVec 4) : Except Reject Instr :=
  let ga : BitVec 4 := a.extractLsb' 0 4
  let za : BitVec 2 := a.extractLsb' 4 2
  let gd : BitVec 4 := d.extractLsb' 0 4
  let zd : BitVec 2 := d.extractLsb' 4 2
  let ln : BitVec 5 := b.extractLsb' 0 5
  let zb : BitVec 1 := b.extractLsb' 5 1
  match fn.toNat with
  | 0 => .ok (.vsel d a b m)
  | 1 => ifZero b (.vmov d a m)
  | 2 => .ok (.vand d a b m)
  | 3 => .ok (.vor d a b m)
  | 4 => .ok (.vxor d a b m)
  | 5 => ifZero b (.vnot d a m)
  | 6 => .ok (.vshuf d a b m)
  | 7 => ifZero (za ++ b) (.vbcast d ga m)
  | 8 => ifZero (za ++ zb ++ m) (.vins d ga ln)
  | 9 => ifZero (zd ++ zb ++ m) (.vext gd a ln)
  | _ => .error .minor

/-- R47, Table 3.9: the vector-memory major 0x29. -/
def decVMem (d a b : BitVec 6) (m fn : BitVec 4) : Except Reject Instr :=
  let ga : BitVec 4 := a.extractLsb' 0 4
  let za : BitVec 2 := a.extractLsb' 4 2
  let gs : BitVec 4 := b.extractLsb' 0 4
  let zs : BitVec 2 := b.extractLsb' 4 2
  match fn.toNat with
  | 0 => ifZero (za ++ b) (.vld d ga m)
  | 1 => ifZero (za ++ b) (.vst d ga m)
  | 2 => ifZero (za ++ zs) (.vlds d ga gs m)
  | 3 => ifZero (za ++ zs) (.vsts d ga gs m)
  | 4 => ifZero za (.vgath d ga b m)
  | 5 => ifZero za (.vscat d ga b m)
  | _ => .error .minor

/-- R49: majors 0x30 and 0x32, whose `fn` holds a three-bit pair or kind. -/
def decJob (mk : BitVec 3 → Instr) (c : BitVec 4) (fn : BitVec 10) : Except Reject Instr :=
  if fn.toNat < 8 then ifZero c (mk (fn.extractLsb' 0 3)) else .error .minor

/-- R49: major 0x31. -/
def decAcc (d a b c : BitVec 4) (fn : BitVec 10) : Except Reject Instr :=
  match fn.toNat with
  | 0 => ifZero (d ++ c) (.accld a b 0)
  | 4 => ifZero (d ++ c) (.accld a b 1)
  | 1 => ifZero (d ++ c) (.accst a b 0)
  | 5 => ifZero (d ++ c) (.accst a b 1)
  | _ => .error .minor

/-- R49: major 0x33. -/
def decWaitJob (d a b c : BitVec 4) (fn : BitVec 10) : Except Reject Instr :=
  match fn.toNat with
  | 0 => ifZero (d ++ b ++ c) (.jwait a)
  | 1 => ifZero (b ++ c) (.jpoll d a)
  | _ => .error .minor

/-- R49: major 0x34. -/
def decScls (d a b c : BitVec 4) (fn : BitVec 10) : Except Reject Instr :=
  if fn = 0 then ifZero (d ++ c) (.scls a b) else .error .minor

/-- R49: major 0x35. -/
def decXq (d a b c : BitVec 4) (fn : BitVec 10) : Except Reject Instr :=
  match fn.toNat with
  | 0 => ifZero (d ++ c) (.xenq a b)
  | 1 => ifZero (d ++ c) (.xret a b)
  | 2 => ifZero (d ++ c) (.xcfg a b)
  | 3 => ifZero (b ++ c) (.xstat d a)
  | _ => .error .minor

/-- R50: major 0x38. -/
def decThread (d a b c : BitVec 4) (fn : BitVec 10) : Except Reject Instr :=
  match fn.toNat with
  | 0 => ifZero (d ++ c) (.spawn a b)
  | 1 => ifZero d (.spawnq a b c)
  | 2 => ifZero (d ++ a ++ b ++ c) .quit
  | 3 => ifZero (d ++ b ++ c) (.migr a)
  | 4 => ifZero c (.rput d a b)
  | 5 => ifZero (d ++ a ++ b ++ c) .wait
  | 6 => ifZero (d ++ a ++ b ++ c) .yield
  | 7 => ifZero (d ++ a ++ b ++ c) .chset
  | 8 => ifZero (d ++ a ++ b ++ c) .chclr
  | _ => .error .minor

/-- R51: major 0x39. -/
def decBar (d a b c : BitVec 4) (fn : BitVec 10) : Except Reject Instr :=
  ifZero (d ++ a ++ b ++ c ++ (fn.extractLsb' 9 1)) (.bar (fn.extractLsb' 3 6) (fn.extractLsb' 0 3))

/-- R52: major 0x3B. -/
def decStamp (d a b c : BitVec 4) (fn : BitVec 10) : Except Reject Instr :=
  let hi : BitVec 6 := fn.extractLsb' 4 6
  match (fn.extractLsb' 0 4).toNat with
  | 0 => ifZero (b ++ c ++ hi) (.tnow d a)
  | 1 => ifZero (c ++ hi) (.sts d a b)
  | 2 => ifZero (c ++ hi) (.ldas d a b)
  | 3 => ifZero hi (.scas d a b c)
  | 4 => ifZero (a ++ b ++ c) (.sbar d hi)
  | _ => .error .minor

/-- R53: major 0x3C. -/
def decSys (d a b c : BitVec 4) (fn : BitVec 10) : Except Reject Instr :=
  match fn.toNat with
  | 0 => ifZero (d ++ b ++ c) (.sysc a)
  | 1 => ifZero (d ++ a ++ b ++ c) .trap
  | 2 => ifZero (d ++ a ++ b ++ c) .bkpt
  | 3 => ifZero (d ++ a ++ b ++ c) .eret
  | 4 => ifZero (d ++ a ++ b ++ c) .halt
  | 5 => ifZero (d ++ a ++ b ++ c) .nop
  | 6 => ifZero (d ++ c) (.tlbinv a b)
  | 7 => ifZero (d ++ a ++ b ++ c) .anchor
  | _ => .error .minor

/-- R54: major 0x3D. -/
def decMovk (d a b c : BitVec 4) (fn : BitVec 10) : Except Reject Instr :=
  let k : BitVec 9 := fn.extractLsb' 0 9
  if fn.extractLsb' 9 1 = 0 then ifZero (a ++ b ++ c) (.movk d k) else ifZero (d ++ b ++ c) (.kmov a k)

/-- R55: major 0x3E. -/
def decCapsule (d a b c : BitVec 4) (fn : BitVec 10) : Except Reject Instr :=
  match fn.toNat with
  | 0 => ifZero b (.refldBase d a c)
  | 1 => ifZero b (.refldShape d a c)
  | 2 => ifZero (d ++ b ++ c) (.rbld a)
  | 3 => ifZero c (.seal d a b)
  | 4 => ifZero c (.unseal d a b)
  | 5 => ifZero (d ++ c) (.keyld a b)
  | 6 => ifZero (d ++ b ++ c) (.keyclr a)
  | 7 => ifZero (d ++ c) (.ownset a b)
  | _ => .error .minor

/-- R36, Table 3.3: the major selects the format and the table; the checks of coded fields are those of well-formedness. -/
def decodeRaw (w : BitVec 32) : Except Reject Instr :=
  let d := f25 w
  let a := f21 w
  let b := f17 w
  let c := f13 w
  let fn := fnA w
  let sz : BitVec 2 := w.extractLsb' 16 2
  let sc : BitVec 3 := w.extractLsb' 13 3
  let od : BitVec 2 := w.extractLsb' 11 2
  let off : BitVec 11 := w.extractLsb' 0 11
  let cond : BitVec 3 := w.extractLsb' 19 3
  match (opOf w).toNat with
  | 0x01 => decAlu d a b c fn
  | 0x02 => .ok (.addi d a (immI w))
  | 0x03 => .ok (.andi d a (immI w))
  | 0x04 => .ok (.ori d a (immI w))
  | 0x05 => .ok (.xori d a (immI w))
  | 0x06 => .ok (.slti d a (immI w))
  | 0x07 => decShift d a (immI w)
  | 0x08 => decField (.bfx d a) (immI w)
  | 0x09 => decField (.bfi d a) (immI w)
  | 0x0A => .ok (.lui d (immU w))
  | 0x0B => .ok (.addpc d (immU w))
  | 0x0C => decFp d a b c fn
  | 0x10 => decBr d cond (offB w)
  | 0x11 => ifZero cond (.call d (offB w))
  | 0x12 => decCallr d a b c fn
  | 0x13 => ifZero (w.extractLsb' 3 16) (.skip d cond (w.extractLsb' 0 3))
  | 0x14 => ifZero (w.extractLsb' 0 6) (.repf d a b c (w.extractLsb' 6 4))
  | 0x18 => .ok (.ld d a sz sc od off)
  | 0x19 => .ok (.ldS d a sz sc od off)
  | 0x1A => .ok (.st d a sz sc od off)
  | 0x1B => decD sz (.ldx d a sc od off)
  | 0x1C => decD sz (.ldc d a sc od off)
  | 0x1D => decD sz (.stf d a sc od off)
  | 0x1E => decAmo d a b c fn
  | 0x1F => decSync d a b c fn
  | 0x20 => decVInt 0 (vd w) (va w) (vb w) (vm w) (vfn w)
  | 0x21 => decVInt 1 (vd w) (va w) (vb w) (vm w) (vfn w)
  | 0x22 => decVInt 2 (vd w) (va w) (vb w) (vm w) (vfn w)
  | 0x23 => decVInt 3 (vd w) (va w) (vb w) (vm w) (vfn w)
  | 0x24 => decVFloat 0 (vd w) (va w) (vb w) (vm w) (vfn w)
  | 0x25 => decVFloat 1 (vd w) (va w) (vb w) (vm w) (vfn w)
  | 0x26 => decVFloat 2 (vd w) (va w) (vb w) (vm w) (vfn w)
  | 0x27 => decLane (vd w) (va w) (vb w) (vm w) (vfn w)
  | 0x28 => .ok (.vcvt (vd w) (va w) (w.extractLsb' 13 1) (w.extractLsb' 12 1) (w.extractLsb' 8 4) (vm w) (vfn w))
  | 0x29 => decVMem (vd w) (va w) (vb w) (vm w) (vfn w)
  | 0x2A => .ok (.vdotL6l6 (vd w) (va w) (vb w) (vm w) (vfn w))
  | 0x2B => .ok (.vdotL6e4 (vd w) (va w) (vb w) (vm w) (vfn w))
  | 0x2C => .ok (.vdotE4e4 (vd w) (va w) (vb w) (vm w) (vfn w))
  | 0x2D => .ok (.vdotE5e5 (vd w) (va w) (vb w) (vm w) (vfn w))
  | 0x2E => .ok (.vdotBfbf (vd w) (va w) (vb w) (vm w) (vfn w))
  | 0x2F => .ok (.vdotI8i8 (vd w) (va w) (vb w) (vm w) (vfn w))
  | 0x30 => decJob (.mxq d a b) c fn
  | 0x31 => decAcc d a b c fn
  | 0x32 => decJob (.cpq d a b) c fn
  | 0x33 => decWaitJob d a b c fn
  | 0x34 => decScls d a b c fn
  | 0x35 => decXq d a b c fn
  | 0x38 => decThread d a b c fn
  | 0x39 => decBar d a b c fn
  | 0x3B => decStamp d a b c fn
  | 0x3C => decSys d a b c fn
  | 0x3D => decMovk d a b c fn
  | 0x3E => decCapsule d a b c fn
  | _ => .error .major

/-- The decoder: an assigned word (R34) gives its instruction, any other is rejected by name. -/
def decode (w : BitVec 32) : Except Reject Instr :=
  match decodeRaw w with
  | .ok i => if i.wf then .ok i else .error .fieldCode
  | .error r => .error r

/-- R29: an instruction word from its four bytes, the first at the lowest address. -/
def wordOfBytes (b0 b1 b2 b3 : BitVec 8) : BitVec 32 := b3 ++ b2 ++ b1 ++ b0

/-- Decoding a list of bytes: an instruction and the bytes that follow it. -/
def decodeBytes : List (BitVec 8) → Option (Instr × List (BitVec 8))
  | b0 :: b1 :: b2 :: b3 :: rest =>
    match decode (wordOfBytes b0 b1 b2 b3) with
    | .ok i => some (i, rest)
    | .error _ => none
  | _ => none

/-! ## The encoder -/

/-- Format A (and E). -/
def asmA (op : BitVec 6) (d a b c : BitVec 4) (fn : BitVec 10) : BitVec 32 := op ++ d ++ a ++ b ++ c ++ fn
/-- Format I. -/
def asmI (op : BitVec 6) (d a : BitVec 4) (imm : BitVec 18) : BitVec 32 := op ++ d ++ a ++ imm
/-- Format U. -/
def asmU (op : BitVec 6) (d : BitVec 4) (imm : BitVec 22) : BitVec 32 := op ++ d ++ imm
/-- Format M. -/
def asmM (op : BitVec 6) (d a : BitVec 4) (sz : BitVec 2) (sc : BitVec 3) (od : BitVec 2) (off : BitVec 11) : BitVec 32 :=
  op ++ d ++ a ++ sz ++ sc ++ od ++ off
/-- Format B. -/
def asmB (op : BitVec 6) (a : BitVec 4) (cond : BitVec 3) (off : BitVec 19) : BitVec 32 := op ++ a ++ cond ++ off
/-- Format V. -/
def asmV (op : BitVec 6) (d a b : BitVec 6) (m fn : BitVec 4) : BitVec 32 := op ++ d ++ a ++ b ++ m ++ fn

/-- A g register number in a V-format register field (Table 3.9). -/
def gInV (r : BitVec 4) : BitVec 6 := (0 : BitVec 2) ++ r
/-- A lane number in a V-format register field (Table 3.9). -/
def laneInV (l : BitVec 5) : BitVec 6 := (0 : BitVec 1) ++ l
/-- The `fn` of the atomic major (R42). -/
def amoFn (op : BitVec 4) (sz : BitVec 1) (sc : BitVec 3) (od : BitVec 2) : BitVec 10 := op ++ sz ++ sc ++ od
/-- The `fn` of the synchronisation major (R43). -/
def syncFn (kind : BitVec 4) (sc : BitVec 3) : BitVec 10 := kind ++ sc ++ (0 : BitVec 3)
/-- The majors 0x20 to 0x23 (R46). -/
def opInt (t : BitVec 2) : BitVec 6 := (8 : BitVec 4) ++ t
/-- The majors 0x24 to 0x26 (R46). -/
def opFloat (t : BitVec 2) : BitVec 6 := (9 : BitVec 4) ++ t

/-- The word of an instruction; an event has none, and is given the all-zero word, which is always illegal (R34). -/
def encode : Instr → BitVec 32
  | .add d a b => asmA 0x01 d a b 0 0x0
  | .sub d a b => asmA 0x01 d a b 0 0x1
  | .and d a b => asmA 0x01 d a b 0 0x2
  | .or d a b => asmA 0x01 d a b 0 0x3
  | .xor d a b => asmA 0x01 d a b 0 0x4
  | .sll d a b => asmA 0x01 d a b 0 0x5
  | .srl d a b => asmA 0x01 d a b 0 0x6
  | .sra d a b => asmA 0x01 d a b 0 0x7
  | .rol d a b => asmA 0x01 d a b 0 0x8
  | .ror d a b => asmA 0x01 d a b 0 0x9
  | .min d a b => asmA 0x01 d a b 0 0xA
  | .max d a b => asmA 0x01 d a b 0 0xB
  | .minz d a b => asmA 0x01 d a b 0 0xC
  | .maxz d a b => asmA 0x01 d a b 0 0xD
  | .seq d a b => asmA 0x01 d a b 0 0xE
  | .slt d a b => asmA 0x01 d a b 0 0xF
  | .sltz d a b => asmA 0x01 d a b 0 0x10
  | .sel d a b c => asmA 0x01 d a b c 0x11
  | .clz d a => asmA 0x01 d a 0 0 0x12
  | .ctz d a => asmA 0x01 d a 0 0 0x13
  | .popc d a => asmA 0x01 d a 0 0 0x14
  | .sextB d a => asmA 0x01 d a 0 0 0x15
  | .sextH d a => asmA 0x01 d a 0 0 0x16
  | .sextW d a => asmA 0x01 d a 0 0 0x17
  | .zextB d a => asmA 0x01 d a 0 0 0x18
  | .zextH d a => asmA 0x01 d a 0 0 0x19
  | .zextW d a => asmA 0x01 d a 0 0 0x1A
  | .mul d a b => asmA 0x01 d a b 0 0x1B
  | .mulh d a b => asmA 0x01 d a b 0 0x1C
  | .mulhz d a b => asmA 0x01 d a b 0 0x1D
  | .div d a b => asmA 0x01 d a b 0 0x1E
  | .divz d a b => asmA 0x01 d a b 0 0x1F
  | .rem d a b => asmA 0x01 d a b 0 0x20
  | .remz d a b => asmA 0x01 d a b 0 0x21
  | .addi d a imm => asmI 0x02 d a imm
  | .andi d a imm => asmI 0x03 d a imm
  | .ori d a imm => asmI 0x04 d a imm
  | .xori d a imm => asmI 0x05 d a imm
  | .slti d a imm => asmI 0x06 d a imm
  | .slli d a s => asmI 0x07 d a ((0 : BitVec 10) ++ (0 : BitVec 2) ++ s)
  | .srli d a s => asmI 0x07 d a ((0 : BitVec 10) ++ (1 : BitVec 2) ++ s)
  | .srai d a s => asmI 0x07 d a ((0 : BitVec 10) ++ (2 : BitVec 2) ++ s)
  | .rori d a s => asmI 0x07 d a ((0 : BitVec 10) ++ (3 : BitVec 2) ++ s)
  | .bfx d a pos len => asmI 0x08 d a ((0 : BitVec 6) ++ pos ++ len)
  | .bfi d a pos len => asmI 0x09 d a ((0 : BitVec 6) ++ pos ++ len)
  | .lui d imm => asmU 0x0A d imm
  | .addpc d imm => asmU 0x0B d imm
  | .fadd d a b => asmA 0x0C d a b 0 0x0
  | .fsub d a b => asmA 0x0C d a b 0 0x1
  | .fmul d a b => asmA 0x0C d a b 0 0x2
  | .ffma d a b c => asmA 0x0C d a b c 0x3
  | .fmin d a b => asmA 0x0C d a b 0 0x4
  | .fmax d a b => asmA 0x0C d a b 0 0x5
  | .fcmpEq d a b => asmA 0x0C d a b 0 0x6
  | .fcmpLt d a b => asmA 0x0C d a b 0 0x7
  | .fcmpLe d a b => asmA 0x0C d a b 0 0x8
  | .fcmpUn d a b => asmA 0x0C d a b 0 0x9
  | .fcvtF32i32 d a => asmA 0x0C d a 0 0 0xA
  | .fcvtF32i64 d a => asmA 0x0C d a 0 0 0xB
  | .fcvtI32f32 d a => asmA 0x0C d a 0 0 0xC
  | .fcvtI64f32 d a => asmA 0x0C d a 0 0 0xD
  | .fcvtI32f32Rz d a => asmA 0x0C d a 0 0 0xE
  | .fcvtI64f32Rz d a => asmA 0x0C d a 0 0 0xF
  | .br a cond off => asmB 0x10 a cond off
  | .jmp off => asmB 0x10 0 6 off
  | .call a off => asmB 0x11 a 0 off
  | .callr d a => asmA 0x12 d a 0 0 0x0
  | .ret a => asmA 0x12 0 a 0 0 0x1
  | .skip a cond n => asmB 0x13 a cond ((0 : BitVec 16) ++ n)
  | .repf n t sd sa sb => asmA 0x14 n t sd sa (sb ++ (0 : BitVec 6))
  | .ld d a sz sc od off => asmM 0x18 d a sz sc od off
  | .ldS d a sz sc od off => asmM 0x19 d a sz sc od off
  | .st d a sz sc od off => asmM 0x1A d a sz sc od off
  | .ldx d a sc od off => asmM 0x1B d a 3 sc od off
  | .ldc d a sc od off => asmM 0x1C d a 3 sc od off
  | .stf d a sc od off => asmM 0x1D d a 3 sc od off
  | .amoAdd d a b sz sc od => asmA 0x1E d a b 0 (amoFn 0 sz sc od)
  | .amoAnd d a b sz sc od => asmA 0x1E d a b 0 (amoFn 1 sz sc od)
  | .amoOr d a b sz sc od => asmA 0x1E d a b 0 (amoFn 2 sz sc od)
  | .amoXor d a b sz sc od => asmA 0x1E d a b 0 (amoFn 3 sz sc od)
  | .amoMin d a b sz sc od => asmA 0x1E d a b 0 (amoFn 4 sz sc od)
  | .amoMax d a b sz sc od => asmA 0x1E d a b 0 (amoFn 5 sz sc od)
  | .amoMinz d a b sz sc od => asmA 0x1E d a b 0 (amoFn 6 sz sc od)
  | .amoMaxz d a b sz sc od => asmA 0x1E d a b 0 (amoFn 7 sz sc od)
  | .amoSwap d a b sz sc od => asmA 0x1E d a b 0 (amoFn 8 sz sc od)
  | .cas d a b e sz sc od => asmA 0x1E d a b e (amoFn 9 sz sc od)
  | .ldres d a sz sc od => asmA 0x1E d a 0 0 (amoFn 10 sz sc od)
  | .stcnd d a b sz sc od => asmA 0x1E d a b 0 (amoFn 11 sz sc od)
  | .fence sc => asmA 0x1F 0 0 0 0 (syncFn 0 sc)
  | .wrs a sc => asmA 0x1F 0 a 0 0 (syncFn 1 sc)
  | .barm d a b sc => asmA 0x1F d a b 0 (syncFn 2 sc)
  | .vaddI t d a b m => asmV (opInt t) d a b m 0
  | .vsubI t d a b m => asmV (opInt t) d a b m 1
  | .vmulI t d a b m => asmV (opInt t) d a b m 2
  | .vminI t d a b m => asmV (opInt t) d a b m 3
  | .vmaxI t d a b m => asmV (opInt t) d a b m 4
  | .vminz t d a b m => asmV (opInt t) d a b m 5
  | .vmaxz t d a b m => asmV (opInt t) d a b m 6
  | .vaddSat t d a b m => asmV (opInt t) d a b m 7
  | .vsubSat t d a b m => asmV (opInt t) d a b m 8
  | .vshl t d a b m => asmV (opInt t) d a b m 9
  | .vshr t d a b m => asmV (opInt t) d a b m 10
  | .vsra t d a b m => asmV (opInt t) d a b m 11
  | .vceqI t d a b m => asmV (opInt t) (gInV d) a b m 12
  | .vcltI t d a b m => asmV (opInt t) (gInV d) a b m 13
  | .vcltz t d a b m => asmV (opInt t) (gInV d) a b m 14
  | .vredI t d a m => asmV (opInt t) d a 0 m 15
  | .vaddF t d a b m => asmV (opFloat t) d a b m 0
  | .vsubF t d a b m => asmV (opFloat t) d a b m 1
  | .vmulF t d a b m => asmV (opFloat t) d a b m 2
  | .vminF t d a b m => asmV (opFloat t) d a b m 3
  | .vmaxF t d a b m => asmV (opFloat t) d a b m 4
  | .vfma t d a b m => asmV (opFloat t) d a b m 5
  | .vabs t d a m => asmV (opFloat t) d a 0 m 6
  | .vneg t d a m => asmV (opFloat t) d a 0 m 7
  | .vexp2 t d a m => asmV (opFloat t) d a 0 m 8
  | .vlog2 t d a m => asmV (opFloat t) d a 0 m 9
  | .vrcp t d a m => asmV (opFloat t) d a 0 m 10
  | .vrsq t d a m => asmV (opFloat t) d a 0 m 11
  | .vceqF t d a b m => asmV (opFloat t) (gInV d) a b m 12
  | .vcltF t d a b m => asmV (opFloat t) (gInV d) a b m 13
  | .vcle t d a b m => asmV (opFloat t) (gInV d) a b m 14
  | .vredF t d a m => asmV (opFloat t) d a 0 m 15
  | .vsel d a b m => asmV 0x27 d a b m 0
  | .vmov d a m => asmV 0x27 d a 0 m 1
  | .vand d a b m => asmV 0x27 d a b m 2
  | .vor d a b m => asmV 0x27 d a b m 3
  | .vxor d a b m => asmV 0x27 d a b m 4
  | .vnot d a m => asmV 0x27 d a 0 m 5
  | .vshuf d a b m => asmV 0x27 d a b m 6
  | .vbcast d a m => asmV 0x27 d (gInV a) 0 m 7
  | .vins d a lane => asmV 0x27 d (gInV a) (laneInV lane) 0 8
  | .vext d a lane => asmV 0x27 (gInV d) a (laneInV lane) 0 9
  | .vcvt d a sat rz src m dst => asmV 0x28 d a (sat ++ rz ++ src) m dst
  | .vld d a m => asmV 0x29 d (gInV a) 0 m 0
  | .vst d a m => asmV 0x29 d (gInV a) 0 m 1
  | .vlds d a str m => asmV 0x29 d (gInV a) (gInV str) m 2
  | .vsts d a str m => asmV 0x29 d (gInV a) (gInV str) m 3
  | .vgath d a idx m => asmV 0x29 d (gInV a) idx m 4
  | .vscat d a idx m => asmV 0x29 d (gInV a) idx m 5
  | .vdotL6l6 d a b m c => asmV 0x2A d a b m c
  | .vdotL6e4 d a b m c => asmV 0x2B d a b m c
  | .vdotE4e4 d a b m c => asmV 0x2C d a b m c
  | .vdotE5e5 d a b m c => asmV 0x2D d a b m c
  | .vdotBfbf d a b m c => asmV 0x2E d a b m c
  | .vdotI8i8 d a b m c => asmV 0x2F d a b m c
  | .mxq d a b p => asmA 0x30 d a b 0 ((0 : BitVec 7) ++ p)
  | .accld a b t => asmA 0x31 0 a b 0 ((0 : BitVec 7) ++ t ++ (0 : BitVec 2))
  | .accst a b t => asmA 0x31 0 a b 0 ((0 : BitVec 7) ++ t ++ (1 : BitVec 2))
  | .cpq d a b k => asmA 0x32 d a b 0 ((0 : BitVec 7) ++ k)
  | .jwait a => asmA 0x33 0 a 0 0 0x0
  | .jpoll d a => asmA 0x33 d a 0 0 0x1
  | .scls a b => asmA 0x34 0 a b 0 0x0
  | .xenq a b => asmA 0x35 0 a b 0 0x0
  | .xret a b => asmA 0x35 0 a b 0 0x1
  | .xcfg a b => asmA 0x35 0 a b 0 0x2
  | .xstat d a => asmA 0x35 d a 0 0 0x3
  | .spawn a b => asmA 0x38 0 a b 0 0x0
  | .spawnq a b c => asmA 0x38 0 a b c 0x1
  | .quit => asmA 0x38 0 0 0 0 0x2
  | .migr a => asmA 0x38 0 a 0 0 0x3
  | .rput d a b => asmA 0x38 d a b 0 0x4
  | .wait => asmA 0x38 0 0 0 0 0x5
  | .yield => asmA 0x38 0 0 0 0 0x6
  | .chset => asmA 0x38 0 0 0 0 0x7
  | .chclr => asmA 0x38 0 0 0 0 0x8
  | .bar id lv => asmA 0x39 0 0 0 0 ((0 : BitVec 1) ++ id ++ lv)
  | .tnow d a => asmA 0x3B d a 0 0 0
  | .sts d a b => asmA 0x3B d a b 0 1
  | .ldas d a b => asmA 0x3B d a b 0 2
  | .scas d a b c => asmA 0x3B d a b c 3
  | .sbar d id => asmA 0x3B d 0 0 0 (id ++ (4 : BitVec 4))
  | .sysc a => asmA 0x3C 0 a 0 0 0x0
  | .trap => asmA 0x3C 0 0 0 0 0x1
  | .bkpt => asmA 0x3C 0 0 0 0 0x2
  | .eret => asmA 0x3C 0 0 0 0 0x3
  | .halt => asmA 0x3C 0 0 0 0 0x4
  | .nop => asmA 0x3C 0 0 0 0 0x5
  | .tlbinv a b => asmA 0x3C 0 a b 0 0x6
  | .anchor => asmA 0x3C 0 0 0 0 0x7
  | .movk d k => asmA 0x3D d 0 0 0 ((0 : BitVec 1) ++ k)
  | .kmov a k => asmA 0x3D 0 a 0 0 ((1 : BitVec 1) ++ k)
  | .refldBase d a c => asmA 0x3E d a 0 c 0x0
  | .refldShape d a c => asmA 0x3E d a 0 c 0x1
  | .rbld a => asmA 0x3E 0 a 0 0 0x2
  | .seal d a b => asmA 0x3E d a b 0 0x3
  | .unseal d a b => asmA 0x3E d a b 0 0x4
  | .keyld a b => asmA 0x3E 0 a b 0 0x5
  | .keyclr a => asmA 0x3E 0 a 0 0 0x6
  | .ownset a b => asmA 0x3E 0 a b 0 0x7
  | .divisionComplete _ _ => 0
  | .atomicPerform _ _ => 0
  | .barmWakeNotice _ _ => 0
  | .accLockRelease _ _ => 0
  | .scaleStoreWrite _ _ => 0
  | .spawnPacket _ _ => 0
  | .spawnAnswer _ _ => 0
  | .migrationPacketDeparture _ _ => 0
  | .rputFill _ _ => 0
  | .yieldTimeout _ _ => 0
  | .pkgBarrierArrival _ _ => 0
  | .pkgBarrierRelease _ => 0
  | .sbarRelease _ _ => 0
  | .stampedStoreArrival _ _ => 0
  | .versionAppend _ => 0
  | .commitWaitEnd _ _ => 0
  | .stampedAnswer _ _ => 0
  | .ldasArrival _ _ => 0
  | .asOfAnswer _ _ => 0
  | .syscallPacket _ _ => 0
  | .syscallAnswer _ _ => 0
  | .sctlResume _ _ => 0
  | .sctlFree _ _ => 0
  | .preImmediate _ _ => 0
  | .preAnchorDrain _ _ _ => 0
  | .preRelease _ _ => 0
  | .preemptStop _ _ => 0
  | .drainLimitExpiry _ => 0
  | .quiescenceNotice _ => 0
  | .evqEnable _ _ _ => 0
  | .evqDisable _ _ => 0
  | .arrivalClaim _ => 0
  | .storeBufferDrain _ _ => 0
  | .storeAck _ _ _ => 0
  | .remoteLoadReturn _ _ => 0
  | .scopeMissMessage _ _ => 0
  | .fullEmptyPerform _ _ => 0
  | .translationWalkComplete _ _ => 0
  | .pageFaultCompletionNotice _ _ _ => 0
  | .stage2Resolution _ _ _ => 0
  | .replicaCollapseComplete _ => 0
  | .faultNotice _ => 0
  | .taskRecordArrival _ => 0
  | .dispatch _ => 0
  | .budgetRefill _ => 0
  | .stealRequest _ => 0
  | .stealReply _ => 0
  | .stolenRecordsArrival _ => 0
  | .stealPauseExpiry _ => 0
  | .jobRequest _ _ => 0
  | .jobAnswer _ _ => 0
  | .jobStart _ _ => 0
  | .ringTimeout _ => 0
  | .jobWorkEnd _ _ => 0
  | .engineSoftError _ _ _ _ => 0
  | .jobComplete _ _ => 0
  | .ageLimitReached _ _ => 0
  | .promotion _ _ => 0
  | .firingDecision _ => 0
  | .fireRecordResend _ => 0
  | .windowResult _ => 0
  | .pageHomeMove _ _ => 0
  | .movedRequestForward _ _ => 0
  | .homeForwardingEnd _ => 0
  | .coreCheckFailure _ => 0
  | .coreRepair _ _ => 0
  | .rebuildFinish _ => 0
  | .installCapsule _ => 0
  | .bindRef _ => 0
  | .launchTask _ => 0
  | .suspendCtx _ => 0
  | .resumeCtx _ => 0
  | .deleteCapsule _ => 0
  | .updateFw _ => 0
  | .attestCmd _ => 0
  | .rebuildCmd _ => 0
  | .endCtx _ => 0
  | .queryCmd _ => 0
  | .debugCmd _ => 0
  | .placeImage _ => 0
  | .notify _ _ => 0
  | .cqheadWrite _ _ => 0
  | .completionWrite _ => 0
  | .lockInterfaceRequest _ => 0
  | .startInterfaceRequest _ => 0
  | .stopInterfaceRequest _ => 0
  | .frozenFieldWrite _ _ _ => 0
  | .ldFunctionLevelReset _ => 0
  | .getVersion _ _ => 0
  | .getCapabilities _ _ => 0
  | .negotiateAlgorithms _ _ => 0
  | .getDigests _ _ => 0
  | .getCertificate _ _ => 0
  | .challengeReq _ _ => 0
  | .getMeasurements _ _ => 0
  | .keyExchange _ _ => 0
  | .finishReq _ _ => 0
  | .keyUpdate _ _ => 0
  | .heartbeatReq _ _ => 0
  | .endSession _ _ => 0
  | .vendorDefinedRequest _ _ => 0
  | .unsupportedRequest _ _ => 0
  | .powerOn _ => 0
  | .podJoin _ _ _ => 0
  | .podChange _ => 0
  | .throttleEntry _ _ => 0
  | .throttleExit _ _ => 0
  | .criticalShutdown _ => 0
  | .powerLoss => 0
  | .unassignedWord w => w
  | .blockEviction _ _ => 0
  | .softError _ _ => 0
  | .holdoverStart _ => 0
  | .holdoverEnd _ => 0
  | .jobPageIn _ _ => 0
  | .hostConfigurationWrite _ _ _ => 0

/-! ## The opcode table's numbering -/

/-- The instruction that the decoder reads from an instruction of the opcode table whose bits are `w`, bit 0 the least
significant bit of its one word; every instruction is one 32-bit word (R29). -/
def decodeTableWord (nbits w : Nat) : Option Instr :=
  if nbits ≤ 32 then
    let x := BitVec.ofNat 32 w
    match decodeBytes [x.extractLsb' 0 8, x.extractLsb' 8 8, x.extractLsb' 16 8, x.extractLsb' 24 8] with
    | some (i, _) => some i
    | none => none
  else none

end Sys2Proof
end

