-- ==== Sys2Proof/Machine/Tab.lean ====
section
/-!
DEFINITION. Sparse tables: a list of (number, entry) pairs with strictly rising numbers in which no entry equals the value an
unlisted number reads as. One form for one table, so equal tables are equal lists.
-/

namespace Sys2Proof.Machine

/-- What number `k` reads as in a table whose unlisted numbers read as `dflt`. -/
def Tab.get {α : Type} (dflt : α) : List (Nat × α) → Nat → α
  | [], _ => dflt
  | (k', v) :: t, k => if k' = k then v else Tab.get dflt t k

/-- Takes number `k` out of a table. -/
def Tab.erase {α : Type} : List (Nat × α) → Nat → List (Nat × α)
  | [], _ => []
  | (k', v) :: t, k => if k' = k then Tab.erase t k else (k', v) :: Tab.erase t k

/-- Puts the pair (k, v) in its place. -/
def Tab.put {α : Type} : List (Nat × α) → Nat → α → List (Nat × α)
  | [], k, v => [(k, v)]
  | (k', v') :: t, k, v =>
    if k' = k then (k, v) :: t else if k < k' then (k, v) :: (k', v') :: t else (k', v') :: Tab.put t k v

/-- Writes `v` at number `k`; a value equal to what an unlisted number reads as is not listed. -/
def Tab.set {α : Type} [DecidableEq α] (dflt : α) (t : List (Nat × α)) (k : Nat) (v : α) : List (Nat × α) :=
  if v = dflt then Tab.erase t k else Tab.put t k v

/-- The numbers rise strictly, each of them at or above `lo`. -/
def Tab.rising {α : Type} : Nat → List (Nat × α) → Bool
  | _, [] => true
  | lo, (k, _) :: t => decide (lo ≤ k) && Tab.rising (k + 1) t

/-- The one form of a table: numbers strictly rising, no entry equal to what an unlisted number reads as. -/
def Tab.wf {α : Type} [DecidableEq α] (dflt : α) (t : List (Nat × α)) : Bool :=
  Tab.rising 0 t && t.all (fun p => decide (p.2 ≠ dflt))

/-- The entry of number `k`, if it is listed. -/
def Tab.find? {α : Type} (t : List (Nat × α)) (k : Nat) : Option α :=
  (t.find? (fun p => p.1 == k)).map (·.2)

end Sys2Proof.Machine
end

