-- ==== Sys2Proof/Machine/Ops.lean ====
section
/-!
DEFINITION. The named operations over slots, cores, registers, memory and the status word that every meaning is written with;
taking a fault and returning from one (R290 to R293, R331).
-/

namespace Sys2Proof.Machine

open Sys2Proof

/-- What a step answers. -/
abbrev Out := Host.Outcome State Fault Refusal

/-! ## Numbers and fields -/

/-- Bits lo + w - 1 down to lo of a word, as a number. -/
def bits (x : Word) (lo w : Nat) : Nat := x.toNat / 2 ^ lo % 2 ^ w

/-- The low w bits set. -/
def lowMask (w : Nat) : Word := BitVec.ofNat 64 (2 ^ w - 1)

/-- The word with bits lo + w - 1 down to lo replaced by the low w bits of v. -/
def setBits (x : Word) (lo w v : Nat) : Word :=
  (x &&& ~~~(lowMask w <<< lo)) ||| ((BitVec.ofNat 64 v &&& lowMask w) <<< lo)

/-- Bit n of a word. -/
def bit (x : Word) (n : Nat) : Bool := x.getLsbD n

/-- A word from a number (Wrap64, R60). -/
def wrap (n : Nat) : Word := BitVec.ofNat 64 n

/-- The low 8 * n bits of a word, zero-extended. -/
def zextBytes (n : Nat) (x : Word) : Word := wrap (x.toNat % 2 ^ (8 * n))

/-- The low n bits of a word, sign-extended to 64. -/
def sextBits (n : Nat) (x : Word) : Word :=
  let v := x.toNat % 2 ^ n
  if v < 2 ^ (n - 1) then wrap v else wrap (v + (2 ^ 64 - 2 ^ n))

/-- R16: a program counter is 57 bits, sign-extended to 64. -/
def pc57 (x : Word) : Word := sextBits 57 x

/-- R16, Table 2.1: a program counter is always a multiple of 4. -/
def pcAt (x : Word) : Word := pc57 (wrap (x.toNat / 4 * 4))

/-- R81: an address is canonical when bits 63:57 all equal bit 56 (R185). -/
def canonical (x : Word) : Bool := x.toNat < 2 ^ 56 || decide (2 ^ 64 - 2 ^ 56 ≤ x.toNat)

/-- The 16-bit mask of register, slot or granule n. -/
def oneHot (n : Nat) : BitVec 16 := 1#16 <<< n

/-- ceil(n / d). -/
def ceilDiv (n d : Nat) : Nat := (n + d - 1) / d

/-! ## The package's numbering (R1 to R6, R170, R184) -/

/-- Compute cores have package core numbers 0 to 3,071 (R170). -/
def isCompute (c : Nat) : Bool := decide (c < 3072)
/-- The `k.core` value of the service core of tile t (R170). -/
def serviceCore (t : Nat) : Nat := 8192 + t
/-- The `k.core` value of the security core (R170). -/
def securityCore : Nat := 8288
/-- Service cores. -/
def isService (c : Nat) : Bool := decide (8192 ≤ c) && decide (c < 8288)
/-- The package tile of a core (R184); the security core stands on SD0 with tile 64. -/
def tileOf (c : Nat) : Nat := if c < 3072 then c / 32 else if c < 8288 then c - 8192 else 64
/-- The die of a tile: 0 to 3 MD0 to MD3, 4 to 7 SD0 to SD3 (Table 8.1, R184). -/
def dieOfTile (t : Nat) : Nat := if t < 64 then t / 16 else 4 + (t - 64) / 8
/-- The die of a core. -/
def dieOf (c : Nat) : Nat := dieOfTile (tileOf c)
/-- The cluster of a core, numbered through the package. -/
def clusterOf (c : Nat) : Nat := c / 8
/-- A core's position in its quad (R170). -/
def quadPos (c : Nat) : Nat := c % 4
/-- The core that quad position p of core c's quad names. -/
def quadCore (c p : Nat) : Nat := c - c % 4 + p % 4
/-- The downstream neighbour (R147). -/
def downstream (c : Nat) : Nat := quadCore c (c % 4 + 1)
/-- The upstream neighbour (R147). -/
def upstream (c : Nat) : Nat := quadCore c (c % 4 + 3)
/-- How many slots a core has (R3, R4). -/
def slotsOf (c : Nat) : Nat := if isCompute c then 16 else 4
/-- The cores of a die, lowest number first. -/
def coresOfDie (d : Nat) : List Nat :=
  if d < 4 then List.range' (512 * d) 512 else List.range' (2048 + 256 * (d - 4)) 256
/-- The die joins of R347, as each die's neighbours in round-robin order. -/
def neighbours (d : Nat) : List Nat :=
  if d < 4 then [4 + d, 4 + (d + 1) % 4, (d + 1) % 4, (d + 3) % 4]
  else [d - 4, (d - 4 + 3) % 4, 4 + (d - 4 + 1) % 4, 4 + (d - 4 + 3) % 4]

/-! ## Reading and changing the parts of the machine -/

/-- A table with each listed entry changed; entries that come to read as unlisted ones are dropped. -/
def Tab.mapAll {α : Type} [DecidableEq α] (dflt : α) (t : List (Nat × α)) (f : Nat → α → α) : List (Nat × α) :=
  t.foldl (fun u p => Tab.set dflt u p.1 (f p.1 (Tab.get dflt t p.1))) t

/-- Slot k of core c. -/
def State.slot (s : State) (c k : Nat) : Slot := Tab.get Slot.reset s.slots (16 * c + k)
/-- Replaces slot k of core c. -/
def State.setSlot (s : State) (c k : Nat) (x : Slot) : State :=
  { s with slots := Tab.set Slot.reset s.slots (16 * c + k) x }
/-- Changes slot k of core c. -/
def State.modSlot (s : State) (c k : Nat) (f : Slot → Slot) : State := s.setSlot c k (f (s.slot c k))
/-- Changes every listed slot; `f` gets core, slot and state. -/
def State.mapSlots (s : State) (f : Nat → Nat → Slot → Slot) : State :=
  { s with slots := Tab.mapAll Slot.reset s.slots (fun n x => f (n / 16) (n % 16) x) }
/-- Core c. -/
def State.core (s : State) (c : Nat) : Core := Tab.get Core.reset s.cores c
/-- Changes core c. -/
def State.modCore (s : State) (c : Nat) (f : Core → Core) : State :=
  { s with cores := Tab.set Core.reset s.cores c (f (s.core c)) }
/-- Cluster n. -/
def State.cluster (s : State) (n : Nat) : Cluster := Tab.get Cluster.reset s.clusters n
/-- Changes cluster n. -/
def State.modCluster (s : State) (n : Nat) (f : Cluster → Cluster) : State :=
  { s with clusters := Tab.set Cluster.reset s.clusters n (f (s.cluster n)) }
/-- Die d. -/
def State.die (s : State) (d : Nat) : Die := Tab.get Die.reset s.dies d
/-- Changes die d. -/
def State.modDie (s : State) (d : Nat) (f : Die → Die) : State :=
  { s with dies := Tab.set Die.reset s.dies d (f (s.die d)) }
/-- Changes what belongs to the package. -/
def State.modPkg (s : State) (f : Pkg → Pkg) : State := { s with pkg := f s.pkg }
/-- The slot whose turn it is. -/
def State.me (s : State) : Slot := s.slot s.curCore s.curSlot
/-- Changes the slot whose turn it is. -/
def State.modMe (s : State) (f : Slot → Slot) : State := s.modSlot s.curCore s.curSlot f
/-- A tenant's state on a die. -/
def State.tenantDie (s : State) (d x : Nat) : TenantDie := Tab.get TenantDie.reset (s.die d).ten x
/-- Changes a tenant's state on a die. -/
def State.modTenant (s : State) (d x : Nat) (f : TenantDie → TenantDie) : State :=
  s.modDie d (fun e => { e with ten := Tab.set TenantDie.reset e.ten x (f (Tab.get TenantDie.reset e.ten x)) })
/-- Key slot n of the security core. -/
def State.keySlot (s : State) (n : Nat) : KeySlot := Tab.get KeySlot.reset s.pkg.keys n
/-- Changes key slot n. -/
def State.modKey (s : State) (n : Nat) (f : KeySlot → KeySlot) : State :=
  s.modPkg (fun p => { p with keys := Tab.set KeySlot.reset p.keys n (f (Tab.get KeySlot.reset p.keys n)) })
/-- The installed capsule of a handle. -/
def State.capsule? (s : State) (h : Nat) : Option Capsule := Tab.find? s.pkg.caps h
/-- Changes the installed capsule of a handle. -/
def State.modCapsule (s : State) (h : Nat) (f : Capsule → Capsule) : State :=
  s.modPkg (fun p => { p with caps := p.caps.map (fun q => if q.1 = h then (q.1, f q.2) else q) })
/-- Takes the next free number (a value that no rule gives). -/
def State.nextFree (s : State) : State := { s with free := s.free + 1 }

/-! ## The state word and the registers of a slot (Table 2.2, R17 to R20) -/

/-- `k.sw` fields of Table 2.2. -/
def Slot.park (x : Slot) : Nat := bits x.sw 41 4
/-- vsize: the window in granules of four registers. -/
def Slot.vsize (x : Slot) : Nat := bits x.sw 36 5
/-- vbase: the first granule of the window. -/
def Slot.vbase (x : Slot) : Nat := bits x.sw 32 4
/-- Whether a repeat frame is capturing or replaying. -/
def Slot.frame (x : Slot) : Bool := bit x.sw 3
/-- Privileged mode. -/
def Slot.priv (x : Slot) : Bool := bit x.sw 2
/-- The chain bit. -/
def Slot.chain (x : Slot) : Bool := bit x.sw 1
/-- A child of `spawn` runs inline. -/
def Slot.inline_ (x : Slot) : Bool := bit x.sw 0
/-- bgen: bit 0 of the generation of the last counted arrival. -/
def Slot.bgen (x : Slot) : Bool := bit x.sw 45
/-- Writes the parking reason. -/
def Slot.setPark (x : Slot) (n : Nat) : Slot := { x with sw := setBits x.sw 41 4 n }
/-- Writes bgen. -/
def Slot.setBgen (x : Slot) (b : Bool) : Slot := { x with sw := setBits x.sw 45 1 (if b then 1 else 0) }
/-- R57, R58: clears bits 31:3 of `k.sw`. -/
def Slot.dropFrame (x : Slot) : Slot := { x with sw := setBits x.sw 3 29 0 }

/-- The pattern that register r holds; g0 reads zero (R60). -/
def Slot.reg (x : Slot) (r : Reg) : Word := if r = 0 then 0 else x.g.get r.toFin
/-- Whether register r is full; g0 always is (R16). -/
def Slot.isFull (x : Slot) (r : Reg) : Bool := r = 0 || x.full.getLsbD r.toNat
/-- Writes register r and sets it full; a write to g0 is discarded (R16, R17). A whole write ends an uncorrectable error in
the register (R299). -/
def Slot.setReg (x : Slot) (r : Reg) (v : Word) : Slot :=
  if r = 0 then x
  else { x with g := x.g.set r.toNat v r.isLt, full := x.full ||| oneHot r.toNat,
                badG := x.badG &&& ~~~oneHot r.toNat }
/-- Sets or clears the full/empty bit of register r; g0 stays full. -/
def Slot.setFull (x : Slot) (r : Nat) (b : Bool) : Slot :=
  if r = 0 then x
  else { x with full := if b then x.full ||| oneHot r else x.full &&& ~~~oneHot r }
/-- The slot's own fixed-latency result (R18): register r is written, and until cycle `due` an external fill does not
outlast it. -/
def Slot.writeOwn (x : Slot) (r : Reg) (v : Word) (due : Nat) : Slot :=
  if r = 0 then x else { x.setReg r v with wbRegs := oneHot r.toNat, wbDue := due }
/-- R20: instructions set sticky float bits and never clear one. -/
def Slot.orFst (x : Slot) (f : BitVec 5) : Slot := { x with fst := x.fst ||| f.zeroExtend 64 }

/-- R78: the next word. In a repeat frame (R56 to R58) the word after the last word of the last replay leaves the frame, and the
last word of an earlier replay goes back to the first. -/
def Slot.advance (x : Slot) : Slot :=
  if x.frame then
    let n := bits x.sw 12 4
    if bits x.sw 4 4 < n then { x with pc := pc57 (x.pc + 4), sw := setBits x.sw 4 4 (bits x.sw 4 4 + 1) }
    else if bits x.sw 8 4 < bits x.sw 16 4 then
      { x with pc := pc57 (x.pc - wrap (4 * n)), sw := setBits x.sw 4 8 ((bits x.sw 8 4 + 1) * 16) }
    else { x.dropFrame with pc := pc57 (x.pc + 4) }
  else { x with pc := pc57 (x.pc + 4) }

/-- R23: the slot leaves the rotation for reason n and waits as `p` says. -/
def Slot.parkFor (x : Slot) (n : Nat) (p : Pend) : Slot := { x.setPark n with st := .parked, pend := p }
/-- Whether a slot waits for its translation or for the acknowledgement of an earlier store, and not for what its instruction does. -/
def Pend.translating (p : Pend) : Bool :=
  match p with
  | .walk _ _ _ _ _ _ _ => true
  | .page _ => true
  | .stage2 _ _ => true
  | .collapse _ => true
  | .ackWait => true
  | _ => false
/-- R23: the cause has cleared; the slot issues the word at pc at its next turn. A slot that resumes at a counted barrier word
(R153, R236) and waits for a translation or an acknowledgement on the way keeps park 6. -/
def Slot.wake (x : Slot) : Slot :=
  { (if x.pend.translating && x.park = 6 then x else x.setPark 0) with st := .ready, pend := .none, popDue := false }
/-- R293: what a slot still waits for when it is STOPPED: the release of its barrier with its stamp. -/
def Pend.kept (p : Pend) : Pend :=
  match p with
  | .barrier _ _ _ _ _ => p
  | .sbarRel _ _ _ => p
  | _ => .none
/-- R153, R293: what a slot that stops still waits for at the barrier that has counted it, be it parked there or on its way to the word at
which it goes on. -/
def Slot.owes (x : Slot) : Pend :=
  match x.pend.kept with
  | .none => if x.park = 6 then x.owed else .none
  | p => p
/-- R292, R331: a STOPPED slot becomes READY at `k.epc` with cause 0. Park 6 stays, for the word at `k.epc` to be recognised as
counted (R153, R236). The program counter is always a multiple of 4 (Table 2.1). The words of a frame are fetched anew (R59). -/
def Slot.resume (x : Slot) : Slot :=
  { (if x.park = 6 then x else x.setPark 0) with
    st := .ready, cause := 0, pc := pcAt x.epc, pend := .none, popDue := false, atAnchor := false, frameBuf := [],
    stopReq := .none_, counted := false, owed := if x.park = 6 then x.pend.kept else .none }
/-- The parked instruction is complete: the slot goes on at the next word. -/
def Slot.wakeNext (x : Slot) : Slot := x.wake.advance

/-- Parks the slot whose turn it is. -/
def State.park (s : State) (n : Nat) (p : Pend) : State := s.modMe (·.parkFor n p)
/-- Parks it for an instruction with source registers `srcs`, whose pop of g14 (R62) takes place when the instruction
completes: a parked instruction has had no effect (R17). -/
def State.parkOn (s : State) (pops : Bool) (n : Nat) (p : Pend) : State :=
  s.modMe (fun x => { x.parkFor n p with popDue := pops })
/-- Parks it until its word, evaluated again at its turns, finds the cause cleared. -/
def State.parkRetry (s : State) (n : Nat) : State := s.park n .retry

/-! ## Latches, notices and fills (R17, R18, R150, R332) -/

/-- A `wait` of the slot has taken the settings of its latch up to cycle `now`. -/
def Slot.waited (x : Slot) (now : Nat) : Slot := { x with waitCyc := now + 1 }

/-- Sets the arrival latch of slot k of core c (R150): a slot parked on `wait` clears it and goes on; one parked on `yield` or
`wrs` goes on and leaves it set (R180, R233). A setting of the cycle in which a `wait` has found its latch set counts with that setting as
one. -/
def State.setLatch (s : State) (c k : Nat) : State :=
  let set (t : State) := t.modCore c (fun x => { x with latch := x.latch ||| oneHot k })
  match (s.slot c k).st, (s.slot c k).pend with
  | .parked, .latch => s.modSlot c k (fun x => x.wakeNext.waited s.now)
  | .parked, .yieldTill _ => (set s).modSlot c k Slot.wakeNext
  | .parked, .wrs _ => (set s).modSlot c k Slot.wakeNext
  | _, _ => if (s.slot c k).waitCyc = s.now + 1 then s else set s

/-- Slot k's arrival latch. -/
def State.latch (s : State) (c k : Nat) : Bool := (s.core c).latch.getLsbD k

/-- Clears slot k's arrival latch. -/
def State.clearLatch (s : State) (c k : Nat) : State :=
  s.modCore c (fun x => { x with latch := x.latch &&& ~~~oneHot k })

/-- A notice reaches a service core or the security core (R332): the notice bit of each of its slots that is not FREE is set, and
a slot that idles on `halt` clears it and goes on. -/
def State.notify (s : State) (c : Nat) : State :=
  (List.range (slotsOf c)).foldl (fun t k =>
    t.modSlot c k (fun x =>
      match x.st, x.pend with
      | .free, _ => x
      | .parked, .idle => x.wakeNext
      | _, _ => { x with notice := true })) s

/-- An external fill of register r (R17, R18): a fill before the slot's own result is in place does not outlast it; the
register is full and the latch is set. A fill addressed to g0 is discarded. -/
def State.fill (s : State) (c k : Nat) (r : Reg) (v : Word) : State :=
  if r = 0 then s
  else
    let x := s.slot c k
    let y := if s.now < x.wbDue && x.wbRegs.getLsbD r.toNat then x.setFull r.toNat true else x.setReg r v
    (s.setSlot c k y).setLatch c k

/-! ## Chain queues (R62, R147) -/

/-- The queue that slot k of core c pushes. -/
def State.chainOut (s : State) (c k : Nat) : List (Nat × Word) := Tab.get [] (s.core c).chq k
/-- Writes the queue that slot k of core c pushes. -/
def State.setChain (s : State) (c k : Nat) (q : List (Nat × Word)) : State :=
  s.modCore c (fun x => { x with chq := Tab.set [] x.chq k q })
/-- The oldest entry that slot k of core c can pop: one whose push was complete in an earlier cycle (R18, R22). -/
def State.chainHead (s : State) (c k : Nat) : Option Word :=
  match s.chainOut (upstream c) k with
  | [] => none
  | (t, v) :: _ => if t < s.now then some v else none
/-- Pops for slot k of core c. -/
def State.chainPop (s : State) (c k : Nat) : State :=
  s.setChain (upstream c) k (s.chainOut (upstream c) k).tail
/-- The cycle in which a push by core c that would be complete in cycle `due` is: towards a stopped neighbour it waits in the mesh
(R300). -/
def State.pushDue (s : State) (c due : Nat) : Nat :=
  if (s.core (downstream c)).health = .stopped then Nat.max due (s.now + 1) else due
/-- Pushes for slot k of core c a value that is complete in cycle `due` (R22): its arrival sets the latch of the slot that pops (R150), in
this cycle or at the start of the one in which it is complete. -/
def State.chainPush (s : State) (c k : Nat) (v : Word) (due : Nat) : State :=
  let t := s.setChain c k (s.chainOut c k ++ [(s.pushDue c due, v)])
  if s.now < s.pushDue c due then t else t.setLatch (downstream c) k
/-- Whether the queue that slot k of core c pushes takes no value: it is full (R147), or the neighbour is stopped and the push waits in the
mesh (R300). -/
def State.chainFull (s : State) (c k : Nat) : Bool :=
  decide (4 ≤ (s.chainOut c k).length) || (s.core (downstream c)).health = .stopped
/-- Whether the slot's chain bit makes g14 the queue: never on service and security cores (R147). -/
def State.chained (s : State) (c k : Nat) : Bool := isCompute c && (s.slot c k).chain

/-- The parked instruction of slot k of core c is complete: its pop is made, and the slot goes on at the next word (R23). -/
def State.goOn (s : State) (c k : Nat) : State :=
  (if (s.slot c k).popDue then s.chainPop c k else s).modSlot c k Slot.wakeNext
/-- The result of a parked instruction is written whole, or pushed while the chain bit is set (R62). -/
def State.result (s : State) (c k : Nat) (d : Reg) (v : Word) : State :=
  if d = 14 && s.chained c k then s.chainPush c k v s.now else s.modSlot c k (·.setReg d v)
/-- The result is written and the slot goes on. -/
def State.answer (s : State) (c k : Nat) (d : Reg) (v : Word) : State := (s.result c k d v).goOn c k

/-! ## Memory (R25, R26, R202, R299, R305) -/

/-- The memory key of byte o of the local memory of core n. -/
def lmemKey (n o : Nat) : Nat := 2 ^ 56 + n * 2 ^ 18 + o
/-- The one form of memory. -/
abbrev Memory.wf (m : List Host.Cell) : Prop := Tab.wf (0 : Byte) m = true
/-- What one byte of memory holds. A byte that nothing has written reads zero. -/
def State.byteAt (s : State) (key : Nat) : Byte := Tab.get (0 : Byte) s.mem key
/-- Writes one byte of memory. -/
def State.setByte (s : State) (key : Nat) (b : Byte) : State := { s with mem := Tab.set (0 : Byte) s.mem key b }
/-- The n bytes from `key` upward as a little-endian number. -/
def State.rawRead (s : State) : Nat → Nat → Nat
  | _, 0 => 0
  | key, n + 1 => (s.byteAt key).toNat + 256 * s.rawRead (key + 1) n
/-- Writes the low n bytes of v from `key` upward. -/
def State.rawWrite (s : State) : Nat → Nat → Nat → State
  | _, 0, _ => s
  | key, n + 1, v => (s.setByte key (BitVec.ofNat 8 v)).rawWrite (key + 1) n (v / 256)
/-- Writes a list of bytes from `key` upward. -/
def State.rawWriteBytes (s : State) : Nat → List Byte → State
  | _, [] => s
  | key, b :: t => (s.setByte key b).rawWriteBytes (key + 1) t
/-- Reads n bytes from `key` upward. -/
def State.rawReadBytes (s : State) (key n : Nat) : List Byte := (List.range' key n).map s.byteAt

/-- The full/empty bit of the 8-byte word that holds `key` (R26, R195). -/
def State.wordFull (s : State) (key : Nat) : Bool := Tab.get true s.empties (key / 8)
/-- Writes the full/empty bit of a word. -/
def State.setWordFull (s : State) (key : Nat) (b : Bool) : State :=
  { s with empties := Tab.set true s.empties (key / 8) b }
/-- The key under which a word was last enciphered (R305), 0 for none. -/
def State.tagOf (s : State) (key : Nat) : Nat := Tab.get 0 s.tags (key / 8)
/-- Writes a word's tag. -/
def State.setTag (s : State) (key t : Nat) : State := { s with tags := Tab.set 0 s.tags (key / 8) t }
/-- Whether a word holds an uncorrectable error (R298). -/
def State.badWord (s : State) (key : Nat) : Bool := Tab.get false s.pkg.badWords (key / 8)
/-- Marks or unmarks a word as uncorrectable. -/
def State.setBadWord (s : State) (key : Nat) (b : Bool) : State :=
  s.modPkg (fun p => { p with badWords := Tab.set false p.badWords (key / 8) b })

/-- The aligned word that holds `key`, as a reader with cipher key `ck` gets it (R305): its plain value under the same key,
an unspecified value under another. -/
def State.wordAs (s : State) (ck key : Nat) : Word :=
  let w := wrap (s.rawRead (key / 8 * 8) 8)
  if s.tagOf key = ck then w else Config.cipherMix (s.tagOf key) ck (key / 8 * 8) w
/-- A load of `size` bytes, which lie in one 8-byte word, zero-extended. -/
def State.memLoad (s : State) (ck key size : Nat) : Word :=
  wrap ((s.wordAs ck key).toNat / 2 ^ (8 * (key % 8)) % 2 ^ (8 * size))
/-- A store of the low `size` bytes of v, which lie in one 8-byte word. A store of all eight ends an uncorrectable error (R299).
A store of fewer into a word enciphered under another key leaves the other bytes as its own key deciphers them. -/
def State.memStore (s : State) (ck key size : Nat) (v : Word) : State :=
  if size = 8 then ((s.rawWrite key 8 v.toNat).setTag key ck).setBadWord key false
  else if s.tagOf key = ck then s.rawWrite key size v.toNat
  else
    let w := s.wordAs ck key
    ((s.rawWrite (key / 8 * 8) 8 (setBits w (8 * (key % 8)) (8 * size) v.toNat).toNat).setTag key ck)

/-- R298: one more entry in a tile's error log. -/
def State.logError (s : State) (tile : Nat) : State :=
  s.modPkg (fun p => { p with errLog := Tab.set 0 p.errLog tile (Tab.get 0 p.errLog tile + 1) })

/-- R305: the cipher key of a core: the key of its key slot if its context is protected, else none. -/
def State.cipherKey (s : State) (c : Nat) : Nat :=
  if bit (s.core c).owner 39 then (s.keySlot (bits (s.core c).owner 32 7)).key else 0

/-- R227: a write of the 64-byte block of `key` by another agent than `by_` ends every reservation on the block, and with it the
wait of a `wrs` on it (R233). -/
def State.loseResv (s : State) (by_ : Option (Nat × Nat)) (key : Nat) : State :=
  s.mapSlots (fun c k x =>
    match x.resv with
    | none => x
    | some r =>
      if r.key = key / 64 && by_ != some (c, k) then
        match x.st, x.pend with
        | .parked, .wrs _ => { x.wakeNext with resv := none }
        | _, _ => { x with resv := none }
      else x)

/-- A write as every agent makes it: the bytes change, and reservations of other agents on the block are lost. -/
def State.agentWrite (s : State) (by_ : Option (Nat × Nat)) (ck key size : Nat) (v : Word) : State :=
  (s.memStore ck key size v).loseResv by_ key

/-! ## Guard granules (R198) -/

/-- The slots of a core, as (number, slot). -/
def State.slotsOn (s : State) (c : Nat) : List (Nat × Slot) :=
  (List.range (slotsOf c)).map (fun k => (k, s.slot c k))

/-- Whether byte offset o of core n lies in a guard granule: the 64 bytes before or behind the scratchpad data of a slot. -/
def State.isGuard (s : State) (n o : Nat) : Bool :=
  (s.slotsOn n).any (fun p =>
    match p.2.spad with
    | none => false
    | some (base, len) => (decide (base - 64 ≤ o) && decide (o < base)) || (decide (base + len ≤ o) && decide (o < base + len + 64)))

/-- Whether a memory key lies in a guard granule. -/
def State.guardKey (s : State) (key : Nat) : Bool := decide (2 ^ 56 ≤ key) && s.isGuard ((key - 2 ^ 56) / 2 ^ 18) (key % 2 ^ 18)

/-- An access of `size` bytes by slot k of core c to local memory at `key`: if one of its bytes lies in a guard granule, a guard touch of
the first such byte is recorded (R198). -/
def State.touch (s : State) (c k key size : Nat) : State :=
  if key < 2 ^ 56 then s
  else
    let n := (key - 2 ^ 56) / 2 ^ 18
    match (List.range' (key % 2 ^ 18) size).find? (s.isGuard n) with
    | some o =>
      s.modSlot c k (fun x =>
        { x with guardRec := match x.guardRec with
                             | none => some ⟨n, o, 1⟩
                             | some r => some { r with count := Nat.min 65535 (r.count + 1) } })
    | none => s

/-! ## Store buffers (R27, R87, R133, R221) -/

/-- The byte that the youngest of a list of buffered stores (oldest first) gives for `key`, if one covers it. -/
def forwardByte (es : List StoreEnt) (key : Nat) : Option Byte :=
  es.foldl (fun acc e =>
    match e.lanes with
    | [] => if e.loc.key ≤ key ∧ key < e.loc.key + e.size then some (BitVec.ofNat 8 (e.data.toNat / 2 ^ (8 * (key - e.loc.key))))
            else acc
    | ls => ls.foldl (fun a l => if l.1 ≤ key ∧ key < l.1 + 4 then some (BitVec.ofNat 8 (l.2.toNat / 2 ^ (8 * (key - l.1)))) else a) acc)
    none

/-- A store that has been performed and only awaits its scope-miss message (R209). -/
def StoreEnt.done (e : StoreEnt) : Bool := e.rel && e.loose

/-- The stores of the slot that have not been performed, oldest first: those of its present claim, and those of earlier ones, which its loads
may have observed (R202, R205). -/
def Slot.unperformed (x : Slot) : List StoreEnt := x.out.filter (fun e => !e.done) ++ x.buf

/-- The stores of the slot, whatever claim issued them (R200, R202), whose values its own loads under cipher key `ck` take, oldest first. -/
def Slot.forwards (x : Slot) (ck : Nat) : List StoreEnt := (x.out ++ x.buf).filter (fun e => decide (e.ckey = ck) && !e.done)

/-- A load of `size` bytes by slot k of core c: each byte from the youngest store of the slot that covers it, else from
memory (R27). -/
def State.slotLoad (s : State) (c k ck key size : Nat) : Word :=
  let es := (s.slot c k).forwards ck
  let m := (s.memLoad ck key size).toNat
  wrap ((List.range size).foldl (fun a i =>
    a + 2 ^ (8 * i) * (match forwardByte es (key + i) with
                       | some b => b.toNat
                       | none => m / 2 ^ (8 * i) % 256)) 0)

/-- Whether a buffered store covers no byte of a word that an uncorrectable error holds. -/
def State.loadBad (s : State) (c k key size : Nat) : Bool :=
  s.badWord key && (List.range size).any (fun i => (forwardByte ((s.slot c k).forwards (s.cipherKey c)) (key + i)).isNone)

/-- Every earlier access of the slot is performed at every scope (R201, R205, R230): its buffer is empty, every
store that left it is acknowledged, and no scope-miss handler holds a store of its thread. A release at core scope waits for no less (DEDUCED, log
entry 89). -/
def State.quiet (s : State) (c k : Nat) : Bool :=
  let x := s.slot c k
  x.unperformed.isEmpty && (s.core c).misses.all (fun m => m.slot != k || m.claim != x.claims)
/-- A store of the slot's thread to another core's window is on its way (R187, R220). -/
def Slot.windowOut (x : Slot) : Bool := x.out.any (fun e => e.loc.window && e.claim = x.claims)

/-- What a fence waits for at the scope given by its code: `fence.core` asks only for an empty buffer (R232). -/
def State.quietAt (s : State) (c k scope : Nat) : Bool :=
  if scope = 0 then (s.slot c k).buf.isEmpty else s.quiet c k

/-- R215: the scope at which an order of the slot acts; system scope is performed at package scope in a logical device that is
limited to tenant scope. -/
def State.tenantScoped (s : State) (x : BitVec 8) : Bool :=
  s.pkg.lds.any (fun p => p.2.tscope && p.2.tenants.contains x)

/-- R215: counts a demotion in the policy counter of the tenant's logical device. -/
def State.countDemotion (s : State) (x : BitVec 8) : State :=
  s.modPkg (fun p => { p with lds := Tab.mapAll LDev.reset p.lds (fun _ d =>
    if d.tscope && d.tenants.contains x then { d with fcnt := d.fcnt + 1 } else d) })

/-- R215: if the order at `sc` is demoted, the demotion is counted. -/
def State.demote (s : State) (ordered : Bool) (sc : BitVec 3) : State :=
  if ordered && sc = 4 && s.tenantScoped s.me.tenant then s.countDemotion s.me.tenant else s

/-- R378: an access that has issued keeps the scope it issued with: its demotion is counted once, when it issues. -/
def State.demoteIssued (s : State) (ordered : Bool) (sc : BitVec 3) : State :=
  (if s.me.counted then s else s.demote ordered sc).modMe (fun x => { x with counted := false })
/-- An ordered access that has issued waits with park 4 for an empty buffer or for what its order asks (R222, R225, R230, R235). -/
def State.waitIssued (s : State) (ordered : Bool) (sc : BitVec 3) : State :=
  ((if s.me.counted then s else s.demote ordered sc).modMe (fun x => { x with counted := true })).parkRetry 4

/-! ## Taking a fault and returning from one (R290 to R295, R331) -/

/-- The cause codes of Table 18.2. -/
inductive FaultCode where
  | illegal | priv | frame | novreg | addr | align | perm | sealed | page | memtype | scope | target | guard | migv | entry
  | ctlword | cap | scale | xrec | xqueue | xslot | spill | reftype | latestamp | oldstamp | widen | data | trap | bkpt | dead
  | unwind
  deriving DecidableEq, Repr

/-- Table 18.2. -/
def FaultCode.num : FaultCode → Nat
  | .illegal => 1 | .priv => 2 | .frame => 3 | .novreg => 4 | .addr => 5 | .align => 6 | .perm => 7 | .sealed => 8
  | .page => 9 | .memtype => 10 | .scope => 11 | .target => 12 | .guard => 13 | .migv => 14 | .entry => 15 | .ctlword => 16
  | .cap => 17 | .scale => 18 | .xrec => 19 | .xqueue => 20 | .xslot => 21 | .spill => 22 | .reftype => 23 | .latestamp => 24
  | .oldstamp => 25 | .widen => 26 | .data => 27 | .trap => 28 | .bkpt => 29 | .dead => 30 | .unwind => 31

/-- A number as n bytes, little-endian. -/
def leBytes (n v : Nat) : List Byte := (List.range n).map (fun i => BitVec.ofNat 8 (v / 256 ^ i))

/-- n bytes of a list from position i, as a little-endian number. -/
def leAt (l : List Byte) (i n : Nat) : Nat := (List.range n).foldr (fun k a => (l.getD (i + k) 0).toNat + 256 * a) 0

/-- R292: the 16 bytes of a fault notice. -/
def faultNotice (epc : Word) (core slot code : Nat) (tenant : BitVec 8) : List Byte :=
  leBytes 8 epc.toNat ++ leBytes 2 core ++ leBytes 1 slot ++ leBytes 1 code ++ [tenant] ++ leBytes 3 0

/-- R292: the fault notice that a core posts to its tile's service core; that of a protected context carries no address (R310). -/
def State.postFault (s : State) (c k : Nat) : State :=
  let x := s.slot c k
  let epc := if bit (s.core c).owner 39 then 0 else x.epc
  s.modPkg (fun p => { p with notices := p.notices ++ [.fault (tileOf c) (faultNotice epc c k (bits x.cause 0 8) x.tenant)] })

/-- R290: slot k of core c, whose `k.epc` stands, stops: cause, fault and faddr are written (Tables 18.1 and 18.2). Everything else of the
slot stays; one that a barrier has counted waits on for its release (R293). -/
def State.stopWith (s : State) (c k : Nat) (code : FaultCode) (faddr fault : Word) (imp : Bool) : State :=
  let x := s.slot c k
  let cause := code.num + (if imp then 256 else 0) + (if x.frame then 512 else 0) + (if x.inline_ then 1024 else 0)
  (s.setSlot c k { x with
    st := .stopped, cause := wrap cause, faddr := faddr, fault := fault, pend := x.owes, owed := .none, counted := false }).postFault c k

/-- Taking a fault, precise or imprecise (R290): slot k of core c stops, and `k.epc` receives the address of its word. -/
def State.takeFault (s : State) (c k : Nat) (code : FaultCode) (faddr fault : Word := 0) (imp : Bool := false) : State :=
  (s.modSlot c k (fun x => { x with epc := x.pc })).stopWith c k code faddr fault imp

/-- The slot whose turn it is takes a precise fault. -/
def State.fault (s : State) (code : FaultCode) (faddr fault : Word := 0) : State :=
  s.takeFault s.curCore s.curSlot code faddr fault

/-- R57, R116: F_FRAME, and F_NOVREG at a first replay, clear the frame fields; they still set inframe (R295). -/
def State.faultLeavingFrame (s : State) (code : FaultCode) (fault : Word) : State :=
  (s.fault code 0 fault).modMe Slot.dropFrame

/-! ## Issue: the checks of R35 that come before an instruction's own execution -/

/-- Where an instruction is legal (Table 21.1): everywhere, in privileged mode, on the security core. -/
inductive Level where
  | user | privileged | security
  deriving DecidableEq, Repr

/-- What a word asks of its slot before its own execution: the word itself with its fields stepped (R295), its level, whether a
frame may hold it, the vector registers that it only writes and those that it reads, its source g registers, and its g
destination. -/
structure Ask where
  word : BitVec 32
  level : Level
  frameOk : Bool
  vdst : List VReg
  vsrc : List VReg
  srcs : List Reg
  dst : Option Reg
  deriving DecidableEq, Repr

/-- R29, R34: the word of an instruction, zero-extended, as `k.fault` holds it. -/
def faultWord (q : Ask) : Word := q.word.zeroExtend 64

/-- Whether a source field names g14 while the chain bit is set (R62). -/
def State.pops (s : State) (srcs : List Reg) : Bool := s.chained s.curCore s.curSlot && srcs.contains 14
/-- Whether the destination is g14 while the chain bit is set (R62). -/
def State.pushes (s : State) (dst : Option Reg) : Bool := s.chained s.curCore s.curSlot && dst == some 14

/-- A source register as the instruction sees it: the popped value for g14 while the chain bit is set (R62). -/
def State.src (s : State) (r : Reg) : Word :=
  if r = 14 && s.chained s.curCore s.curSlot then (s.chainHead s.curCore s.curSlot).getD 0 else s.me.reg r

/-- The pop of R62, made once, when the instruction takes its operands. -/
def State.take (s : State) (srcs : List Reg) : State :=
  if s.pops srcs then s.chainPop s.curCore s.curSlot else s

/-- Writes a result of the instruction: a push for g14 while the chain bit is set, else the register (R17, R62). `due` is the
cycle at which the slot's own write-back takes place. -/
def State.put (s : State) (d : Reg) (v : Word) (due : Nat) : State :=
  if d = 14 && s.chained s.curCore s.curSlot then s.chainPush s.curCore s.curSlot v due
  else s.modMe (·.writeOwn d v due)

/-- The next word of the slot whose turn it is. -/
def State.advance (s : State) : State := s.modMe Slot.advance

/-- A fixed-latency instruction ends: operands taken, result written with its latency, next word. -/
def State.retire (s : State) (srcs : List Reg) (d : Reg) (v : Word) (lat : Nat) : State :=
  (((s.take srcs).put d v (s.now + lat))).advance

/-- The fault of a source register that holds an uncorrectable error (R298): 1 and the number of a g register, 2 and that of a
vector register. -/
def State.badSource (s : State) (q : Ask) : Option Word :=
  match q.srcs.find? (fun r => s.me.badG.getLsbD r.toNat && !(r = 14 && s.chained s.curCore s.curSlot)) with
  | some r => some (wrap (256 + r.toNat))
  | none =>
    match q.vsrc.find? (fun v => (s.core s.curCore).badV.contains (4 * s.me.vbase + v.toNat)) with
    | some v => some (wrap (512 + v.toNat))
    | none => none

/-- The fault of a register that is to be carried and holds an uncorrectable error, which is never passed on as a value (R298): it is raised after
the checks of the instruction itself and before it waits for its release (DESIGN CHOICE, log entry 67). -/
def Slot.badCarried (x : Slot) (n : Nat) : Option Word :=
  ((List.range' 1 n).find? (fun i => x.badG.getLsbD i)).map (fun i => wrap (256 + i))

/-! ## `spawn` (R143, R144, R172 to R174) -/

/-- R35, steps 2 to 5, in order: privilege, frame, vector window, empty sources, chain queues; then the instruction's own
execution, to which a source with an uncorrectable error belongs. -/
def State.issue (s : State) (q : Ask) (body : State → State) : Out :=
  let x := s.me
  if (q.level = .privileged ∧ x.priv = false) ∨ (q.level = .security ∧ s.curCore ≠ securityCore) then
    .next (s.fault .priv 0 (faultWord q))
  else if x.frame ∧ q.frameOk = false then .next (s.faultLeavingFrame .frame (faultWord q))
  else if (q.vdst ++ q.vsrc).any (fun v => decide (4 * x.vsize ≤ v.toNat)) then
    .next (if bits x.sw 8 4 = 0 then s.faultLeavingFrame .novreg (faultWord q) else s.fault .novreg 0 (faultWord q))
  else if q.srcs.any (fun r => !(x.isFull r) && !(r = 14 && s.chained s.curCore s.curSlot)) then .next (s.parkRetry 1)
  else if (s.pops q.srcs && (s.chainHead s.curCore s.curSlot).isNone) ||
      (s.pushes q.dst && s.chainFull s.curCore s.curSlot) then .next (s.parkRetry 9)
  else
    match s.badSource q with
    | some f => .next (s.fault .data 0 f)
    | none => .next (body s)

/-- An instruction that only writes registers, fixed latency (R22, R61). -/
def State.compute (s : State) (i : Instr) (frameOk : Bool) (srcs : List Reg) (d : Reg) (lat : Nat) (f : (Reg → Word) → Word) : Out :=
  s.issue ⟨encode i, .user, frameOk, [], [], srcs, some d⟩ (fun t => t.retire srcs d (f t.src) lat)

end Sys2Proof.Machine
end

