-- ==== Sys2Proof/Machine/Xlate.lean ====
section
/-!
DEFINITION. Where an address leads: regions (R185 to R187), the physical map and homes (R188, R189), scopes (R200, R208), tables
and TLBs (R191 to R194), page faults as upcalls (R196, R197), replicated pages (R199), and fetching a word (R29, R82).
-/

namespace Sys2Proof.Machine

open Sys2Proof

/-! ## Regions (Table 10.1) -/

/-- Two ranges of bytes meet. -/
def overlap (a n b m : Nat) : Bool := decide (a < b + m) && decide (b < a + n)

/-- The region of an address: the own local window, the core window of a core, a translated address, or none. -/
inductive Region where
  | localMem (off : Nat)
  | window (core off : Nat)
  | translated
  | none_
  deriving DecidableEq, Repr

/-- The base of the local window (R25). -/
def localBase : Nat := 0xFFFFFF0000000000

/-- R185, R186: the region of an address formed on core c; the core window of the issuing core is its local window. -/
def region (c : Nat) (va : Word) : Region :=
  let n := va.toNat
  if localBase ≤ n ∧ n < localBase + 2 ^ 32 then
    if n < localBase + 2 ^ 18 then .localMem (n - localBase) else .none_
  else if 2 ^ 56 ≤ n ∧ n < 2 ^ 57 then
    if n < 2 ^ 56 + 3072 * 2 ^ 18 then
      let m := (n - 2 ^ 56) / 2 ^ 18
      if m = c then .localMem (n % 2 ^ 18) else .window m (n % 2 ^ 18)
    else .none_
  else if canonical va then .translated
  else .none_

/-! ## The physical map (Table 10.2) and homes (R189) -/

/-- The HBM of one package: 576 GiB. -/
def hbmBytes : Nat := 0x9000000000
/-- One stack: 48 GiB. -/
def stackBytes : Nat := 0xC00000000

/-- The home die of an address (R189): SD(floor(stack / 3)) for this package's HBM and SD0 for the second tier and host memory, unless the map
says otherwise. -/
def State.homeDie (s : State) (pa : Nat) : Nat :=
  let d := Tab.get 255 s.pkg.homeMap (pa / 2 ^ 21)
  if d ≠ 255 then d else if pa < hbmBytes then 4 + pa / stackBytes / 3 else 4

/-- Table 10.2: the place of a physical address; none for an unpopulated one. -/
def State.placeOf (s : State) (pa : Nat) : Option Place :=
  if pa < hbmBytes then some (.home (s.homeDie pa))
  else if 2 ^ 48 ≤ pa ∧ pa < 2 ^ 48 + s.pkg.cxlBytes then some .cxl
  else if 2 ^ 51 ≤ pa ∧ pa < 0xC000000000000 then some .hostMem
  else if 0xC000000000000 ≤ pa ∧ pa < 0xF000000000000 then
    let p := (pa - 0xC000000000000) / 2 ^ 40
    if p < 256 ∧ pa % 2 ^ 40 < hbmBytes ∧ s.pkg.podMembers.contains p ∧ s.pkg.podNo ≠ some p ∧ s.pkg.podNo.isSome
    then some (.pkg p) else none
  else if 0xF000000000000 ≤ pa ∧ pa < 2 ^ 52 then some .devReg
  else none

/-- Whether the range of `size` bytes at `pa` is populated as a whole: its ends lie in one populated range. -/
def State.populated (s : State) (pa size : Nat) : Bool :=
  match s.placeOf pa, s.placeOf (pa + size - 1) with
  | some (.home _), some (.home _) => true
  | some (.pkg a), some (.pkg b) => a = b
  | some a, some b => a = b
  | _, _ => false

/-- A location with the home that its granule has now (R351, R352). -/
def Loc.rehome (l : Loc) (s : State) : Loc :=
  match l.place with
  | .home _ => { l with place := .home (s.homeDie l.key) }
  | _ => l

/-- R302, R355: what an access in flight meets at its place: F_DEAD at a retired core, F_ADDR in a package that has left the
pod. -/
def State.lostPlace (s : State) (l : Loc) (ea : Word) : Option (FaultCode × Word × Word) :=
  match l.place with
  | .lmem n => if (s.core n).health = .retired then some (.dead, ea, wrap n) else none
  | .pkg p => if s.pkg.podMembers.contains p then none else some (.addr, ea, 0)
  | _ => none

/-- R208: the home scope of a location relative to a slot of core c. -/
def homeScope (c : Nat) (l : Loc) : Nat :=
  match l.place with
  | .lmem n =>
    if n = c then 0
    else if isCompute n && isCompute c && clusterOf n = clusterOf c then 1
    else if dieOf n = dieOf c then 2 else 3
  | .home d => if d = dieOf c then 2 else 3
  | _ => 4

/-- R203: the location is homed on die d. -/
def homedOn (d : Nat) (l : Loc) : Bool :=
  match l.place with
  | .lmem n => dieOf n = d
  | .home e => e = d
  | _ => false

/-! ## Stage 2 and stage 1 (R192 to R194) -/

/-- A table entry, as a reader without a cipher key gets it (R305). -/
def State.entryAt (s : State) (pa : Nat) : Word := s.wordAs 0 pa

/-- A frame as stage 2 maps it: host address and permissions. -/
structure Frame where
  pa : Nat
  x : Bool
  w : Bool
  r : Bool
  sync : Bool
  deriving DecidableEq, Repr

/-- R194: the stage-2 lookup of a guest address; the identity, with every permission, where stage 2 is off. -/
def State.stage2 (s : State) (ptab s2b s2l : Word) (gpa : Nat) : Option Frame :=
  if bit ptab 0 = false then some ⟨gpa, true, true, true, true⟩
  else
    let n := gpa / 2 ^ 21
    let e := s.entryAt (s2b.toNat + 8 * n)
    if s2l.toNat ≤ n || !bit e 0 || bits e 52 12 ≠ 0 || bits e 5 16 ≠ 0 then none
    else some ⟨bits e 21 31 * 2 ^ 21 + gpa % 2 ^ 21, bit e 3, bit e 2, bit e 1, bit e 4⟩

/-- Whether the stage-2 entry of a guest address is a word with an uncorrectable error (R298). -/
def State.stage2Bad (s : State) (ptab s2b s2l : Word) (gpa : Nat) : Bool :=
  bit ptab 0 && decide (gpa / 2 ^ 21 < s2l.toNat) && s.badWord (s2b.toNat + 8 * (gpa / 2 ^ 21))

/-- The frame of a guest address, where its stage-2 entry can be read (R298). -/
def State.frameOf (s : State) (ptab s2b s2l : Word) (gpa : Nat) : Option Frame :=
  if s.stage2Bad ptab s2b s2l gpa then none else s.stage2 ptab s2b s2l gpa

/-- What a walk ends with (R193, R194, R196); `data`: it met a table word with an uncorrectable error (R298). -/
inductive WalkRes where
  | entry (e : TlbEnt)
  | absent
  | bad
  | stage2
  | data
  deriving DecidableEq, Repr

/-- R193: an entry that is present is malformed. `leafOk`, `ptrOk`: whether a leaf or a pointer may stand here; `align` is the
page size for a leaf and the next table's size for a pointer. -/
def malformed (e : Word) (leafOk ptrOk : Bool) (pageSize tableSize : Nat) : Bool :=
  let addr := bits e 8 44 * 256
  bit e 63 || bits e 52 8 ≠ 0 || bits e 6 2 ≠ 0 ||
  (if bit e 1 then
    !leafOk || addr % pageSize ≠ 0 || (bit e 60 && bits e 61 2 ≠ 0) || (bits e 61 2 = 3 && bit e 5)
   else !ptrOk || addr % tableSize ≠ 0 || bits e 60 3 ≠ 0 || bits e 2 4 ≠ 0)

/-- The page type of a code (Table 10.4). -/
def pageTy (c : Nat) : PageTy :=
  match c with
  | 0 => .normal
  | 1 => .sync
  | 2 => .stamped
  | _ => .device

/-- The leaf type bits 62:61, as `k.fault` holds them. -/
def PageTy.code : PageTy → Nat
  | .normal => 0 | .sync => 1 | .stamped => 2 | .device => 3

/-- R188, R195, R360: whether a page of this type may lie in this memory. A leaf of another type on the device-register range is malformed: R188
names no fault for it (DESIGN CHOICE, log entry 64). -/
def typeFits (t : PageTy) (p : Place) : Bool :=
  match t, p with
  | .sync, .home _ => true
  | .sync, _ => false
  | .stamped, .home _ => true
  | .stamped, .pkg _ => true
  | .stamped, _ => false
  | .device, _ => true
  | .normal, .devReg => false
  | .normal, _ => true

/-- The levels of Table 10.3: low bit of the index, entries, whether a leaf and whether a pointer may stand there, and the size of
the next table. -/
def levels : List (Nat × Nat × Bool × Bool × Nat) :=
  [(48, 512, false, true, 4096), (39, 512, false, true, 4096), (30, 512, true, true, 4096), (21, 512, true, true, 256),
   (16, 32, true, false, 1)]

/-- The bytes of a level's own table (Table 10.3). -/
def tableBytes (lo : Nat) : Nat := if lo = 16 then 256 else 4096

/-- R193: the walk from a table at guest address `tab` through the levels that are left. `rd`, `wr`, `fetch` name the access. What stage 2
denies comes before what stage 1 denies, the other way about than on a TLB hit (State.through): R217 puts both into one step and R194 gives no
order (DESIGN CHOICE, log entry 63). -/
def State.walkFrom (s : State) (tenant : BitVec 8) (ptab s2b s2l : Word) (va : Nat) (rd wr fetch : Bool) :
    List (Nat × Nat × Bool × Bool × Nat) → Nat → WalkRes
  | [], _ => .bad
  | (lo, n, leafOk, ptrOk, next) :: rest, tab =>
    if s.stage2Bad ptab s2b s2l tab then .data
    else
    match s.stage2 ptab s2b s2l tab with
    | none => .stage2
    | some f =>
      if f.r = false then .stage2
      else if s.populated f.pa (tableBytes lo) = false then .bad
      else if s.badWord (f.pa + 8 * (va / 2 ^ lo % n)) then .data
      else
        let e := s.entryAt (f.pa + 8 * (va / 2 ^ lo % n))
        if bit e 0 = false then .absent
        else if malformed e leafOk ptrOk (2 ^ lo) next then .bad
        else if bit e 1 then
          let ty := pageTy (bits e 61 2)
          let size := if bit ptab 0 then Nat.min (2 ^ lo) (2 ^ 21) else 2 ^ lo
          let gpa := bits e 8 44 * 256 + va % 2 ^ lo / size * size
          if s.stage2Bad ptab s2b s2l gpa then .data
          else
          match s.stage2 ptab s2b s2l gpa with
          | none => .stage2
          | some g =>
            if (rd && !g.r) || (wr && !g.w) || (fetch && !g.x) || ((ty = .sync || ty = .stamped) && !g.sync) then .stage2
            else
              match s.placeOf g.pa with
              | none => .bad
              | some p =>
                if s.populated g.pa size && typeFits ty p then
                  .entry { tenant := tenant, va := va / size * size, size := size, page := 2 ^ lo, pa := g.pa, gpa := gpa, ty := ty, rp := bit e 60,
                           u := bit e 5, x := bit e 4, w := bit e 3, r := bit e 2, s2x := g.x, s2w := g.w, s2r := g.r }
                else .bad
        else s.walkFrom tenant ptab s2b s2l va rd wr fetch rest (bits e 8 44 * 256)

/-- R192, R193: the whole walk of a virtual address of a tenant. -/
def State.walk (s : State) (tenant : BitVec 8) (ptab s2b s2l : Word) (va : Word) (rd wr fetch : Bool) : WalkRes :=
  s.walkFrom tenant ptab s2b s2l (va.toNat % 2 ^ 57) rd wr fetch levels (bits ptab 12 40 * 4096)

/-- The entry of a TLB that covers an address of a tenant. -/
def tlbFind (l : List TlbEnt) (tenant : BitVec 8) (va : Word) : Option TlbEnt :=
  l.find? (fun e => e.tenant = tenant && decide (va.toNat % 2 ^ 57 / e.size * e.size = e.va))

/-! ## Access (R193, R217 steps 2 to 4) -/

/-- The access kinds of Table 10.6. -/
def Acc.code : Acc → Nat
  | .load => 0 | .store => 1 | .fetch => 2 | .atomic => 3 | .desc _ => 0 | .image st => if st then 1 else 0

/-- R193: the permission fault of an access through a leaf, if any. -/
def permFault (e : TlbEnt) (priv rd wr fetch : Bool) : Option FaultCode :=
  if !priv && !e.u then some .perm
  else if fetch && !e.x then some .perm
  else if rd && !e.r then some (if e.x then .sealed else .perm)
  else if wr && !e.w then some .perm
  else none

/-- What stage 2 denies although the TLB holds the entry (R194). -/
def s2Denies (e : TlbEnt) (rd wr fetch : Bool) : Bool := (rd && !e.s2r) || (wr && !e.s2w) || (fetch && !e.s2x)

/-- R191: the slot parks with park 3 and a walk starts with the tables' registers as they stand. -/
def State.startWalk (s : State) (va : Word) (acc : Acc) (rd wr : Bool) : State :=
  let t := s.tenantDie (dieOf s.curCore) s.me.tenant.toNat
  s.park 3 (.walk va acc rd wr t.ptab t.s2b t.s2l)

/-- What resolving an address ends with: a location; a fault; a walk that must come first; and, of a walk made at once, an absent page, a
stage-2 failure, or a table word with an uncorrectable error. -/
inductive Resolved where
  | ok (l : Loc)
  | fault (code : FaultCode)
  | walk
  | absent
  | stage2
  | data
  deriving DecidableEq, Repr

/-- The location, where an address has one. -/
def Resolved.loc? : Resolved → Option Loc
  | .ok l => some l
  | _ => none

/-- R193, R194: an address through a TLB entry that covers it. A stage-1 permission fault is taken before a stage-2 denial is looked at
(DESIGN CHOICE, log entry 63: R217 names both in one step). -/
def State.through (s : State) (e : TlbEnt) (va : Word) (priv rd wr : Bool) : Resolved :=
  match permFault e priv rd wr false with
  | some f => .fault f
  | none =>
    if s2Denies e rd wr false then .walk
    else
      let pa := e.pa + (va.toNat % 2 ^ 57 - e.va)
      match s.placeOf pa with
      | none => .fault .addr
      | some p => .ok ⟨pa, p, e.ty, e.rp, false⟩

/-- R185, R191: where an address formed by a slot of core c leads, regions and the core's data TLB; alignment is not its concern. -/
def State.find (s : State) (c : Nat) (x : Slot) (va : Word) (rd wr : Bool) : Resolved :=
  match region c va with
  | .none_ => .fault .addr
  | .localMem o => .ok ⟨lmemKey c o, .lmem c, .normal, false, false⟩
  | .window n o => .ok ⟨lmemKey n o, .lmem n, .normal, false, true⟩
  | .translated =>
    match tlbFind (s.core c).dtlb x.tenant va with
    | none => .walk
    | some e => s.through e va x.priv rd wr

/-- What `k.fault` holds after a translation fault: the access kind for F_PERM (R291). -/
def FaultCode.detail (f : FaultCode) (acc : Acc) : Word := if f = .perm then wrap acc.code else 0

/-- R217 steps 2 to 4 for the slot whose turn it is: the location of an access of `size` bytes, or the state in which the slot
has stopped or parked. -/
def State.locate (s : State) (va : Word) (size : Nat) (acc : Acc) (rd wr : Bool) : Except State Loc :=
  if region s.curCore va = .none_ then .error (s.fault .addr va)
  else if va.toNat % size ≠ 0 then .error (s.fault .align va)
  else
    match s.find s.curCore s.me va rd wr with
    | .ok l => .ok l
    | .fault f => .error (s.fault f va (f.detail acc))
    | _ => .error (s.startWalk va acc rd wr)

/-- R187, R302: the checks of a core-window access: F_TARGET where owner or window tenant differ (service cores, and no others, are exempt
from the second), F_DEAD where the core is retired. -/
def State.targetCheck (s : State) (va : Word) (l : Loc) : Option State :=
  if l.window then
    match l.place with
    | .lmem n =>
      if (s.core n).owner ≠ (s.core s.curCore).owner ∨ (isService s.curCore = false ∧ (s.core n).wten ≠ s.me.tenant) then
        some (s.fault .target va (wrap n))
      else if (s.core n).health = .retired then some (s.fault .dead va (wrap n))
      else none
    | _ => none
  else none

/-- R199, R217 step 8: a write to a replicated page parks the slot with park 3 until the collapse is complete. -/
def State.collapseCheck (s : State) (l : Loc) : Option State :=
  if l.rp then some (s.park 3 (.collapse (l.key / 2 ^ 16))) else none

/-- Whether a location can be reached now: the core that holds it is not stopped for repair (R300). -/
def State.reachable (s : State) (l : Loc) : Bool :=
  match l.place with
  | .lmem n => (s.core n).health ≠ .stopped
  | _ => true

/-- R192, R193: a translated address of a tenant of a die by a walk made at once, for the accesses named. -/
def State.resolveVa (s : State) (die : Nat) (tenant : BitVec 8) (va : Word) (priv rd wr : Bool) : Resolved :=
  let t := s.tenantDie die tenant.toNat
  match s.walk tenant t.ptab t.s2b t.s2l va rd wr false with
  | .absent => .absent
  | .bad => .fault .addr
  | .stage2 => .stage2
  | .data => .data
  | .entry e => s.through e va priv rd wr

/-- R191: an address formed by a slot of core c as its translation stands: the core's data TLB, the cluster's L2 TLB, the tables. -/
def State.translate (s : State) (c : Nat) (x : Slot) (va : Word) (rd wr : Bool) : Resolved :=
  match s.find c x va rd wr with
  | .walk =>
    (match (if isCompute c then tlbFind (s.cluster (clusterOf c)).tlb2 x.tenant va else none) with
     | some e => if s2Denies e rd wr false then s.resolveVa (dieOf c) x.tenant va x.priv rd wr else s.through e va x.priv rd wr
     | none => s.resolveVa (dieOf c) x.tenant va x.priv rd wr)
  | r => r

/-! ## Filling a TLB (R191) -/

/-- A TLB of `cap` entries takes an entry; a full one drops an entry, which one is not promised. -/
def tlbInsert (cap n : Nat) (l : List TlbEnt) (e : TlbEnt) : List TlbEnt :=
  if l.length < cap then e :: l else e :: l.eraseIdx (n % cap)

/-- The core's instruction or data TLB and the cluster's L2 TLB take an entry. -/
def State.tlbFill (s : State) (c : Nat) (fetch : Bool) (e : TlbEnt) : State :=
  let n := Config.freeNat s.free
  let t := s.nextFree.modCore c (fun x =>
    if fetch then { x with itlb := tlbInsert 32 n x.itlb e } else { x with dtlb := tlbInsert 64 n x.dtlb e })
  if isCompute c then t.modCluster (clusterOf c) (fun x => { x with tlb2 := tlbInsert 2048 n x.tlb2 e }) else t

/-- Drops from every TLB of the package the entries that `covers` names. -/
def State.dropTlb (s : State) (covers : TlbEnt → Bool) : State :=
  let keep (l : List TlbEnt) : List TlbEnt := l.filter (fun e => !covers e)
  { s with
    cores := Tab.mapAll Core.reset s.cores (fun _ x => { x with itlb := keep x.itlb, dtlb := keep x.dtlb })
    clusters := Tab.mapAll Cluster.reset s.clusters (fun _ x => { x with tlb2 := keep x.tlb2 }) }

/-! ## Mappings that the firmware makes (R197, R313) -/

/-- R299: bytes that an agent other than a slot writes, byte i to the key that `key` gives: reservations are lost, the words carry the cipher key
`ck`. A word that the bytes cover is written whole, which ends an error in it; of another one the bytes are written. -/
def State.writeRun (s : State) (ck : Nat) (key : Nat → Nat) (l : List Byte) : State :=
  (List.range l.length).foldl (fun t i =>
    let o := key i % 8
    if o ≤ i ∧ i - o + 8 ≤ l.length then (if o = 0 then t.agentWrite none ck (key i) 8 (wrap (leAt l i 8)) else t)
    else t.agentWrite none ck (key i) 1 ((l.getD i 0).zeroExtend 64)) s

/-- A write of a list of bytes to the keys from `key` upward. -/
def State.agentWriteBytes (s : State) (ck key : Nat) (l : List Byte) : State := s.writeRun ck (fun i => key + i) l

/-- A tenant's guest memory ends here on every die that holds tables of the tenant: the limit of stage 2 (R194), or the HBM. -/
def State.guestRoom (s : State) (x : BitVec 8) : Nat :=
  (List.range 8).foldl (fun n d =>
    let r := s.tenantDie d x.toNat
    if r.ptab ≠ 0 ∧ bit r.ptab 0 then Nat.min n (r.s2l.toNat * 2 ^ 21) else n) hbmBytes

/-- Where the firmware lays `bytes` bytes in a tenant's guest memory, as near as it fits to the place that was chosen: whole pages of 64
KiB, or of `align`. -/
def State.guestSpot (s : State) (x : BitVec 8) (at_ bytes align : Nat) : Nat :=
  at_ % Nat.max align (s.guestRoom x - (bytes + align)) / align * align

/-- The host address of a tenant's guest address, by the first die whose tables lead to one. -/
def State.tenantGuest (s : State) (x : BitVec 8) (gpa : Nat) : Option Nat :=
  (List.range 8).findSome? (fun d =>
    let r := s.tenantDie d x.toNat
    if r.ptab = 0 then none else (s.frameOf r.ptab r.s2b r.s2l gpa).map (·.pa))

/-- R194, R197: stage 2 of a die is made to map a tenant's guest frame with the permissions of the mask `need` at least (8 x, 4 w, 2 r). A frame that no
die's stage 2 maps yet gets one of the firmware's choice (DESIGN CHOICE, log entry 38). -/
def State.giveFrame (s : State) (x : BitVec 8) (r : TenantDie) (gpa need : Nat) : State :=
  let at_ := r.s2b.toNat + 8 * (gpa / 2 ^ 21)
  if bit r.ptab 0 = false ∨ r.s2l.toNat ≤ gpa / 2 ^ 21 then s
  else if (s.frameOf r.ptab r.s2b r.s2l gpa).isSome then
    (if bits (s.entryAt at_) 0 4 &&& need = need then s else s.agentWrite none 0 at_ 8 (s.entryAt at_ ||| wrap need))
  else
    let host := ((s.tenantGuest x gpa).map (· / 2 ^ 21)).getD (Config.hostFrame (gpa / 2 ^ 21) % (hbmBytes / 2 ^ 21))
    s.agentWrite none 0 at_ 8 (wrap (host * 2 ^ 21 + need + 1))

/-- R193: a table entry on which a walk goes on or ends: a sound leaf, or a pointer to a table in memory. -/
def State.soundEntry (s : State) (r : TenantDie) (pa : Nat) : Nat × Nat × Bool × Bool × Nat → Bool
  | (lo, _, leafOk, ptrOk, next) =>
    let e := s.entryAt pa
    bit e 0 && !s.badWord pa && !malformed e leafOk ptrOk (2 ^ lo) next &&
      (bit e 1 || (!s.stage2Bad r.ptab r.s2b r.s2l (bits e 8 44 * 256) &&
        (s.stage2 r.ptab r.s2b r.s2l (bits e 8 44 * 256)).all (fun g => s.populated g.pa next)))

/-- The words of a new table of a level: those of a leaf that it takes the place of, cut into the level's pages, or zero. -/
def tableWord (leaf : Word) (lo i : Nat) : Word := if leaf = 0 then 0 else leaf + wrap (i * 2 ^ lo)

/-- R192, R194: a leaf for the 64 KiB page of `va` is written below a table. Each level that leads to no table gets a new one from the firmware's
free memory, and a larger leaf that stands there comes apart into it; the tables get their frames of stage 2. -/
def State.mapWalk (s : State) (x : BitVec 8) (r : TenantDie) (va : Nat) (leaf : Word) :
    List (Nat × Nat × Bool × Bool × Nat) → Nat → State
  | [], _ => s
  | l :: rest, tab =>
    let s := s.giveFrame x r tab 2
    match s.frameOf r.ptab r.s2b r.s2l tab with
    | none => s
    | some f =>
      let pa := f.pa + 8 * (va / 2 ^ l.1 % l.2.1)
      let e := s.entryAt pa
      let sound := s.soundEntry r pa l
      match rest with
      | [] => s.agentWrite none 0 pa 8 leaf
      | m :: _ =>
        if sound && bit e 1 = false then s.mapWalk x r va leaf rest (bits e 8 44 * 256)
        else
          let new := Config.tablePage s.free % (s.guestRoom x / 4096) * 4096
          let t := s.nextFree.giveFrame x r new 2
          let at_ := ((t.frameOf r.ptab r.s2b r.s2l new).map (·.pa)).getD new
          let t := (List.range m.2.1).foldl (fun u i => u.agentWrite none 0 (at_ + 8 * i) 8 (tableWord (if sound then e else 0) m.1 i)) t
          (t.agentWrite none 0 pa 8 (wrap (new + 1))).mapWalk x r va leaf rest new

/-- The place of the leaf of a 64 KiB page below a table, where one stands. -/
def State.leafSpot (s : State) (r : TenantDie) (va : Nat) : List (Nat × Nat × Bool × Bool × Nat) → Nat → Option Nat
  | [], _ => none
  | l :: rest, tab =>
    match s.frameOf r.ptab r.s2b r.s2l tab with
    | none => none
    | some f =>
      let pa := f.pa + 8 * (va / 2 ^ l.1 % l.2.1)
      let e := s.entryAt pa
      if s.soundEntry r pa l = false then none
      else if bit e 1 then (if l.1 = 16 then some pa else none)
      else s.leafSpot r va rest (bits e 8 44 * 256)

/-- A change to the tables of a tenant on every die that has some, once for each 64 KiB page of a range of addresses; no TLB keeps what it
held of the range (R341, Table 22.5). -/
def State.eachPage (s : State) (x : BitVec 8) (va bytes : Nat) (f : State → TenantDie → Nat → State) : State :=
  ((List.range (ceilDiv bytes (2 ^ 16))).foldl (fun t i =>
    (List.range 8).foldl (fun u d =>
      let r := u.tenantDie d x.toNat
      if r.ptab = 0 then u else f u r (i * 2 ^ 16)) t) s).dropTlb (fun e => e.tenant = x && overlap e.va e.size va bytes)

/-- `bytes` bytes from guest address `gpa` upward are mapped at `va` in a tenant's tables on every die, in pages of type normal with the
given permission bits (Table 10.4), which stage 2 allows as well. -/
def State.mapRange (s : State) (x : BitVec 8) (va gpa bytes perm : Nat) : State :=
  s.eachPage x va bytes (fun u r o =>
    (u.giveFrame x r (gpa + o) (bits (wrap perm) 1 4 / 2 * 2)).mapWalk x r (va + o) (wrap (gpa + o + perm + 3)) levels (bits r.ptab 12 40 * 4096))

/-- R322: the pages of a range that were mapped so are mapped no longer. -/
def State.unmapRange (s : State) (x : BitVec 8) (va bytes : Nat) : State :=
  s.eachPage x va bytes (fun u r o =>
    match u.leafSpot r (va + o) levels (bits r.ptab 12 40 * 4096) with
    | none => u
    | some pa => u.agentWrite none 0 pa 8 0)

/-! ## Page faults (R196, R197) -/

/-- The entry point n of a capsule as an address, with its kernel. -/
def Capsule.entry (x : Capsule) (n : Nat) : Option (Word × Nat) :=
  (x.body.entries[n]?).map (fun e => (x.body.base + wrap e.off, e.kernel))

/-- The lowest number below n that a list does not hold. -/
def lowestFree (n : Nat) (used : List Nat) : Option Nat := (List.range n).find? (fun i => !used.contains i)

/-- The 32 bytes of a fault record (Table 10.6). -/
def faultRecord (va epc : Word) (token k kind core : Nat) (tenant : BitVec 8) : List Byte :=
  leBytes 8 va.toNat ++ leBytes 8 epc.toNat ++ leBytes 2 token ++ leBytes 2 (k + 256 * kind) ++ leBytes 2 core ++ [tenant] ++ leBytes 9 0

/-- R196: an absent page: an upcall where the capsule arms one and a fault record is free, else F_PAGE. The record is written for the
context, under its cipher key (R305). The token is a number that the package counts (DESIGN CHOICE, log entry 76). -/
def State.pageFault (s : State) (c k : Nat) (va : Word) (acc : Acc) : State :=
  let x := s.slot c k
  let stop := s.takeFault c k .page va (wrap acc.code)
  match x.kern with
  | none => stop
  | some kr =>
    match s.capsule? kr.handle, s.pkg.areas.find? (fun a => a.ctx = x.ctx && a.handle = kr.handle) with
    | some cap, some area =>
      match cap.upcall.bind cap.entry, lowestFree area.n (area.used.map (·.idx)) with
      | some (pc, kernel), some i =>
        if x.upcall then stop
        else
          let token := s.pkg.tokens % 2 ^ 16
          let t := s.agentWriteBytes (s.cipherKey c) (area.pa + 32 * i) (faultRecord va x.pc token k acc.code c x.tenant)
          let t := t.modPkg (fun p =>
            { p with tokens := p.tokens + 1
                     areas := p.areas.map (fun a =>
                       if a.ctx = x.ctx && a.handle = kr.handle then { a with used := ⟨i, token, c, k⟩ :: a.used } else a) })
          let t := t.modCore c (fun y =>
            { y with links := y.links ++ [{ src := .upcall, link := 4, at_ := s.now, pc := pc, kern := { kr with kernel := kernel },
                                            tenant := x.tenant, ctx := x.ctx,
                                            regs := [(1, area.va + wrap (32 * i), true), (2, wrap token, true)], bgen := false,
                                            task := ⟨none, none⟩, record := none, cause := some (c, k), miss := 0 }] })
          t.modSlot c k (fun y => { (if y.park = 6 then y else y.setPark 3) with st := .parked, pend := .page token, epc := y.pc })
      | _, _ => stop
    | _, _ => stop

/-- R197: the fault records of a slot come out of use. -/
def State.freeFaultRecords (s : State) (c k : Nat) : State :=
  s.modPkg (fun p => { p with areas := p.areas.map (fun a =>
    { a with used := a.used.filter (fun u => !(u.core = c && u.slot = k)) }) })

/-! ## Events of translation -/

/-- The access kind that a fetch fault records in `k.fault` (R291): 2 for a fetch, nothing for another access. -/
def fetchKind (acc : Acc) : Word := if acc = .fetch then 2 else 0

/-- R194: the slot waits for the hypervisor, and its tile's service core is notified. -/
def State.stage2Wait (s : State) (c k : Nat) (va : Word) (acc : Acc) : State :=
  (s.modSlot c k (fun y => { (if y.park = 6 then y else y.setPark 3) with st := .parked, pend := .stage2 va acc })).modPkg (fun p =>
    { p with got := Tab.set [] p.got (tileOf c) (Tab.get [] p.got (tileOf c) ++ [.stage2 (tileOf c) c k va]) })

/-- A walk or the hypervisor ends a slot's wait without a translation: F_ADDR, and for the read of a job descriptor a refusal with
DESC_FAULT (R273, R277). -/
def State.badAddress (s : State) (c k : Nat) (va : Word) (acc : Acc) : State :=
  match acc with
  | .desc d => (s.modSlot c k (fun x => { x with fault := 1 })).answer c k d 0
  | _ => s.takeFault c k .addr va (fetchKind acc)

/-- R193: the walk of a waiting slot ends. An absent page of an accumulator image is waited for where the slot stands (R255, R280). An entry of the cluster's L2 TLB ends it without a walk (R191). -/
def execTranslationWalkComplete (core slot : Nat) (s : State) : Out :=
  let x := s.slot core slot
  match x.st, x.pend with
  | .parked, .walk va acc rd wr ptab s2b s2l =>
    let fetch := decide (acc = .fetch)
    let res :=
      match (if isCompute core then tlbFind (s.cluster (clusterOf core)).tlb2 x.tenant va else none) with
      | some e => if s2Denies e rd wr fetch then s.walk x.tenant ptab s2b s2l va rd wr fetch else .entry e
      | none => s.walk x.tenant ptab s2b s2l va rd wr fetch
    match res with
    | .entry e => .next ((s.tlbFill core fetch e).modSlot core slot Slot.wake)
    | .absent =>
      (match acc with
       | .image _ => .next (s.modSlot core slot (fun y => { y with pend := .retry }))
       | _ => .next (s.pageFault core slot va acc))
    | .bad => .next (s.badAddress core slot va acc)
    | .stage2 => .next (s.stage2Wait core slot va acc)
    | .data => .next (s.takeFault core slot .data (wrap (va.toNat / 8 * 8)) 0)
  | _, _ => .next s

/-- R196: a completion notice whose token matches a parked slot ends its park, sets its latch and lets the instruction issue
again; any other is discarded. -/
def execPageFaultCompletionNotice (core slot token : Nat) (s : State) : Out :=
  match (s.slot core slot).st, (s.slot core slot).pend with
  | .parked, .page t =>
    if t = token then .next (((s.modSlot core slot Slot.wake).freeFaultRecords core slot).setLatch core slot) else .next s
  | _, _ => .next s

/-- R194: the hypervisor ends a stage-2 wait: the access is retried, or F_ADDR is delivered. -/
def execStage2Resolution (core slot : Nat) (ok : Bool) (s : State) : Out :=
  match (s.slot core slot).st, (s.slot core slot).pend with
  | .parked, .stage2 va acc =>
    .next (if ok then s.modSlot core slot Slot.wake else s.badAddress core slot va acc)
  | _, _ => .next s

/-! ## Replicated pages (R199) -/

/-- The leaf entries below a table that map replicated pages: where the entry lies, and the ranges of host memory that its page takes,
frame by frame where stage 2 is on (R194). `hpa` translates guest addresses. -/
def State.rpLeaves (s : State) (hpa : Nat → Option Nat) (two : Bool) :
    List (Nat × Nat × Bool × Bool × Nat) → Nat → List (Nat × List (Nat × Nat))
  | [], _ => []
  | (lo, n, _, _, _) :: rest, tab =>
    match hpa tab with
    | none => []
    | some pa =>
      (List.range n).flatMap (fun i =>
        let e := s.entryAt (pa + 8 * i)
        if bit e 0 = false || s.badWord (pa + 8 * i) then []
        else if bit e 1 then
          let size := if two then Nat.min (2 ^ lo) (2 ^ 21) else 2 ^ lo
          if bit e 60 then
            [(pa + 8 * i, (List.range (2 ^ lo / size)).filterMap (fun j => (hpa (bits e 8 44 * 256 + j * size)).map (fun q => (q, size))))]
          else []
        else s.rpLeaves hpa two rest (bits e 8 44 * 256))

/-- Every mapping of a replicated page in the tables of every tenant of every die. -/
def State.rpMappings (s : State) : List (Nat × List (Nat × Nat)) :=
  (List.range 8).flatMap (fun d => (s.die d).ten.flatMap (fun p =>
    let r := p.2
    s.rpLeaves (fun g => (s.frameOf r.ptab r.s2b r.s2l g).map (·.pa)) (bit r.ptab 0) levels (bits r.ptab 12 40 * 4096)))

/-- Whether a range of memory meets one of a list. -/
def meets (l : List (Nat × Nat)) (a n : Nat) : Bool := l.any (fun q => overlap q.1 q.2 a n)

/-- The memory of the replicated pages that hold a 64 KiB page (R199). -/
def State.pageRanges (s : State) (page : Nat) : List (Nat × Nat) :=
  (page * 2 ^ 16, 2 ^ 16) :: (s.rpMappings.filter (fun m => meets m.2 (page * 2 ^ 16) (2 ^ 16))).flatMap (·.2)

/-- R227, R233: a slot loses its reservation if the block meets one of a list of ranges; a wait on it ends. -/
def Slot.loseIn (x : Slot) (l : List (Nat × Nat)) : Slot :=
  match x.resv with
  | none => x
  | some r =>
    if meets l (64 * r.key) 64 then
      match x.st, x.pend with
      | .parked, .wrs _ => { x.wakeNext with resv := none }
      | _, _ => { x with resv := none }
    else x

/-- R199: the collapse of the pages that hold a 64 KiB page: rp is cleared in every mapping, TLB entries are invalidated, reservations on
them are lost (R227), and waiting writers and jobs go on. -/
def State.collapse (s : State) (page : Nat) : State :=
  let r := s.pageRanges page
  let t := (s.rpMappings.filter (fun m => m.2.any (fun q => meets r q.1 q.2))).foldl (fun u m =>
    u.agentWrite none 0 m.1 8 (setBits (u.entryAt m.1) 60 1 0)) s
  let clr (l : Loc) : Loc := if meets r l.key 1 then { l with rp := false } else l
  let goOn (u : Unit_) : Unit_ :=
    { u with jobs := u.jobs.map (fun j => { j with pageWait := false, line1 := clr j.line1, line2 := clr j.line2 }) }
  let t := t.dropTlb (fun e => meets r e.pa e.size)
  let t := { t with clusters := Tab.mapAll Cluster.reset t.clusters (fun _ x => { x with mx := goOn x.mx, cp := goOn x.cp }) }
  t.mapSlots (fun _ _ x =>
    let y := x.loseIn r
    match y.st, y.pend with
    | .parked, .collapse q => if meets r (q * 2 ^ 16) 1 then y.wake else y
    | _, _ => y)

/-- R199: no write is performed to a page of which a replica exists: those of some 64 KiB pages that are replicated are collapsed first. -/
def State.collapsePages (s : State) (l : List Nat) : State :=
  l.foldl (fun t p => if t.rpMappings.any (fun m => meets m.2 (p * 2 ^ 16) (2 ^ 16)) then t.collapse p else t) s

/-- R199: the collapse that a write to a replicated page waits for. Every writer of a page waits for the same one. -/
def execReplicaCollapseComplete (page : Nat) (s : State) : Out :=
  let r := s.pageRanges page
  let waiting := s.slots.any (fun p => match p.2.st, p.2.pend with
    | .parked, .collapse q => meets r (q * 2 ^ 16) 1
    | _, _ => false)
  let jobs := s.clusters.any (fun p => (p.2.mx.jobs ++ p.2.cp.jobs).any (·.pageWait))
  .next (if waiting || jobs then s.collapse page else s)

/-! ## Fetching a word (R29, R82, R185) -/

/-- What a fetch at an address ends with: a word and its place, a fault, or a walk that must come first. -/
inductive Fetched where
  | word (w : BitVec 32)
  | fault (code : FaultCode) (fault : Word)
  | walk
  deriving DecidableEq, Repr

/-- R82, R193: a word is fetched from an executable page of a translated address; a capsule body is not enciphered, and of a word
that is, the fetch gets ciphertext (R305). F_ADDR, F_PERM and F_PAGE of a fetch record kind 2 (R291). -/
def State.fetchAt (s : State) (c k : Nat) (pc : Word) : Fetched :=
  let x := s.slot c k
  match region c pc with
  | .translated =>
    match tlbFind (s.core c).itlb x.tenant pc with
    | none => .walk
    | some e =>
      match permFault e x.priv false false true with
      | some f => .fault f (wrap Acc.fetch.code)
      | none =>
        if e.s2x = false then .walk
        else
          let pa := e.pa + (pc.toNat % 2 ^ 57 - e.va)
          match s.placeOf pa with
          | none => .fault .addr (wrap Acc.fetch.code)
          | some _ =>
            if s.badWord pa then .fault .data (wrap 0)
            else .word (BitVec.ofNat 32 (s.memLoad 0 pa 4).toNat)
  | _ => .fault .addr (wrap Acc.fetch.code)

end Sys2Proof.Machine
end

