-- ==== Sys2Proof/Machine/Stamped.lean ====
section
/-!
DEFINITION. Stamped time (R356 to R369): clock readings, the versions of a stamped line, the stamped store and the as-of load with
the events that end them. The stamped barrier stands in Barrier.lean.
-/

namespace Sys2Proof.Machine

open Sys2Proof

/-! ## Clocks (R356, R357) -/

/-- E of a die. -/
def State.earliest (s : State) (d : Nat) : Nat := (s.die d).clkE
/-- L of a die. -/
def State.latest (s : State) (d : Nat) : Nat := (s.die d).clkL
/-- R357: a die is widened while its width exceeds W_max. -/
def State.widened (s : State) (d : Nat) : Bool := decide ((s.die d).wmax < s.latest d - s.earliest d)
/-- R356: true time in ns from the time origin. -/
def State.trueTime (s : State) : Nat := s.now * 4 / 5 + s.pkg.podOff
/-- R356: the width within which a die's interval is held while its time paths are healthy, in ns. -/
def State.clockBound (s : State) : Nat := if s.pkg.podNo.isSome then 250 else 8
/-- The die whose clock a stamped location's home reads: the one where its granule is homed now, so that a request on its way to an old home
acts where it is forwarded to (R352, R364). A home in package p of the pod stands in the table of dies as 8 + p, with a clock and settings of
its own that no rule lets this package know (log entry 39). -/
def State.homeClockDie (s : State) (l : Loc) : Nat :=
  match l.place with
  | .pkg p => 8 + p
  | _ => s.homeDie l.key

/-- The E of a stamped location's home (R361). Where its granule has moved, what an earlier home has let be seen stays seen, although the new
home's E may lie below (R352): that E counts until the new home's passes it (DEDUCED, log entry 81). -/
def State.homeE (s : State) (l : Loc) : Nat :=
  Nat.max (s.earliest (s.homeClockDie l)) (Tab.get 0 s.pkg.seenE (l.key / 2 ^ 21))

/-- R356, R367: the interval of a die at this cycle: it contains true time, its ends never fall, and its width is at most `bound`
while the die's time paths are healthy. -/
def Die.readClock (x : Die) (true_ bound below above : Nat) : Die :=
  let l := if x.holdover then Nat.max x.clkL (true_ + above) else Nat.max x.clkL (true_ + Nat.min above bound)
  let e := if x.holdover then Nat.max x.clkE (true_ - below) else Nat.max x.clkE (Nat.max (true_ - below) (l - bound))
  let e := Nat.min e (Nat.max x.clkE true_)
  { x with clkE := e, clkL := l, goodE := if l - e ≤ x.wmax then e else x.goodE }

/-- What the model holds of the home die of stamped lines in another package: its clock contains true time as every die's does, and whether it
runs in holdover, its W_max and its Dlate are free values (log entry 39). -/
def Die.foreign (x : Die) (p now : Nat) : Die :=
  { x with holdover := Config.foreignHoldover p now, wmax := Config.foreignWmax p now, dlate := Config.foreignDlate p now }

/-- R356: every die's clock is read. -/
def State.readClocks (s : State) : State :=
  let read (d : Nat) (x : Die) : Die := x.readClock s.trueTime s.clockBound (Config.clockBelow d s.now) (Config.clockAbove d s.now)
  let t := (List.range 8).foldl (fun t d => t.modDie d (read d)) s
  (s.pkg.podMembers.filter (fun p => s.pkg.podNo != some p)).foldl (fun u p =>
    u.modDie (8 + p) (fun x => read (8 + p) (x.foreign p s.now))) t

/-- R359: E and L at the issue cycle, latency 4 clk; no register is read. -/
def execTnow (d a : Reg) (s : State) : Out :=
  s.issue ⟨encode (.tnow d a), .user, false, [], [], [], if a = 14 then some a else some d⟩ (fun t =>
    let u := (t.put d (wrap (t.earliest (dieOf t.curCore))) (t.now + 4)).put a (wrap (t.latest (dieOf t.curCore))) (t.now + 4)
    let own (r : Reg) : BitVec 16 := if t.pushes (some r) then 0 else oneHot r.toNat
    (u.modMe (fun x => { x with wbRegs := own d ||| own a })).advance)

/-! ## Versions (R361, R362) -/

/-- The eight words of a line as memory holds them, with their cipher keys. -/
def State.lineWords (s : State) (line : Nat) : List (Word × Nat) :=
  (List.range 8).map (fun i => (wrap (s.rawRead (64 * line + 8 * i) 8), s.tagOf (64 * line + 8 * i)))

/-- The versions of a line, oldest first: a line never written by a stamped store holds one, of stamp 0. -/
def State.versions (s : State) (line : Nat) : List Version :=
  match Tab.get [] s.pkg.vers line with
  | [] => [⟨0, s.lineWords line⟩]
  | l => l

/-- The newest version (R361). -/
def newestOf (l : List Version) : Version := (l.getLast?).getD ⟨0, []⟩
/-- The word of a version at a memory key. -/
def Version.word (v : Version) (key : Nat) : Word := (v.words.getD (key % 64 / 8) (0, 0)).1
/-- That word as a reader with cipher key `ck` gets it (R305). -/
def Version.wordAs (v : Version) (ck key : Nat) : Word :=
  let w := v.words.getD (key % 64 / 8) (0, 0)
  if w.2 = ck then w.1 else Config.cipherMix w.2 ck (key / 8 * 8) w.1
/-- The newest visible version where the home's E is e; the oldest one if none is visible. -/
def visibleOf (l : List Version) (e : Nat) : Version :=
  match (l.filter (fun v => decide (v.stamp < e))).getLast? with
  | some v => v
  | none => (l.head?).getD ⟨0, []⟩

/-- Whether the cycle's reading of the home lets a version be appended: fewer than four, or the oldest is not the newest visible
one (R362). -/
def roomFor (l : List Version) (e : Nat) : Bool :=
  match l with
  | _ :: v :: _ :: _ :: _ => decide (v.stamp < e)
  | _ => true

/-- R362: a version joins the list; a fifth drops the oldest. -/
def appendVersion (l : List Version) (v : Version) : List Version :=
  let m := l ++ [v]
  if 4 < m.length then m.tail else m

/-- A plain load of stamped memory (R361), under a reader's cipher key: the newest version visible at its home. -/
def State.stampedLoad (s : State) (ck : Nat) (l : Loc) (size : Nat) : Word :=
  let v := (visibleOf (s.versions (l.key / 64)) (s.homeE l)).wordAs ck l.key
  wrap (v.toNat / 2 ^ (8 * (l.key % 8)) % 2 ^ (8 * size))

/-- The state of the pending operation of a slot, if it is a stamped store. -/
def State.setStage (s : State) (c k : Nat) (st : StampStage) : State :=
  s.modSlot c k (fun x =>
    match x.pend with
    | .stamped cas d ea loc t v e _ => { x with pend := .stamped cas d ea loc t v e st }
    | _ => x)

/-- Whether a slot's stamped store is held at its home behind the version limit of a line, and since which arrival. -/
def heldOn (line : Nat) (x : Slot) : Option Nat :=
  match x.st, x.pend with
  | .parked, .stamped _ _ _ loc _ _ _ (.held n) => if loc.key / 64 = line then some n else none
  | _, _ => none

/-- Whether some stamped store is held on a line before arrival n. -/
def State.heldBefore (s : State) (line n : Nat) : Bool :=
  s.slots.any (fun p => match heldOn line p.2 with | some m => decide (m < n) | none => false)

/-- R363 at the home: a stamped store takes its turn: one whose home is in a package that has left the pod is answered with F_ADDR (R355); a `scas` that reads a word with an uncorrectable error raises F_DATA, as an atomic does
(R298); one whose compare fails waits for the newest version to be visible; any other is appended, or held while there is no room. `seq` is
its arrival. -/
def State.stampTurn (s : State) (c k seq : Nat) : State :=
  match (s.slot c k).pend with
  | .stamped cas _ ea loc t v e _ =>
    let line := loc.key / 64
    let l := s.versions line
    let n := newestOf l
    let old := n.wordAs (s.cipherKey c) loc.key
    match s.lostPlace loc ea with
    | some (f, fa, fv) => s.takeFault c k f fa fv
    | none =>
    if cas && s.badWord loc.key then s.takeFault c k .data (wrap (ea.toNat / 8 * 8))
    else if cas && old ≠ e then s.setStage c k (.commit n.stamp old)
    else if roomFor l (s.homeE loc) then
      let st := Nat.max t (n.stamp + 1)
      let img : Version := ⟨st, n.words.set (loc.key % 64 / 8) (v, s.cipherKey c)⟩
      (s.modPkg (fun p => { p with vers := Tab.set [] p.vers line (appendVersion l img) })).setStage c k
        (.commit st (if cas then old else wrap st))
    else s.setStage c k (.held seq)
  | _ => s

/-! ## `sts`, `scas` (R363, R364) -/

/-- R215: a stamped store is a release, and an as-of load an acquire, at the home scope of its location, which is system for a page of
another package (R360); a demotion is counted. -/
def State.demoteHome (s : State) (l : Loc) : State :=
  match l.place with
  | .pkg _ => s.demote true 4
  | _ => s

/-- The steps of R363 at the issuer. -/
def stampedStore (i : Instr) (cas : Bool) (srcs : List Reg) (d a : Reg) (v e : State → Word) (s : State) : Out :=
  s.issue ⟨encode i, .user, false, [], [], srcs, some d⟩ (fun t =>
    if !t.quiet t.curCore t.curSlot then t.parkRetry 4
    else
      match t.locate (t.src a) 8 (if cas then .atomic else .store) false true with
      | .error u => u
      | .ok l =>
        if l.ty ≠ .stamped then t.fault .memtype (t.src a) (wrap l.ty.code)
        else if t.widened (dieOf t.curCore) then t.fault .widen
        else (t.demoteHome l).parkOn (t.pops srcs) 10 (.stamped cas d (t.src a) l (t.latest (dieOf t.curCore)) (v t) (e t) .sent))

/-- R363. -/
def execSts (d a b : Reg) (s : State) : Out :=
  stampedStore (.sts d a b) false [a, b] d a (fun t => t.src b) (fun _ => 0) s
/-- R363. -/
def execScas (d a b c : Reg) (s : State) : Out :=
  stampedStore (.scas d a b c) true [a, b, c] d a (fun t => t.src b) (fun t => t.src c) s

/-- R363, R364: a stamped store reaches its home: widened and late stores are answered, others take their turn behind those that
wait. Late is also one whose stamp is not above that of an `ldas` of the line that has been answered, which a home with a lower E or a
larger Dlate would admit (R366: DEDUCED, log entry 81). -/
def execStampedStoreArrival (core slot : Nat) (s : State) : Out :=
  match (s.slot core slot).st, (s.slot core slot).pend with
  | .parked, .stamped _ _ ea loc t _ _ .sent =>
    let d := s.homeClockDie loc
    match s.lostPlace loc ea with
    | some (f, fa, fv) => .next (s.takeFault core slot f fa fv)
    | none =>
    if s.widened d then .next (s.setStage core slot (.answered 26 0))
    else if t + (s.die d).dlate < s.earliest d ∨ t < Tab.get 0 s.pkg.asOf (loc.key / 64) then
      .next (s.setStage core slot (.answered 24 0))
    else
      let n := s.pkg.stampSeq
      let u := s.modPkg (fun p => { p with stampSeq := n + 1 })
      if s.heldBefore (loc.key / 64) n then .next (u.setStage core slot (.held n)) else .next (u.stampTurn core slot n)
  | _, _ => .next s

/-- R355, R362: the line on which a slot's stamped store is held although its turn has room, or its home is gone. The start of each cycle ends such
a wait. -/
def State.appendDue (s : State) (x : Slot) : Option Nat :=
  match x.st, x.pend with
  | .parked, .stamped _ _ ea loc _ _ _ (.held _) =>
    if (s.lostPlace loc ea).isSome || roomFor (s.versions (loc.key / 64)) (s.homeE loc) then some (loc.key / 64) else none
  | _, _ => none

/-- R362: the longest-waiting store of a line takes its turn once there is room for it. -/
def execVersionAppend (line : Nat) (s : State) : Out :=
  match s.slots.find? (fun p => match heldOn line p.2 with | some n => !s.heldBefore line n | none => false) with
  | some p =>
    match heldOn line p.2 with
    | some n => .next (s.stampTurn (p.1 / 16) (p.1 % 16) n)
    | none => .next s
  | none => .next s

/-- R299, R361, R363: the commit wait ends once the home's E passes the stamp; the write is performed in its location's order, and a word that
is written has no error any more. -/
def execCommitWaitEnd (core slot : Nat) (s : State) : Out :=
  match (s.slot core slot).st, (s.slot core slot).pend with
  | .parked, .stamped cas _ ea loc _ _ e (.commit t v) =>
    match s.lostPlace loc ea with
    | some (f, fa, fv) => .next (s.takeFault core slot f fa fv)
    | none =>
    if t < s.homeE loc then
      let line := loc.key / 64
      let w := visibleOf (s.versions line) (s.homeE loc)
      let u := (List.range 8).foldl (fun a i =>
        let p := w.words.getD i (0, 0)
        (a.rawWrite (64 * line + 8 * i) 8 p.1.toNat).setTag (64 * line + 8 * i) p.2) s
      let u := if cas && v ≠ e then u else u.setBadWord loc.key false
      .next ((u.loseResv (some (core, slot)) loc.key).setStage core slot (.answered 0 v))
    else .next s
  | _, _ => .next s

/-- R363: the answer reaches the issuer: g[d] is filled, or the fault is raised at the instruction. -/
def execStampedAnswer (core slot : Nat) (s : State) : Out :=
  match (s.slot core slot).st, (s.slot core slot).pend with
  | .parked, .stamped _ d ea _ _ _ _ (.answered code v) =>
    if code = 0 then .next (s.answer core slot d v)
    else if code = 24 then .next (s.takeFault core slot .latestamp ea)
    else .next (s.takeFault core slot .widen)
  | _, _ => .next s

/-! ## `ldas` (R365, R366) -/

/-- R365. -/
def execLdas (d a b : Reg) (s : State) : Out :=
  s.issue ⟨encode (.ldas d a b), .user, false, [], [], [a, b], some d⟩ (fun t =>
    match t.locate (t.src a) 8 .load true false with
    | .error u => u
    | .ok l =>
      if l.ty ≠ .stamped then t.fault .memtype (t.src a) (wrap l.ty.code)
      else if t.widened (dieOf t.curCore) then t.fault .widen
      else (t.demoteHome l).parkOn (t.pops [a, b]) 10 (.ldas d (t.src a) l (t.src b).toNat false))

/-- R365: the as-of load reaches its home. -/
def execLdasArrival (core slot : Nat) (s : State) : Out :=
  match (s.slot core slot).st, (s.slot core slot).pend with
  | .parked, .ldas d ea loc t false =>
    match s.lostPlace loc ea with
    | some (f, fa, fv) => .next (s.takeFault core slot f fa fv)
    | none =>
    if s.widened (s.homeClockDie loc) then .next (s.takeFault core slot .widen)
    else .next (s.modSlot core slot (fun x => { x with pend := .ldas d ea loc t true }))
  | _, _ => .next s

/-- Whether a store held on a line has an issue stamp at or below t (R362). -/
def State.heldUpTo (s : State) (line t : Nat) : Bool :=
  s.slots.any (fun p =>
    match p.2.st, p.2.pend with
    | .parked, .stamped _ _ _ loc n _ _ (.held _) => decide (loc.key / 64 = line) && decide (n ≤ t)
    | _, _ => false)

/-- R365: the answer of an as-of load, once the home's E exceeds t + Dlate and no waiting version of the line could stand at or
below t. -/
def execAsOfAnswer (core slot : Nat) (s : State) : Out :=
  match (s.slot core slot).st, (s.slot core slot).pend with
  | .parked, .ldas d ea loc t true =>
    let h := s.homeClockDie loc
    let line := loc.key / 64
    match s.lostPlace loc ea with
    | some (f, fa, fv) => .next (s.takeFault core slot f fa fv)
    | none =>
    if t + (s.die h).dlate < s.earliest h && !s.heldUpTo line t then
      let l := s.versions line
      match (l.filter (fun v => decide (v.stamp ≤ t))).getLast? with
      | none => .next (s.takeFault core slot .oldstamp ea)
      | some v =>
        if s.badWord loc.key then .next (s.takeFault core slot .data (wrap (ea.toNat / 8 * 8)) 0)
        else .next ((s.modPkg (fun p => { p with asOf := Tab.set 0 p.asOf line (Nat.max (Tab.get 0 p.asOf line) (t + 1)) })).answer core slot d
          (v.wordAs (s.cipherKey core) loc.key))
    else .next s
  | _, _ => .next s

end Sys2Proof.Machine
end

