-- ==== Sys2Proof/Machine/Operands.lean ====
section
/-!
DEFINITION. The operand forms of the memory instructions: effective addresses (R33), access sizes, acceptance tables (Tables 11.5,
12.2), and the guard fault that `bar`, `barm` and `quit` report (R198).
-/

namespace Sys2Proof.Machine

open Sys2Proof

/-- R31: the size in bytes of a size code. -/
def sizeOf (sz : BitVec 2) : Nat := 2 ^ sz.toNat
/-- R42: the size of an atomic. -/
def atomSize (sz : BitVec 1) : Nat := if sz = 0 then 4 else 8
/-- R33: the effective address of format M. -/
def effAddr (base : Word) (off : BitVec 11) (size : Nat) : Word := base + off.signExtend 64 * wrap size

/-- Order codes (R31): acquire, release, acquire-release. -/
def isAcq (od : BitVec 2) : Bool := od = 1 || od = 3
/-- Whether an order is a release. -/
def isRel (od : BitVec 2) : Bool := od = 2 || od = 3

/-- R217 step 5 for loads and stores: device and stamped places are accepted by some instructions only. -/
def plainTy (t : PageTy) : Bool := t = .normal || t = .sync
/-- Table 12.2: where `ldx`, `ldc` and `stf` are accepted: own local memory, synchronising pages. -/
def fullEmptyOk (l : Loc) : Bool :=
  match l.place with
  | .lmem _ => !l.window
  | _ => l.ty = .sync

/-- Table 11.5: whether an atomic of scope `sc` can be performed at the location. -/
def scopeReaches (c : Nat) (l : Loc) (sc : Nat) : Bool :=
  match l.place with
  | .lmem n => n = c || decide (1 ≤ sc)
  | .home _ => decide (1 ≤ sc)
  | _ => decide (sc = 4)

/-- A store that has left a buffer covers a byte of a range. -/
def StoreEnt.covers (e : StoreEnt) (key size : Nat) : Bool :=
  match e.lanes with
  | [] => overlap e.loc.key e.size key size
  | ls => ls.any (fun l => overlap l.1 4 key size)

/-- No store of the slot that covers the range is still on its way: an access performed at its point follows the slot's own
earlier stores to the location (R202). -/
def State.ownStoresDone (s : State) (c k key size : Nat) : Bool :=
  !((s.slot c k).out.any (fun e => e.covers key size))

/-- The fault fields of F_GUARD (R198): first touched address in core-window form; offset, bank, count and core. -/
def guardFields (r : GuardRec) : Word × Word :=
  (wrap (lmemKey r.core r.off), wrap (r.off + 2 ^ 20 * (r.off / 8 % 16) + 2 ^ 32 * r.count + 2 ^ 48 * r.core))

/-- R198, R294: if the slot has a pending guard record, it stops with the imprecise F_GUARD, and the record is cleared. -/
def State.guardStop (s : State) : Option State :=
  match s.me.guardRec with
  | none => none
  | some r =>
    let f := guardFields r
    some ((s.takeFault s.curCore s.curSlot .guard f.1 f.2 true).modMe (fun x => { x with guardRec := none }))

/-- The virtual address of the 8-byte word that holds an address, as F_DATA names it (R298). -/
def wordAddr (va : Word) : Word := wrap (va.toNat / 8 * 8)

/-- The cipher key under which the slot whose turn it is accesses a location: none for device pages (R305). -/
def State.keyFor (s : State) (c : Nat) (l : Loc) : Nat := if l.ty = .device then 0 else s.cipherKey c

end Sys2Proof.Machine
end

