-- ==== Sys2Proof/Machine/Atomic.lean ====
section
/-!
DEFINITION. Atomics, reservations and barrier objects in memory (R207, R224 to R229, R234 to R236).
-/

namespace Sys2Proof.Machine

open Sys2Proof

/-! ## Values (R225) -/

/-- The smaller or larger of two w-bit patterns as signed integers. -/
def signedPick (w : Nat) (larger : Bool) (a b : Nat) : Nat :=
  let x := (sextBits w (wrap a)).toInt
  let y := (sextBits w (wrap b)).toInt
  if larger then (if x < y then b else a) else (if y < x then b else a)

/-- R225: the new value of the location, if one is written, from the old value, the operand and the expected value, all below
2^w. -/
def atomicNew (op : AtOp) (w old x e : Nat) : Option Nat :=
  match op with
  | .add => some ((old + x) % 2 ^ w)
  | .and => some (old &&& x)
  | .or => some (old ||| x)
  | .xor => some (old ^^^ x)
  | .min => some (signedPick w false old x)
  | .max => some (signedPick w true old x)
  | .minz => some (Nat.min old x)
  | .maxz => some (Nat.max old x)
  | .swap => some x
  | .cas => if old = e then some x else none
  | .ldres => none
  | .stcnd => some x

/-! ## Issue (R217, R224, R225) -/

/-- Whether an atomic is accepted on pages of this type (Table 12.2). -/
def atomicOk (l : Loc) : Bool := plainTy l.ty

/-- The steps of R225, R226 and R228 at the issuer; `ldres` ends the slot's old reservation (R227) when it is performed. -/
def atomicOp (i : Instr) (op : AtOp) (srcs : List Reg) (d a : Reg) (x e : State → Word) (sz : BitVec 1) (sc : BitVec 3)
    (od : BitVec 2) (s : State) : Out :=
  s.issue ⟨encode i, .user, false, [], [], srcs, some d⟩ (fun t =>
    let size := atomSize sz
    let ea := t.src a
    let acc : Acc := match op with | .ldres => .load | .stcnd => .store | _ => .atomic
    match t.locate ea size acc (op != .stcnd) (op != .ldres) with
    | .error u => u
    | .ok l =>
      if atomicOk l = false then t.fault .memtype ea (wrap l.ty.code)
      else if scopeReaches t.curCore l sc.toNat = false then t.fault .scope ea
      else
        match t.targetCheck ea l with
        | some u => u
        | none =>
          match (if op = .ldres then none else t.collapseCheck l) with
          | some u => u
          | none =>
            if t.me.buf.isEmpty = false || (isRel od && !t.quiet t.curCore t.curSlot) then t.waitIssued (od != 0) sc
            else
              ((t.demoteIssued (od != 0) sc).touch t.curCore t.curSlot l.key size).parkOn (t.pops srcs) 3
                (.atomic op d ea l size (zextBytes size (x t)) (zextBytes size (e t))))

/-- An operation with one operand. -/
def amoOp (i : Instr) (op : AtOp) (d a b : Reg) (sz : BitVec 1) (sc : BitVec 3) (od : BitVec 2) (s : State) : Out :=
  atomicOp i op [a, b] d a (fun t => t.src b) (fun _ => 0) sz sc od s

/-- R225. -/
def execAmoAdd (d a b : Reg) (sz : BitVec 1) (sc : BitVec 3) (od : BitVec 2) (s : State) : Out :=
  amoOp (.amoAdd d a b sz sc od) .add d a b sz sc od s
/-- R225. -/
def execAmoAnd (d a b : Reg) (sz : BitVec 1) (sc : BitVec 3) (od : BitVec 2) (s : State) : Out :=
  amoOp (.amoAnd d a b sz sc od) .and d a b sz sc od s
/-- R225. -/
def execAmoOr (d a b : Reg) (sz : BitVec 1) (sc : BitVec 3) (od : BitVec 2) (s : State) : Out :=
  amoOp (.amoOr d a b sz sc od) .or d a b sz sc od s
/-- R225. -/
def execAmoXor (d a b : Reg) (sz : BitVec 1) (sc : BitVec 3) (od : BitVec 2) (s : State) : Out :=
  amoOp (.amoXor d a b sz sc od) .xor d a b sz sc od s
/-- R225. -/
def execAmoMin (d a b : Reg) (sz : BitVec 1) (sc : BitVec 3) (od : BitVec 2) (s : State) : Out :=
  amoOp (.amoMin d a b sz sc od) .min d a b sz sc od s
/-- R225. -/
def execAmoMax (d a b : Reg) (sz : BitVec 1) (sc : BitVec 3) (od : BitVec 2) (s : State) : Out :=
  amoOp (.amoMax d a b sz sc od) .max d a b sz sc od s
/-- R225. -/
def execAmoMinz (d a b : Reg) (sz : BitVec 1) (sc : BitVec 3) (od : BitVec 2) (s : State) : Out :=
  amoOp (.amoMinz d a b sz sc od) .minz d a b sz sc od s
/-- R225. -/
def execAmoMaxz (d a b : Reg) (sz : BitVec 1) (sc : BitVec 3) (od : BitVec 2) (s : State) : Out :=
  amoOp (.amoMaxz d a b sz sc od) .maxz d a b sz sc od s
/-- R225. -/
def execAmoSwap (d a b : Reg) (sz : BitVec 1) (sc : BitVec 3) (od : BitVec 2) (s : State) : Out :=
  amoOp (.amoSwap d a b sz sc od) .swap d a b sz sc od s
/-- R225: the expected value is g[e]. -/
def execCas (d a b e : Reg) (sz : BitVec 1) (sc : BitVec 3) (od : BitVec 2) (s : State) : Out :=
  atomicOp (.cas d a b e sz sc od) .cas [a, b, e] d a (fun t => t.src b) (fun t => t.src e) sz sc od s
/-- R226. -/
def execLdres (d a : Reg) (sz : BitVec 1) (sc : BitVec 3) (od : BitVec 2) (s : State) : Out :=
  atomicOp (.ldres d a sz sc od) .ldres [a] d a (fun _ => 0) (fun _ => 0) sz sc od s
/-- R228. -/
def execStcnd (d a b : Reg) (sz : BitVec 1) (sc : BitVec 3) (od : BitVec 2) (s : State) : Out :=
  atomicOp (.stcnd d a b sz sc od) .stcnd [a, b] d a (fun t => t.src b) (fun _ => 0) sz sc od s

/-! ## Barrier objects (R234 to R236) -/

/-- The generation of a barrier object (R234). -/
def State.barmGen (s : State) (ck key : Nat) : BitVec 32 := BitVec.ofNat 32 ((s.memLoad ck key 8).toNat / 2 ^ 32)

/-- R236: a slot made READY at a `barm` whose arrival was counted compares the object's generation with g[d]: it goes on, or parks
again with park 6. A translation on the way keeps park 6; an uncorrectable error on the way raises F_DATA (R298). -/
def State.barmAgain (s : State) (d a : Reg) : State :=
  match s.badSource ⟨0, .user, false, [], [], [d, a], none⟩ with
  | some f => s.fault .data 0 f
  | none =>
  match s.locate (s.me.reg a) 8 .atomic true true with
  | .error u => if u.me.st = .parked then u.modMe (·.setPark 6) else u
  | .ok l =>
    if s.badWord l.key then s.fault .data (wordAddr (s.me.reg a)) else
    let gen := s.barmGen (s.cipherKey s.curCore) l.key
    if wrap gen.toNat = s.me.reg d then s.park 6 (.barm d l.key gen) else s.modMe (fun x => (x.setPark 0).advance)

/-- R235: the checks of R217 with F_GUARD first, the buffer, the release step, then the arrival is sent. Scope core raises F_SCOPE,
as R217 has it for every atomic (R234 and R235 could be read otherwise: DESIGN CHOICE, log entry 76). -/
def execBarm (d a b : Reg) (sc : BitVec 3) (s : State) : Out :=
  if s.me.park = 6 then .next (s.barmAgain d a)
  else s.issue ⟨encode (.barm d a b sc), .user, false, [], [], [a, b], some d⟩ (fun t =>
    match t.guardStop with
    | some u => u
    | none =>
      let ea := t.src a
      match t.locate ea 8 .atomic true true with
      | .error u => u
      | .ok l =>
        if plainTy l.ty = false || (match l.place with | .lmem _ => true | _ => false) then t.fault .memtype ea (wrap l.ty.code)
        else if (match l.place with | .home _ => true | _ => false) = false || scopeReaches t.curCore l sc.toNat = false then
          t.fault .scope ea
        else
          match t.collapseCheck l with
          | some u => u
          | none =>
            if t.quiet t.curCore t.curSlot = false then t.waitIssued true sc
            else (t.demoteIssued true sc).parkOn (t.pops [a, b]) 3 (.barmSent d ea l ((t.src b).toNat % 2 ^ 32)))

/-- R235 at the home slice: one arrival is counted, g[d] takes the generation, and the slot goes on or parks with park 6. The
event is ATOMIC_PERFORM. -/
def State.barmArrive (s : State) (core slot : Nat) (d : Reg) (loc : Loc) (count : Nat) : State :=
  let ck := s.cipherKey core
  let obj := (s.memLoad ck loc.key 8).toNat
  let gen := obj / 2 ^ 32
  let n := (obj % 2 ^ 32 + 1)
  let released := decide (count ≤ n)
  let new := if released then (gen + 1) % 2 ^ 32 * 2 ^ 32 else gen * 2 ^ 32 + n
  let t := (s.agentWrite (some (core, slot)) ck loc.key 8 (wrap new)).result core slot d (wrap gen)
  if released then t.goOn core slot
  else
    let u := if (t.slot core slot).popDue then t.chainPop core slot else t
    u.modSlot core slot (fun x => { x.parkFor 6 (.barm d loc.key (BitVec.ofNat 32 gen)) with popDue := false })

/-! ## At the point P (R202, R207, R225 to R228) -/

/-- R225, R226, R228, R235: an atomic, `ldres`, `stcnd` or `barm` is performed at its point, and its result fills g[d]. -/
def execAtomicPerform (core slot : Nat) (s : State) : Out :=
  match (s.slot core slot).st, (s.slot core slot).pend with
  | .parked, .atomic op d ea loc size x e =>
    match s.lostPlace loc ea with
    | some (f, fa, fv) => .next (s.takeFault core slot f fa fv)
    | none =>
      if s.reachable loc = false || !s.ownStoresDone core slot loc.key size then .next s
      else
        let ck := s.cipherKey core
        match op with
        | .stcnd =>
          let ok := (s.slot core slot).resv.any (fun (r : Resv) => r.blk = ea.toNat / 64 && r.key = loc.key / 64)
          let t := if ok then s.agentWrite (some (core, slot)) ck loc.key size x else s
          let u := t.modSlot core slot (fun y => { y with resv := none })
          .next (u.answer core slot d (if ok then 0 else 1))
        | _ =>
          if s.badWord loc.key then .next (s.takeFault core slot .data (wordAddr ea))
          else
            let old := s.memLoad ck loc.key size
            let t :=
              match op with
              | .ldres => s.modSlot core slot (fun y => { y with resv := some ⟨ea.toNat / 64, loc.key / 64, loc.place⟩ })
              | _ =>
                match atomicNew op (8 * size) old.toNat (zextBytes size x).toNat (zextBytes size e).toNat with
                | some n => s.agentWrite (some (core, slot)) ck loc.key size (wrap n)
                | none => s
            .next (t.answer core slot d (sextBits (8 * size) old))
  | .parked, .barmSent d ea loc count =>
    if s.reachable loc = false then .next s
    else if s.badWord loc.key then .next (s.takeFault core slot .data (wordAddr ea))
    else .next (s.barmArrive core slot d loc count)
  | _, _ => .next s

/-- R235: a wake-up notice: the slot goes on if the object's generation is no longer the one it arrived in. A generation in a word with an
uncorrectable error is not read (R298): the slot waits on (DESIGN CHOICE, log entry 67). -/
def execBarmWakeNotice (core slot : Nat) (s : State) : Out :=
  match (s.slot core slot).st, (s.slot core slot).pend with
  | .parked, .barm _ key gen =>
    if s.badWord key || s.barmGen (s.cipherKey core) key = gen then .next s else .next (s.modSlot core slot Slot.wakeNext)
  | _, _ => .next s

end Sys2Proof.Machine
end

