-- ==== Sys2Proof/Machine/Memory.lean ====
section
/-!
DEFINITION. Loads and stores at every level, full/empty loads and stores, the drain of the store buffer, scope misses and fences
(R86 to R89, R208 to R212, R215 to R223, R230 to R233).
-/

namespace Sys2Proof.Machine

open Sys2Proof

/-! ## Loads (R87, R219, R220) -/

/-- A value of `size` bytes extended to 64 bits. -/
def extendTo (signed : Bool) (size : Nat) (v : Word) : Word := if signed then sextBits (8 * size) v else v

/-- R219, R220: own local memory answers within the fixed latency, and its bytes are taken as the load issues, where R27 says only that they are
taken within the latency (DESIGN CHOICE, log entry 42); anything else parks the slot with park 3; a device access
waits with park 4 for an empty buffer first. -/
def loadOp (i : Instr) (signed : Bool) (d a : Reg) (sz : BitVec 2) (sc : BitVec 3) (od : BitVec 2) (off : BitVec 11) (s : State) : Out :=
  s.issue ⟨encode i, .user, false, [], [], [a], some d⟩ (fun t =>
    let size := sizeOf sz
    let ea := effAddr (t.src a) off size
    match t.locate ea size .load true false with
    | .error u => u
    | .ok l =>
      match t.targetCheck ea l with
      | some u => u
      | none =>
        let t1 := t.demote (isAcq od) sc
        if l.place = .lmem t.curCore then
          if t.loadBad t.curCore t.curSlot l.key size then t.fault .data (wordAddr ea)
          else
            (t1.touch t.curCore t.curSlot l.key size).retire [a] d
              (extendTo signed size (t.slotLoad t.curCore t.curSlot (t.cipherKey t.curCore) l.key size)) 8
        else if l.ty = .device ∧ t.me.buf.isEmpty = false then t.parkRetry 4
        else (t1.touch t.curCore t.curSlot l.key size).parkOn (t.pops [a]) 3 (.load d ea l size signed))

/-- R219, R220. -/
def execLd (d a : Reg) (sz : BitVec 2) (sc : BitVec 3) (od : BitVec 2) (off : BitVec 11) (s : State) : Out :=
  loadOp (.ld d a sz sc od off) false d a sz sc od off s
/-- R219, R220. -/
def execLdS (d a : Reg) (sz : BitVec 2) (sc : BitVec 3) (od : BitVec 2) (off : BitVec 11) (s : State) : Out :=
  loadOp (.ldS d a sz sc od off) true d a sz sc od off s

/-- What a load beyond own local memory returns: the newest visible version of stamped memory (R361), what stands in memory in a page of
type device, to which nothing is forwarded (R216), else the slot's own view (R27). -/
def State.remoteValue (s : State) (c k : Nat) (l : Loc) (size : Nat) : Word :=
  match l.ty with
  | .stamped => s.stampedLoad (s.cipherKey c) l size
  | .device => s.memLoad 0 l.key size
  | _ => s.slotLoad c k (s.cipherKey c) l.key size

/-- R298: whether such a load would take its value from a word with an uncorrectable error. -/
def State.remoteBad (s : State) (c k : Nat) (l : Loc) (size : Nat) : Bool :=
  if l.ty = .device then s.badWord l.key else s.loadBad c k l.key size

/-- R202, R216: whether a load of the slot may be performed now: in a page of type device, to which no store is forwarded, it follows the
slot's own earlier stores to the location. -/
def State.loadReady (s : State) (c k : Nat) (l : Loc) (size : Nat) : Bool := l.ty ≠ .device || s.ownStoresDone c k l.key size

/-! ## Device registers (R382, R389) -/

/-- R389: the thermal word. The junction's temperature is what the sensors give, within the bounds of the state. -/
def State.thermalWord (s : State) : Word :=
  let t := s.pkg.thermal
  let tj := match t with
    | .normal => Config.junction s.now % 95
    | .throttle => Config.junction s.now % 105
    | .critical => s.pkg.tj.toNat
  wrap (s.pkg.tcnt.toNat * 2 ^ 32 + (match t with | .normal => 0 | .throttle => 1 | .critical => 2) * 256 + tj)

/-- R382: whether a feature is present: the second tier, the pod and the switch as the machine stands; others as they were published. -/
def State.hasFeature (s : State) (n : Nat) : Bool :=
  match n with
  | 1 => decide (0 < s.pkg.cxlBytes)
  | 2 => s.pkg.podNo.isSome
  | 3 => s.pkg.switched
  | _ => s.pkg.capList.contains n

/-- R382: the identifiers of the capability list, in order. -/
def State.capIds (s : State) : List Nat := [1, 2, 3].filter s.hasFeature ++ s.pkg.capList

/-- R382: entry i of the capability list; each leads to the one right after it (DESIGN CHOICE, log entry 82). -/
def State.capWord (s : State) (i : Nat) : Option Word :=
  (s.capIds[i]?).map (fun n =>
    wrap (n % 2 ^ 16 + Config.featureVersion n % 2 ^ 8 * 2 ^ 16 + (if i + 1 < s.capIds.length then 0x100 + 8 * (i + 1) else 0) * 2 ^ 32))

/-- R382, R389: the word at an offset of BAR 0, where the spec gives one. -/
def State.barWord (s : State) (o : Nat) : Option Word :=
  if o / 8 = 0x10 then some s.thermalWord else if 0x100 ≤ o then s.capWord ((o - 0x100) / 8) else none

/-- R188: what a load of a device register returns: a word of BAR 0, which begins where the range of device registers does (DESIGN CHOICE, log
entry 82); of any other register the spec gives no value, and a free one returns (log entry 12). -/
def State.deviceValue (s : State) (c k : Nat) (l : Loc) (size : Nat) : Word :=
  match s.barWord (l.key - 0xF000000000000) with
  | some w => wrap (w.toNat / 2 ^ (8 * (l.key % 8)) % 2 ^ (8 * size))
  | none => zextBytes size (wrap (Config.deviceReg s.free (16 * c + k) l.key))

/-- What a load that leaves the core returns. -/
def State.loadValue (s : State) (c k : Nat) (l : Loc) (size : Nat) : Word :=
  if l.place = .devReg then s.deviceValue c k l size else s.remoteValue c k l size

/-- R220: the value returns and fills g[d]. -/
def execRemoteLoadReturn (core slot : Nat) (s : State) : Out :=
  match (s.slot core slot).st, (s.slot core slot).pend with
  | .parked, .load d ea loc size signed =>
    match s.lostPlace loc ea with
    | some (f, fa, fv) => .next (s.takeFault core slot f fa fv)
    | none =>
      if s.reachable loc = false || s.loadReady core slot loc size = false then .next s
      else if s.remoteBad core slot loc size then .next (s.takeFault core slot .data (wordAddr ea) 0)
      else
        .next ((if loc.place = .devReg then s.nextFree else s).answer core slot d (extendTo signed size (s.loadValue core slot loc size)))
  | _, _ => .next s

/-! ## Stores (R87, R220, R223) -/

/-- A store enters the buffer; with all four entries occupied the slot parks with park 4 (R27). -/
def State.enqueue (s : State) (e : StoreEnt) (srcs : List Reg) : State :=
  if 4 ≤ s.me.buf.length then s.parkRetry 4
  else ((s.modMe (fun x => { x with buf := x.buf ++ [e] })).take srcs).advance

/-- R219, R220: the checks, then the buffer; a device store bypasses it, and a release waits for every earlier access of the slot (R205,
R216). -/
def execSt (d a : Reg) (sz : BitVec 2) (sc : BitVec 3) (od : BitVec 2) (off : BitVec 11) (s : State) : Out :=
  s.issue ⟨encode (.st d a sz sc od off), .user, false, [], [], [a, d], none⟩ (fun t =>
    let size := sizeOf sz
    let ea := effAddr (t.src a) off size
    match t.locate ea size .store false true with
    | .error u => u
    | .ok l =>
      if l.ty = .stamped then t.fault .memtype ea (wrap l.ty.code)
      else
        match t.targetCheck ea l with
        | some u => u
        | none =>
          match t.collapseCheck l with
          | some u => u
          | none =>
            if l.ty = .device then
              if t.me.buf.isEmpty = false then t.parkRetry 4
              else if isRel od && !t.quiet t.curCore t.curSlot then t.waitIssued true sc
              else (t.demoteIssued (isRel od) sc).parkOn (t.pops [a, d]) 3 (.devStore ea l size (t.src d))
            else if 4 ≤ t.me.buf.length then t.parkRetry 4
            else
              ((t.demote (isRel od) sc).touch t.curCore t.curSlot l.key size).enqueue
                { ea := ea, loc := l, size := size, data := zextBytes size (t.src d), stf := false, rel := isRel od, loose := false,
                  sc := sc, due := t.now + 1, ckey := t.cipherKey t.curCore, claim := t.me.claims, kern := t.me.kern, tenant := t.me.tenant,
                  ctx := t.me.ctx, lanes := [] } [a, d])

/-- R223: a store that also sets its word full. -/
def execStf (d a : Reg) (sc : BitVec 3) (od : BitVec 2) (off : BitVec 11) (s : State) : Out :=
  s.issue ⟨encode (.stf d a sc od off), .user, false, [], [], [a, d], none⟩ (fun t =>
    let ea := effAddr (t.src a) off 8
    match t.locate ea 8 .store false true with
    | .error u => u
    | .ok l =>
      if fullEmptyOk l = false then t.fault .memtype ea (wrap l.ty.code)
      else
        match t.collapseCheck l with
        | some u => u
        | none =>
          if 4 ≤ t.me.buf.length then t.parkRetry 4
          else
            ((t.demote (isRel od) sc).touch t.curCore t.curSlot l.key 8).enqueue
              { ea := ea, loc := l, size := 8, data := t.src d, stf := true, rel := isRel od, loose := false, sc := sc,
                due := t.now + 1, ckey := t.cipherKey t.curCore, claim := t.me.claims, kern := t.me.kern, tenant := t.me.tenant, ctx := t.me.ctx,
                lanes := [] } [a, d])

/-! ## Full/empty loads (R222) -/

/-- R222: the buffer drains first (park 4), then the slot waits at the word's point (park 3). Its access kind is 0 for `ldx`, which only reads
data, and 3 for `ldc`, which empties the word: Table 10.6 names neither (DESIGN CHOICE, log entry 65). -/
def fullEmptyLoad (i : Instr) (take : Bool) (d a : Reg) (sc : BitVec 3) (od : BitVec 2) (off : BitVec 11) (s : State) : Out :=
  s.issue ⟨encode i, .user, false, [], [], [a], some d⟩ (fun t =>
    let ea := effAddr (t.src a) off 8
    match t.locate ea 8 (if take then .atomic else .load) true take with
    | .error u => u
    | .ok l =>
      if fullEmptyOk l = false then t.fault .memtype ea (wrap l.ty.code)
      else
        match (if take then t.collapseCheck l else none) with
        | some u => u
        | none =>
          if t.me.buf.isEmpty = false then t.waitIssued (isAcq od) sc
          else ((t.demoteIssued (isAcq od) sc).touch t.curCore t.curSlot l.key 8).parkOn (t.pops [a]) 3 (.fullEmpty d ea l take))

/-- R222. -/
def execLdx (d a : Reg) (sc : BitVec 3) (od : BitVec 2) (off : BitVec 11) (s : State) : Out :=
  fullEmptyLoad (.ldx d a sc od off) false d a sc od off s
/-- R222: sets the word empty, which is a write in the location's order. -/
def execLdc (d a : Reg) (sc : BitVec 3) (od : BitVec 2) (off : BitVec 11) (s : State) : Out :=
  fullEmptyLoad (.ldc d a sc od off) true d a sc od off s

/-- R222: an `ldx` or `ldc` that finds its word full performs; on an empty word nothing comes about. -/
def execFullEmptyPerform (core slot : Nat) (s : State) : Out :=
  match (s.slot core slot).st, (s.slot core slot).pend with
  | .parked, .fullEmpty d ea loc take =>
    if s.ownStoresDone core slot loc.key 8 = false || s.reachable loc = false || s.wordFull loc.key = false then .next s
    else if s.badWord loc.key then .next (s.takeFault core slot .data (wordAddr ea) 0)
    else
      let v := s.memLoad (s.cipherKey core) loc.key 8
      let t := if take then (s.setWordFull loc.key false).loseResv (some (core, slot)) loc.key else s
      .next (t.answer core slot d v)
  | _, _ => .next s

/-! ## The drain (R221, R223, R227) -/

/-- A store is performed: its bytes change, a `stf` sets its word full in the same write, a vector store writes its lanes in
order, and other agents' reservations on the blocks are lost. -/
def State.performStore (s : State) (c k : Nat) (e : StoreEnt) : State :=
  match e.lanes with
  | [] =>
    let t := s.agentWrite (some (c, k)) e.ckey e.loc.key e.size e.data
    if e.stf then t.setWordFull e.loc.key true else t
  | ls => ls.foldl (fun t l => t.agentWrite (some (c, k)) e.ckey l.1 4 (l.2.zeroExtend 64)) s

/-- R230: a missed store counts as performed: its handler has quit, and every access that the handler issued is performed, a missed store
of the handler's own included; `later` are the core's misses after it that are not. -/
def State.missDone (s : State) (c : Nat) (later : List Miss) (m : Miss) : Bool :=
  m.quit &&
  match m.handler with
  | none => true
  | some (k, claim) =>
    ((s.slot c k).buf ++ (s.slot c k).out).all (fun e => e.claim != claim) &&
    later.all (fun n => n.slot != k || n.claim != claim)

/-- R230: the missed stores of core c that count as performed are no longer waited for; a handler's own miss comes after the one it
handles. -/
def State.endHolds (s : State) (c : Nat) : State :=
  s.modCore c (fun x => { x with misses := x.misses.foldr (fun m l => if s.missDone c l m then l else m :: l) [] })

/-- Whether the head entry of the buffer may leave (R209, R210, R221): it stands in the buffer (R22); no handler of a missed store of its
thread is still to quit; the entry before it is acknowledged, or was a plain store to a location not homed on the die; and before a release
every earlier access of the thread is performed. -/
def State.mayLeave (s : State) (c k : Nat) : Bool :=
  let x := s.slot c k
  match x.buf with
  | [] => false
  | e :: _ =>
    let mine (m : Miss) : Bool := decide (m.slot = k) && decide (m.claim = e.claim)
    decide (e.due ≤ s.now) && (s.core c).misses.all (fun m => !mine m || m.quit) &&
      x.out.all (fun f => !f.rel && !homedOn (dieOf c) f.loc) &&
      (!e.rel || (x.out.isEmpty && (s.core c).misses.all (fun m => !mine m)))

/-- What the head entry leaves in the buffer once its next store is performed: a vector store drains lane by lane (R133). -/
def StoreEnt.rest (e : StoreEnt) : List StoreEnt :=
  match e.lanes with
  | _ :: l :: ls => [{ e with lanes := l :: ls }]
  | _ => []

/-- The one store of an entry that is performed next: of a vector store, its lowest lane (R133). -/
def StoreEnt.next (e : StoreEnt) : StoreEnt := { e with lanes := e.lanes.take 1 }

/-- A slot whose store to another core's window has left the buffer: it parks with park 3 until the acknowledgement, if it could issue
before (R187, R220). One that resumes at a counted barrier word keeps park 6 (R153). -/
def Slot.awaitAck (x : Slot) : Slot :=
  if x.st = .ready || (x.st = .parked && x.pend = .retry) then
    { (if x.park = 6 then x else x.setPark 3) with st := .parked, pend := .ackWait }
  else x

/-- R221: the head entry leaves. An entry for own local memory is performed at once, one store in a cycle (R27); a store to another core's
window parks its slot until the acknowledgement (R187, R220). -/
def execStoreBufferDrain (core slot : Nat) (s : State) : Out :=
  match (s.slot core slot).buf with
  | [] => .next s
  | e :: rest =>
    let e := { e with loc := e.loc.rehome s }
    if s.mayLeave core slot = false then .next s
    else if e.loc.place = .lmem core then
      if (s.slot core slot).drainCyc = s.now + 1 then .next s
      else
        let t := s.modSlot core slot (fun x => { x with buf := e.rest ++ rest, drainCyc := s.now + 1 })
        .next ((t.performStore core slot e.next).endHolds core)
    else
      .next (s.modSlot core slot (fun x =>
        let y := { x with buf := rest, out := x.out ++ [e] }
        if e.loc.window && e.claim = x.claims then y.awaitAck else y))

/-- R208: a release store misses when its scope is narrower than its location's home scope. A store demoted by tenant scope keeps
system scope in its entry and never misses (R215). -/
def missesScope (c : Nat) (e : StoreEnt) : Bool := e.rel && decide (e.sc.toNat < homeScope c e.loc)

/-- After an acknowledgement: a slot that waited for it goes on, at the word it stands at. -/
def Slot.afterAck (x : Slot) : Slot :=
  match x.st, x.pend with
  | .parked, .ackWait => if x.windowOut then x else x.wake
  | _, _ => x

/-- R209: the scope-miss entry is armed when `k.scm` of the tenant on the issuing die names an entry of the capsule of the store's slot. No
handler can run on a core that is retired (DESIGN CHOICE, log entry 90). -/
def State.armedEntry (s : State) (c : Nat) (e : StoreEnt) : Option (Word × KernRef) :=
  if (s.core c).health = .retired then none else
  let scm := (s.tenantDie (dieOf c) e.tenant.toNat).scm
  match e.kern with
  | none => none
  | some r =>
    match s.capsule? r.handle with
    | none => none
    | some cap =>
      (cap.body.entries.find? (fun n => cap.body.base + wrap n.off = scm && scm ≠ 0)).map (fun n => (scm, { r with kernel := n.kernel }))

/-- Whether the store that left as entry `idx` is performed before one that left earlier (R202): not while that one covers the same word.
A store that misses is performed only where its router forwards it, once (R209). -/
def State.mayPerform (s : State) (c k idx : Nat) (e : StoreEnt) : Bool :=
  s.reachable e.loc && !(missesScope c e && (e.loose || (s.armedEntry c e).isSome)) &&
    !(((s.slot c k).out.take idx).any (fun f =>
      match e.lanes with
      | [] => f.covers (e.loc.key / 8 * 8) 8
      | ls => ls.any (fun l => f.covers l.1 4)))

/-- R221: the store that left as entry `idx` is performed and acknowledged; a device store's acknowledgement ends its park
(R216). A release that misses and is forwarded as a plain store still holds the buffer until its scope-miss message (R209). -/
def execStoreAck (core slot idx : Nat) (s : State) : Out :=
  match (s.slot core slot).st, (s.slot core slot).pend with
  | .parked, .devStore ea loc size v =>
    match s.lostPlace loc ea with
    | some (f, fa, fv) => .next (s.takeFault core slot f fa fv)
    | none => .next ((s.agentWrite (some (core, slot)) 0 loc.key size v).goOn core slot)
  | _, _ =>
    match (s.slot core slot).out[idx]? with
    | none => .next s
    | some e =>
      if s.mayPerform core slot idx e = false then .next s
      else
        match s.lostPlace e.loc e.ea with
        | some (f, fa, fv) =>
          let t := (s.modSlot core slot (fun x => { x with out := x.out.eraseIdx idx })).endHolds core
          .next (if (s.slot core slot).st = .free ∨ (s.slot core slot).st = .stopped ∨ e.claim ≠ (s.slot core slot).claims then t
            else t.takeFault core slot f fa fv)
        | none =>
          let left (x : Slot) : Slot :=
            { x with out := if missesScope core e then x.out.set idx { e with loose := true } else x.out.eraseIdx idx }
          .next ((((s.modSlot core slot left).performStore core slot e).modSlot core slot Slot.afterAck).endHolds core)

/-! ## Scope misses (R208 to R210) -/

/-- The information word of R209. -/
def missInfo (c : Nat) (e : StoreEnt) : Word :=
  wrap (e.sc.toNat + 8 * homeScope c e.loc + 64 * Nat.log2 e.size + (if e.stf then 256 else 0))

/-- R209: the message of a missed release returns: not armed, the store goes on as a plain one, or has been performed as one already, and
the miss is counted; armed, the store is discarded and becomes an arrival at the issuing core, and the buffer is held. -/
def execScopeMissMessage (core slot : Nat) (s : State) : Out :=
  let x := s.slot core slot
  match x.out.findIdx? (fun e => missesScope core e) with
  | none => .next s
  | some i =>
    match x.out[i]? with
    | none => .next s
    | some e =>
      let count (t : State) : State := t.modCore core (fun y => { y with missCount := y.missCount + 1 })
      if e.loose then
        .next (count ((s.modSlot core slot (fun y => ({ y with out := y.out.eraseIdx i } : Slot).afterAck)).endHolds core))
      else
      match s.armedEntry core e with
      | some (pc, kr) =>
        let t := s.modSlot core slot (fun y => ({ y with out := y.out.eraseIdx i } : Slot).afterAck)
        .next (t.modCore core (fun y =>
          { y with misses := y.misses ++ [⟨y.missSeq + 1, slot, e.claim, none, false⟩], missSeq := y.missSeq + 1,
                   links := y.links ++ [{ src := .missHandler, link := 4, at_ := s.now, pc := pc, kern := kr,
                                          tenant := e.tenant, ctx := e.ctx,
                                          regs := [(1, e.ea, true), (2, e.data, true), (3, missInfo core e, true)], bgen := false,
                                          task := ⟨none, none⟩, record := none, cause := some (core, slot), miss := y.missSeq + 1 }] }))
      | none =>
        .next (count (s.modSlot core slot (fun y => { y with out := y.out.set i { e with rel := false, loose := true } })))

/-! ## Fences (R230 to R232) and `wrs` (R233) -/

/-- R230, R232: the slot waits with park 4 until every earlier access is performed at the scope; a demotion is that of its issue (R378). -/
def execFence (sc : BitVec 3) (s : State) : Out :=
  s.issue ⟨encode (.fence sc), .user, false, [], [], [], none⟩ (fun t =>
    if t.quietAt t.curCore t.curSlot sc.toNat then (t.demoteIssued true sc).advance else t.waitIssued true sc)

/-- R233: parks only while the slot's reservation is on the block of g[a]; makes no access. A latch already set at issue ends the
wait at once (DESIGN CHOICE, log entry 76). -/
def execWrs (a : Reg) (sc : BitVec 3) (s : State) : Out :=
  s.issue ⟨encode (.wrs a sc), .user, false, [], [], [a], none⟩ (fun t =>
    let u := t.take [a]
    match t.me.resv with
    | none => u.advance
    | some r =>
      if r.blk ≠ (t.src a).toNat / 64 ∨ t.latch t.curCore t.curSlot then u.advance
      else u.park 3 (.wrs sc))

/-- R227, R233: the block that a slot's reservation names leaves the unit that holds it. -/
def execBlockEviction (core slot : Nat) (s : State) : Out :=
  let x := s.slot core slot
  match x.resv with
  | none => .next s
  | some _ =>
    .next (s.modSlot core slot (fun y =>
      match y.st, y.pend with
      | .parked, .wrs _ => { y.wakeNext with resv := none }
      | _, _ => { y with resv := none }))

end Sys2Proof.Machine
end

