-- ==== Sys2Proof/Machine/Claim.lean ====
section
/-!
DEFINITION. How a slot is taken and given back: claims and links (R138 to R142), charges (R161), completion records (R166, R256),
the core barrier's count (R151, R152), and a slot becoming FREE (R176).
-/

namespace Sys2Proof.Machine

open Sys2Proof

/-! ## Completion records (R166, R256) -/

/-- The midpoint stamp of a die (R158). -/
def State.midpoint (s : State) (d : Nat) : Nat := (s.earliest d + s.latest d) / 2

/-- R166, R256: die d posts a record to a tenant's event queue, under cipher key `ck`. A queue that is not set drops it and counts
nothing; a full ring drops it and counts it. -/
def State.postEvent (s : State) (d ck : Nat) (tenant : BitVec 8) (q tag status : Nat) : State :=
  let n := tenant.toNat * 256 + q
  let e := Tab.get EvQueue.reset s.pkg.evqs n
  let put (f : EvQueue) (t : State) : State := t.modPkg (fun p => { p with evqs := Tab.set EvQueue.reset p.evqs n f })
  if e.valid = false then s
  else
    let w0 := e.base + 16 * (e.tail % 2 ^ e.s)
    if s.wordFull w0 then put { e with lost := (e.lost + 1) % 2 ^ 32 } s
    else
      let hi := tag % 2 ^ 16 + 2 ^ 16 * status + 2 ^ 24 * d + 2 ^ 32 * tenant.toNat
      let t := ((put { e with tail := e.tail + 1 } s).agentWrite none ck (w0 + 8) 8 (wrap hi)).setWordFull (w0 + 8) true
      (t.agentWrite none ck w0 8 (wrap (s.midpoint d))).setWordFull w0 true

/-! ## Local memory made zero (R28, Table 2.7, R339) -/

/-- Bytes off to off + len - 1 of the local memory of core c become zero and full, as the core itself reads them; other agents'
reservations on them are lost. -/
def State.zeroLocal (s : State) (c off len : Nat) : State :=
  let lo := lmemKey c off
  let ck := s.cipherKey c
  let inside (k : Nat) : Bool := decide (lo ≤ k) && decide (k < lo + len)
  let word (k : Nat) : Bool := inside (8 * k)
  let t : State :=
    { s with
      mem := s.mem.filter (fun p => !inside p.1)
      empties := s.empties.filter (fun p => !word p.1)
      tags := s.tags.filter (fun p => !word p.1)
      pkg := { s.pkg with badWords := s.pkg.badWords.filter (fun p => !word p.1) } }
  let u := if ck = 0 then t else (List.range (len / 8)).foldl (fun a i => a.setTag (lo + 8 * i) ck) t
  u.mapSlots (fun _ _ x =>
    match x.resv with
    | some r =>
      if inside (64 * r.key) || inside (64 * r.key + 63) then
        match x.st, x.pend with
        | .parked, .wrs _ => { x.wakeNext with resv := none }
        | _, _ => { x with resv := none }
      else x
    | none => x)

/-! ## Whether an arrival can claim (R139) -/

/-- What an arrival takes: slot, first granule and number of granules, scratchpad data (offset, length). -/
structure Room where
  slot : Nat
  vbase : Nat
  vsize : Nat
  spad : Option (Nat × Nat)
  deriving DecidableEq, Repr

/-- R139 with R141: a slot that is FREE, whose buffer is empty and whose resources have been given back. -/
def Slot.claimable (x : Slot) : Bool := x.st = .free && x.buf.isEmpty && x.kern.isNone

/-- The lowest granule at which n contiguous granules are free in a map. -/
def freeRun (map : BitVec 16) (n : Nat) : Option Nat :=
  (List.range (17 - n)).find? (fun b => (List.range n).all (fun i => !map.getLsbD (b + i)))

/-- The pool ranges that a core's slots hold, guard granules included, as (offset, length). -/
def State.poolUses (s : State) (c : Nat) : List (Nat × Nat) :=
  (s.slotsOn c).filterMap (fun p => p.2.spad.map (fun q => (q.1 - 64, q.2 + 128)))

/-- The lowest offset of a pool at which `need` bytes are free of the ranges in use. -/
def poolFit (base size : Nat) (uses : List (Nat × Nat)) (need : Nat) : Option Nat :=
  let ok (o : Nat) : Bool :=
    decide (base ≤ o) && decide (o + need ≤ base + size) && uses.all (fun u => !overlap o need u.1 u.2)
  ((base :: uses.map (fun u => u.1 + u.2)).filter ok).foldl
    (fun a o => match a with | none => some o | some b => some (Nat.min o b)) none

/-- R139: the lowest pool offset at which `need` bytes are free. -/
def State.poolRoom (s : State) (c need : Nat) : Option Nat :=
  poolFit (s.core c).poolBase (s.core c).poolSize (s.poolUses c) need

/-- The kernel a reference names. -/
def State.kernel? (s : State) (r : KernRef) : Option Kernel := (s.capsule? r.handle).bind (fun x => x.kernels[r.kernel]?)

/-- How many slots of a core hold a kernel. -/
def State.holders (s : State) (c : Nat) (r : KernRef) : Nat :=
  ((s.slotsOn c).filter (fun p => p.2.st != .free && p.2.kern.any (fun k => k.handle = r.handle && k.kernel = r.kernel))).length

/-- R139: what an arrival for a kernel would take on core c; none if it cannot claim. A kernel has a body only while its capsule is
VALID (R316, R317). A migrating thread takes no window and no
scratchpad (R146). -/
def State.room (s : State) (c : Nat) (r : KernRef) (bare : Bool) : Option Room :=
  match (if (s.capsule? r.handle).any (fun x => x.st = .valid) then s.kernel? r else none) with
  | none => none
  | some q =>
    let vsize := if bare then 0 else q.vsize
    let spad := if bare then 0 else q.spad
    match (s.slotsOn c).find? (fun p => p.2.claimable), freeRun (s.core c).vmap vsize with
    | some (k, _), some vb =>
      if q.slots ≤ s.holders c r then none
      else if spad = 0 then some ⟨k, vb, vsize, none⟩
      else (s.poolRoom c (spad + 128)).map (fun o => ⟨k, vb, vsize, some (o + 64, spad)⟩)
    | _, _ => none

/-- R300, R308: a core that is stopped, retired or held by a pre-emption accepts no arrival; and it accepts at most one in a
cycle (R140). -/
def State.accepts (s : State) (c : Nat) : Bool :=
  let x := s.core c
  x.health = .ok && x.pre = .off && x.claimCyc != s.now + 1

/-! ## The claim (R138, Table 2.7) -/

/-- The granule bits of a window. -/
def granules (vb n : Nat) : BitVec 16 := BitVec.ofNat 16 ((2 ^ n - 1) * 2 ^ vb)

/-- The registers of a slot as an arrival carries them. -/
def Slot.withRegs (x : Slot) (l : List (Reg × Word × Bool)) : Slot :=
  l.foldl (fun y p => (y.setReg p.1 p.2.1).setFull p.1.toNat p.2.2) x

/-- Table 2.7: an arrival claims a slot of core c, whose chain queue is emptied of what has arrived in it (R147; R181: a push issued
before the claim and complete after it is kept: DESIGN CHOICE, log entry 76); the privileged bit is 1 on service cores and on the security core (R325). A
thread of an upcall entry that migrates does not run as one any more (R196: DESIGN CHOICE, log entry 87). -/
def State.claim (s : State) (c : Nat) (r : Room) (a : Arrival) : State :=
  let old := s.slot c r.slot
  let new : Slot :=
    { Slot.reset with
      st := .ready, pc := pcAt a.pc, tenant := a.tenant, kern := some a.kern, task := a.task, ctx := a.ctx, spad := r.spad
      sw := wrap (r.vbase * 2 ^ 32 + r.vsize * 2 ^ 36 + (if a.bgen then 2 ^ 45 else 0) + (if isCompute c then 0 else 4))
      out := old.out, claims := old.claims + 1, claimedAt := s.now, drainCyc := old.drainCyc
      upcall := decide (a.src = .upcall) }
  let t := s.setSlot c r.slot (new.withRegs a.regs)
  let t := t.modCore c (fun x =>
    { x with
      vmap := x.vmap ||| granules r.vbase r.vsize
      vf := x.vf.filter (fun p => !(decide (128 * r.vbase ≤ p.1) && decide (p.1 < 128 * (r.vbase + r.vsize))))
      badV := x.badV.filter (fun n => !(decide (4 * r.vbase ≤ n) && decide (n < 4 * (r.vbase + r.vsize))))
      latch := x.latch &&& ~~~oneHot r.slot
      misses := x.misses.map (fun m =>
        if a.miss ≠ 0 ∧ m.id = a.miss then { m with handler := some (r.slot, old.claims + 1) } else m)
      claimCyc := s.now + 1 })
  let t := if isCompute c then
      t.setChain (upstream c) r.slot ((t.chainOut (upstream c) r.slot).filter (fun e => decide (s.now < e.1)))
    else t
  match r.spad with
  | some (o, n) => t.zeroLocal c o n
  | none => t

/-- The `k.owner` of the cores of a context (Table 19.1): that of a protected context names its key slot (R306). -/
def State.ctxOwner (s : State) (ctx : Nat) : Word :=
  match s.pkg.keys.find? (fun p => p.2.st != .empty && p.2.ctx = ctx) with
  | some p => wrap (2 ^ 39 + p.1 % 128 * 2 ^ 32 + ctx)
  | none => wrap ctx

/-- The heads of a core's links that can claim, with what each would take (R140). An arrival claims only on a core that holds its
context (R303, R308). -/
def State.claimingHeads (s : State) (c : Nat) : List (Arrival × Room) :=
  (List.range 5).filterMap (fun l =>
    match (s.core c).links.find? (fun a => a.link = l) with
    | none => none
    | some a =>
      if (s.core c).owner = s.ctxOwner a.ctx then (s.room c a.kern (decide (a.src = .migrant))).map (fun r => (a, r)) else none)

/-- R140: of the heads that can claim, the one that reached the core earliest; ties to the lower link. -/
def earliestHead (l : List (Arrival × Room)) : Option (Arrival × Room) :=
  l.foldl (fun b x => match b with | none => some x | some y => if x.1.at_ < y.1.at_ then some x else some y) none

/-- R140: the head that can claim takes a FREE slot of the core and its resources. -/
def execArrivalClaim (core : Nat) (s : State) : Out :=
  if s.accepts core then
    match earliestHead (s.claimingHeads core) with
    | none => .next s
    | some (a, r) => .next ((s.modCore core (fun x => { x with links := x.links.erase a })).claim core r a)
  else .next s

/-- R143, R172: whether core c admits a spawn for a kernel at once: R139 holds and no arrival waits on any of its links. -/
def State.admits (s : State) (c : Nat) (r : KernRef) : Option Room :=
  if s.accepts c && (s.core c).links.isEmpty then s.room c r false else none

/-! ## Charges (R161) -/

/-- R161: the charge of a compute slot that becomes FREE, to its tenant on its die. -/
def State.chargeSlot (s : State) (c k : Nat) : State :=
  if isCompute c then
    let x := s.slot c k
    s.modTenant (dieOf c) x.tenant.toNat (fun t =>
      { t with bal := max (-(2 ^ 31)) (t.bal - (ceilDiv (s.now - x.claimedAt) 1024 : Nat)) })
  else s

/-! ## The core barrier (R151, R152) -/

/-- The slots of a core that are not FREE. -/
def State.busySlots (s : State) (c : Nat) : Nat := ((s.slotsOn c).filter (fun p => p.2.st != .free)).length

/-- R152: every slot that waits at a barrier in generation `gen` becomes ready at its next word. -/
def State.releaseBar (s : State) (level inst id gen : Nat) : State :=
  s.mapSlots (fun _ _ x =>
    match x.st, x.pend with
    | .parked, .barrier l i n g _ => if l = level ∧ i = inst ∧ n = id ∧ g = gen then x.wakeNext else x
    | _, _ => x)

/-- R152: the core barrier releases once its arrivals reach the number of slots that are not FREE. -/
def State.checkCoreBar (s : State) (c : Nat) : State :=
  let x := s.core c
  if 0 < x.barArr ∧ s.busySlots c ≤ x.barArr then
    (s.releaseBar 0 c 0 x.barGen).modCore c (fun y => { y with barGen := y.barGen + 1, barArr := 0 })
  else s

/-! ## A slot becomes FREE (R141, R176, R266, R306) -/

/-- R266: the fire buffer that a thread holds becomes free. -/
def State.freeFire (s : State) (f : Option FireTag) : State :=
  match f with
  | none => s
  | some t =>
    s.modDie t.die (fun d =>
      { d with xq := d.xq.map (fun p => if p.1 = t.q then (p.1, { p.2 with busy := p.2.busy.erase t.buf }) else p) })

/-- R306: key slots whose save is closed and whose context has no slot left that is not FREE become IDLE. -/
def State.idleKeys (s : State) : State :=
  s.modPkg (fun p => { p with keys := Tab.mapAll KeySlot.reset p.keys (fun n q =>
    if q.st = .active && q.l && !q.openSave && !q.restoring &&
        !(s.slots.any (fun e => e.2.st != .free && bit (s.core (e.1 / 16)).owner 39 && bits (s.core (e.1 / 16)).owner 32 7 = n))
    then { q with st := .idle } else q) })

/-- R209, R230: a scope-miss handler that has ended: the issuer's buffer may drain again, and its fences wait for the handler's own
accesses only. -/
def State.handlerEnds (s : State) (c k : Nat) : State :=
  (s.modCore c (fun x => { x with misses := x.misses.map (fun m =>
    if m.handler = some (k, (s.slot c k).claims) then { m with quit := true } else m) })).endHolds c

/-- R176: slot k of core c becomes FREE. `post`: a DONE record is posted if the task asks for one; `final`: the thread ends, which
frees its fire buffer (a migration does neither). -/
def State.vacate (s : State) (c k : Nat) (post final : Bool) : State :=
  let x := s.slot c k
  let t := s.chargeSlot c k
  let t := match x.task.ctl with
    | some w => if post && bit w 33 then t.postEvent (dieOf c) (s.cipherKey c) x.tenant (bits w 40 8) (bits w 48 16) 1 else t
    | none => t
  let t := if final then t.freeFire x.task.fire else t
  let t := (t.freeFaultRecords c k).modSlot c k (fun y =>
    { y with st := .free, pend := .none, popDue := false, resv := none, task := ⟨none, none⟩, guardRec := none, upcall := false })
  (t.checkCoreBar c).idleKeys

/-- R176, R230: slot k of core c becomes FREE and its thread is gone: a scope-miss handler has ended. -/
def State.freeSlot (s : State) (c k : Nat) (post final : Bool) : State := (s.handlerEnds c k).vacate c k post final

/-- R230: a thread that was saved comes back with a new claim of its slot: its missed stores, and the misses that it handles, go on with
it (DEDUCED, log entry 78). -/
def State.moveMisses (s : State) (c k old new : Nat) : State :=
  s.modCore c (fun x => { x with misses := x.misses.map (fun m =>
    { m with claim := if m.slot = k ∧ m.claim = old then new else m.claim
             handler := if m.handler = some (k, old) then some (k, new) else m.handler }) })

/-- R141: the window and the pool range of a slot that has quit are given back once its buffer has drained. The tick of each cycle
does so for the slots that had drained by the end of the cycle before. -/
def State.giveBack (s : State) : State :=
  (s.slots.filter (fun p => p.2.st = .free && p.2.buf.isEmpty && p.2.kern.isSome)).foldl (fun t p =>
    let x := p.2
    (t.modCore (p.1 / 16) (fun y => { y with vmap := y.vmap &&& ~~~granules x.vbase x.vsize })).modSlot (p.1 / 16) (p.1 % 16)
      (fun y => { y with kern := none, spad := none })) s

end Sys2Proof.Machine
end

