-- ==== Sys2Proof/Machine/Barrier.lean ====
section
/-!
DEFINITION. Hardware barriers (R151 to R153, R182, R183, R350) and the stamped package barrier (R370).
-/

namespace Sys2Proof.Machine

open Sys2Proof

/-! ## The barrier that a word names -/

/-- R51, R182: the number of the quad, cluster, tile or die of core c; the package has one instance. Service cores have quads and clusters
of their own numbers, and the security core, which lies in no tile (R170), shares the instances of tile 64: DESIGN CHOICE, log entry 11. -/
def barInst (level c : Nat) : Nat :=
  match level with
  | 0 => c
  | 1 => c / 4
  | 2 => c / 8
  | 3 => tileOf c
  | 4 => dieOf c
  | _ => 0

/-- The place of a barrier in the package's table. -/
def barKey (level inst id : Nat) : Nat := (level * 2 ^ 14 + inst) * 64 + id
/-- A barrier above the core level. -/
def State.bar (s : State) (level inst id : Nat) : HwBar := Tab.get HwBar.reset s.pkg.bars (barKey level inst id)
/-- Changes a barrier above the core level. -/
def State.setBar (s : State) (level inst id : Nat) (b : HwBar) : State :=
  s.modPkg (fun p => { p with bars := Tab.set HwBar.reset p.bars (barKey level inst id) b })

/-- The generation whose release has taken effect last: at the package level a release takes effect 120 clk after its last arrival
is counted. -/
def State.currentGen (s : State) (level inst id : Nat) : Nat :=
  match level with
  | 0 => (s.core inst).barGen
  | 5 => (s.bar 5 0 id).gen - (s.pkg.rels.filter (fun r => r.1 = id)).length
  | _ => (s.bar level inst id).gen

/-! ## Arriving (R152, R182) -/

/-- R152: the slot counts once at its core's barrier and parks with park 6. -/
def State.arriveCore (s : State) : State :=
  let c := s.curCore
  let gen := (s.core c).barGen
  ((s.modMe (fun x => (x.setBgen (gen % 2 = 1)).parkFor 6 (.barrier 0 c 0 gen none))).modCore c
    (fun y => { y with barArr := y.barArr + 1 })).checkCoreBar c

/-- R152: the slot counts once at a barrier of a quad, cluster, tile or die and parks with park 6; the last arrival releases. The release
comes in the cycle of the last arrival: its latency is typical only (Table 7.3, R182), DESIGN CHOICE, log entry 57. -/
def State.arriveAt (s : State) (level id : Nat) : State :=
  let inst := barInst level s.curCore
  let b := s.bar level inst id
  let t := s.modMe (fun x => (x.setBgen (b.gen % 2 = 1)).parkFor 6 (.barrier level inst id b.gen none))
  if b.count ≤ b.arr + 1 then (t.setBar level inst id { b with gen := b.gen + 1, arr := 0 }).releaseBar level inst id b.gen
  else t.setBar level inst id { b with arr := b.arr + 1 }

/-- R153: a slot made READY at a word whose arrival was counted goes on if that generation has been released, else parks again.
`d` is the destination of an `sbar`: the stamp has filled it (R293), or it is written now from what the root keeps of the last release, once
the E of the slot's die exceeds it (R370). -/
def State.barAgain (s : State) (level id : Nat) (d : Option Reg) : State :=
  let inst := barInst level s.curCore
  let cur := s.currentGen level inst id
  let on (t : State) : State := t.modMe (fun x => { (x.setPark 0).advance with stampIn := false })
  if s.me.bgen = (cur % 2 = 1) then s.park 6 (.barrier level inst id cur d)
  else
    match d with
    | none => on s
    | some r =>
      let stamp := (s.bar 5 0 id).stamp
      if s.me.stampIn then on s
      else if stamp < s.earliest (dieOf s.curCore) then on (s.result s.curCore s.curSlot r (wrap stamp))
      else s.park 6 (.sbarRel r stamp s.now)

/-- R182: release at the level's scope, one arrival, park 6. At every level the release waits for all earlier accesses of the slot (at core scope:
DEDUCED, log entry 89). -/
def execBar (id : BitVec 6) (lv : BitVec 3) (s : State) : Out :=
  if s.me.park = 6 then .next (s.barAgain lv.toNat id.toNat none)
  else
    s.issue ⟨encode (.bar id lv), .user, false, [], [], [], none⟩ (fun t =>
      match t.guardStop with
      | some u => u
      | none =>
        if t.quiet t.curCore t.curSlot = false then t.parkRetry 4
        else if lv = 0 then t.arriveCore
        else if lv = 5 then t.park 6 (.barSent id.toNat none)
        else t.arriveAt lv.toNat id.toNat)

/-- R370: a package barrier that returns a release stamp; F_WIDEN, and no arrival, on a widened die. -/
def execSbar (d : Reg) (id : BitVec 6) (s : State) : Out :=
  if s.me.park = 6 then .next (s.barAgain 5 id.toNat (some d))
  else
    s.issue ⟨encode (.sbar d id), .user, false, [], [], [], some d⟩ (fun t =>
      match t.guardStop with
      | some u => u
      | none =>
        if t.widened (dieOf t.curCore) then t.fault .widen
        else if t.quiet t.curCore t.curSlot = false then t.parkRetry 4
        else (t.park 6 (.barSent id.toNat (some d))).modMe (fun x => { x with stampIn := false }))

/-! ## The cairn tree (R350, R370) -/

/-- R350, R370: the arrival that slot k of core c has sent is counted at the root; the last one takes r ← L of SD0 and releases 120 clk
later. The root keeps the stamp of the release before until then. -/
def State.countArrival (s : State) (c k : Nat) : State :=
  match (s.slot c k).pend with
  | .barSent id d =>
    let b := s.bar 5 0 id
    let t := s.modSlot c k (fun x => { x.setBgen (b.gen % 2 = 1) with pend := .barrier 5 0 id b.gen d })
    if b.count ≤ b.arr + 1 then
      let r := s.latest 4
      (t.setBar 5 0 id { b with gen := b.gen + 1, arr := 0 }).modPkg (fun p =>
        { p with rels := p.rels ++ [(id, b.gen, s.now + 120, r)] })
    else t.setBar 5 0 id { b with arr := b.arr + 1 }
  | _ => s

/-- R350, R370: an arrival reaches the root. -/
def execPkgBarrierArrival (core slot : Nat) (s : State) : Out :=
  .next (if (s.slot core slot).st = .parked then s.countArrival core slot else s)

/-- R293, R370: the release stamp fills the register of an `sbar` at which slot k of core c is STOPPED. -/
def State.stampFill (s : State) (c k : Nat) (d : Reg) (r : Nat) : State :=
  (s.modSlot c k (fun x => { x with pend := .none, stampIn := true })).fill c k d (wrap r)

/-- R182, R370: exactly 120 clk after the last arrival was counted, the slots of `bar.pkg` become ready, and those of `sbar`
whose die's E exceeds the stamp; the others wait on for it; one that is STOPPED takes the stamp in the same way (R293). The root keeps the
stamp. -/
def execPkgBarrierRelease (id : Nat) (s : State) : Out :=
  match s.pkg.rels.find? (fun r => r.1 = id && decide (r.2.2.1 ≤ s.now)) with
  | none => .next s
  | some rel =>
    let gen := rel.2.1
    let r := rel.2.2.2
    let t := (s.modPkg (fun p => { p with rels := p.rels.erase rel })).setBar 5 0 id { s.bar 5 0 id with stamp := r }
    .next (t.slots.foldl (fun u p =>
      let c := p.1 / 16
      let k := p.1 % 16
      match (u.slot c k).st, (u.slot c k).pend with
      | .parked, .barrier 5 _ n g none => if n = id ∧ g = gen then u.modSlot c k Slot.wakeNext else u
      | .parked, .barrier 5 _ n g (some d) =>
        if n = id ∧ g = gen then
          if r < s.earliest (dieOf c) then u.answer c k d (wrap r) else u.modSlot c k (fun x => { x with pend := .sbarRel d r s.now })
        else u
      | .stopped, .barrier 5 _ n g (some d) =>
        if n = id ∧ g = gen then
          if r < s.earliest (dieOf c) then u.stampFill c k d r else u.modSlot c k (fun x => { x with pend := .sbarRel d r s.now })
        else u
      | _, _ => u) t)

/-- R370: a slot in `sbar` is made ready with the stamp in g[d] once its own die's E exceeds the stamp; a STOPPED one takes the stamp
(R293). -/
def execSbarRelease (core slot : Nat) (s : State) : Out :=
  match (s.slot core slot).st, (s.slot core slot).pend with
  | .parked, .sbarRel d r _ =>
    if r < s.earliest (dieOf core) then .next (s.answer core slot d (wrap r)) else .next s
  | .stopped, .sbarRel d r _ =>
    if r < s.earliest (dieOf core) then .next (s.stampFill core slot d r) else .next s
  | _, _ => .next s

end Sys2Proof.Machine
end

