-- ==== Sys2Proof/Machine/Flags.lean ====
section
/-!
DEFINITION. The sticky float status of R20 and every computation of its bits: what a floating pattern means (R91 to R93), the one
rounding with its flags (R94, R100, R101), and the operations of IEEE 754 over it (R73 to R76, R118).
-/

namespace Sys2Proof.Machine

open Sys2Proof

/-! ## The bits of `k.fst` (Table 2.3) -/

/-- A set of sticky bits. -/
abbrev Fl := BitVec 5

/-- Nothing to set. -/
def flNone : Fl := 0
/-- Invalid. -/
def flNv : Fl := 1
/-- Overflow. -/
def flOf : Fl := 2
/-- Underflow: tiny and inexact. -/
def flUf : Fl := 4
/-- Inexact. -/
def flNx : Fl := 8
/-- A clamp by `.sat` or by a saturating conversion. -/
def flSat : Fl := 16
/-- A set that is empty unless `b`. -/
def flIf (b : Bool) (f : Fl) : Fl := if b then f else 0

/-! ## Exact values -/

/-- The exact value of an element: a NaN (signalling or not; NaL counts as quiet), an infinity, or
(-1)^neg × m × 2^e. -/
inductive Num where
  | nan (sig : Bool)
  | inf (neg : Bool)
  | fin (neg : Bool) (m : Nat) (e : Int)
  deriving DecidableEq, Repr

/-- The signed integer of a value times 2^(e - e0), for e0 at most e. -/
def scaleUp (neg : Bool) (m : Nat) (e e0 : Int) : Int :=
  let v := m * 2 ^ (e - e0).toNat
  if neg then -(v : Int) else (v : Int)

/-- Rounds m × 2^e to a multiple of 2^u: the number of units, and whether the result differs. `rz` truncates; otherwise to
nearest, ties to even (R94). -/
def roundAt (rz : Bool) (m : Nat) (e u : Int) : Nat × Bool :=
  if u ≤ e then (m * 2 ^ (e - u).toNat, false)
  else
    let k := (u - e).toNat
    let q := m / 2 ^ k
    let r := m % 2 ^ k
    let up := !rz && (decide (2 ^ k < 2 * r) || (decide (2 * r = 2 ^ k) && decide (q % 2 = 1)))
    (if up then q + 1 else q, decide (r ≠ 0))

/-! ## Floating formats (Tables 5.1 and 5.2) -/

/-- A floating format: widths of its fields, its bias, the largest finite pattern, whether it has infinities, its canonical
NaN. -/
structure Fmt where
  eb : Nat
  fb : Nat
  bias : Nat
  max : Nat
  hasInf : Bool
  nan : Nat
  deriving DecidableEq, Repr

/-- FP32. -/
def fmtF32 : Fmt := ⟨8, 23, 127, 0x7F7FFFFF, true, 0x7FC00000⟩
/-- FP16. -/
def fmtF16 : Fmt := ⟨5, 10, 15, 0x7BFF, true, 0x7E00⟩
/-- BF16. -/
def fmtBf16 : Fmt := ⟨8, 7, 127, 0x7F7F, true, 0x7FC0⟩
/-- E4M3. -/
def fmtE4 : Fmt := ⟨4, 3, 7, 0x7E, false, 0x7F⟩
/-- E5M2. -/
def fmtE5 : Fmt := ⟨5, 2, 15, 0x7B, true, 0x7E⟩

/-- The sign bit of a format, as a number. -/
def Fmt.signBit (f : Fmt) : Nat := 2 ^ (f.eb + f.fb)
/-- A pattern with a sign. -/
def Fmt.signed (f : Fmt) (neg : Bool) (p : Nat) : Nat := if neg then f.signBit + p else p
/-- The pattern of an infinity (IEEE formats). -/
def Fmt.infPat (f : Fmt) (neg : Bool) : Nat := f.signed neg (f.max + 1)

/-- What a pattern means (R91, R93). -/
def Fmt.decode (f : Fmt) (x : Nat) : Num :=
  let neg := decide (x / f.signBit % 2 = 1)
  let e := x / 2 ^ f.fb % 2 ^ f.eb
  let fr := x % 2 ^ f.fb
  if f.hasInf && e = 2 ^ f.eb - 1 then
    if fr = 0 then .inf neg else .nan (decide (fr < 2 ^ (f.fb - 1)))
  else if !f.hasInf && x % f.signBit = f.nan then .nan false
  else if e = 0 then .fin neg fr (1 - (f.bias : Int) - f.fb)
  else .fin neg (2 ^ f.fb + fr) ((e : Int) - f.bias - f.fb)

/-- R94, R100, R101: rounds (-1)^neg × m × 2^e to the format. Overflow gives an infinity (or, in E4M3, the canonical NaN), or
under `rz` or `sat` the largest finite value. -/
def Fmt.round (f : Fmt) (rz sat neg : Bool) (m : Nat) (e : Int) : Nat × Fl :=
  if m = 0 then (f.signed neg 0, flNone)
  else
    let top : Int := e + Nat.log2 m
    let emin : Int := 1 - (f.bias : Int)
    let lo : Int := emin - f.fb
    let u : Int := if top < emin then lo else top - f.fb
    let r := roundAt rz m e u
    let p := (u - lo).toNat * 2 ^ f.fb + r.1
    if f.max < p then
      let ovf := flOf ||| flNx
      if rz || sat then (f.signed neg f.max, ovf ||| flIf sat flSat)
      else if f.hasInf then (f.infPat neg, ovf)
      else (f.nan, ovf ||| flNv)
    else
      let free := roundAt rz m e (top - f.fb)
      let tiny := decide (top < emin) && !(decide (top + 1 = emin) && decide (free.1 = 2 ^ (f.fb + 1)))
      (f.signed neg p, flIf r.2 flNx ||| flIf (r.2 && tiny) flUf)

/-- A result of the format from an exact value: NaN results are canonical (R94). `nv` flags the operation itself. -/
def Fmt.result (f : Fmt) (nv : Bool) (x : Num) : Nat × Fl :=
  match x with
  | .nan _ => (f.nan, flIf nv flNv)
  | .inf neg => (if f.hasInf then f.infPat neg else f.nan, flIf nv flNv)
  | .fin neg m e => let r := f.round false false neg m e; (r.1, r.2 ||| flIf nv flNv)

/-! ## Operations (R73 to R76) -/

/-- Signalling. -/
def Num.sig : Num → Bool
  | .nan s => s
  | _ => false
/-- A NaN. -/
def Num.isNan : Num → Bool
  | .nan _ => true
  | _ => false
/-- The value with its sign inverted. -/
def Num.neg : Num → Num
  | .nan s => .nan s
  | .inf n => .inf (!n)
  | .fin n m e => .fin (!n) m e

/-- The exact sum, and whether it is invalid (∞ - ∞). An exact zero sum of operands of opposite sign is +0 (R73). -/
def Num.add (x y : Num) : Num × Bool :=
  match x, y with
  | .nan _, _ => (.nan false, false)
  | _, .nan _ => (.nan false, false)
  | .inf a, .inf b => if a = b then (.inf a, false) else (.nan false, true)
  | .inf a, .fin _ _ _ => (.inf a, false)
  | .fin _ _ _, .inf b => (.inf b, false)
  | .fin a m e, .fin b n d =>
    if m = 0 && n = 0 then (.fin (a && b) 0 0, false)
    else
      let e0 := if e ≤ d then e else d
      let v := scaleUp a m e e0 + scaleUp b n d e0
      (.fin (decide (v < 0)) v.natAbs e0, false)

/-- The exact product, and whether it is invalid (0 × ∞). -/
def Num.mul (x y : Num) : Num × Bool :=
  match x, y with
  | .nan _, _ => (.nan false, false)
  | _, .nan _ => (.nan false, false)
  | .inf a, .inf b => (.inf (a != b), false)
  | .inf a, .fin b n _ => if n = 0 then (.nan false, true) else (.inf (a != b), false)
  | .fin a m _, .inf b => if m = 0 then (.nan false, true) else (.inf (a != b), false)
  | .fin a m e, .fin b n d => (.fin (a != b) (m * n) (e + d), false)

/-- x < y on values that are no NaN; both zeros are equal. -/
def Num.lt (x y : Num) : Bool :=
  match x, y with
  | .nan _, _ => false
  | _, .nan _ => false
  | .inf a, .inf b => a && !b
  | .inf a, .fin _ _ _ => a
  | .fin _ _ _, .inf b => !b
  | .fin a m e, .fin b n d =>
    let e0 := if e ≤ d then e else d
    decide (scaleUp a m e e0 < scaleUp b n d e0)

/-- x = y on values that are no NaN. -/
def Num.eq (x y : Num) : Bool := !x.isNan && !y.isNan && !x.lt y && !y.lt x

/-- Whether the sign bit of a pattern is set. -/
def Fmt.isNeg (f : Fmt) (x : Nat) : Bool := decide (x / f.signBit % 2 = 1)

/-- Addition, rounded once. -/
def Fmt.add (f : Fmt) (x y : Nat) : Nat × Fl :=
  let a := f.decode x
  let b := f.decode y
  let r := a.add b
  f.result (a.sig || b.sig || r.2) r.1
/-- Subtraction. -/
def Fmt.sub (f : Fmt) (x y : Nat) : Nat × Fl :=
  let a := f.decode x
  let b := f.decode y
  let r := a.add b.neg
  f.result (a.sig || b.sig || r.2) r.1
/-- Multiplication. -/
def Fmt.mul (f : Fmt) (x y : Nat) : Nat × Fl :=
  let a := f.decode x
  let b := f.decode y
  let r := a.mul b
  f.result (a.sig || b.sig || r.2) r.1
/-- x × y + z with one rounding of the exact value. 0 × ∞ is invalid even when z is a quiet NaN (R74). -/
def Fmt.fma (f : Fmt) (x y z : Nat) : Nat × Fl :=
  let a := f.decode x
  let b := f.decode y
  let c := f.decode z
  let p := a.mul b
  let r := p.1.add c
  f.result (a.sig || b.sig || c.sig || p.2 || r.2) r.1

/-- R75: the smaller (or larger) operand unchanged; -0 is less than +0; a lone NaN yields the other operand. -/
def Fmt.minmax (f : Fmt) (larger : Bool) (x y : Nat) : Nat × Fl :=
  let a := f.decode x
  let b := f.decode y
  let nv := flIf (a.sig || b.sig) flNv
  if a.isNan && b.isNan then (f.nan, nv)
  else if a.isNan then (y, nv)
  else if b.isNan then (x, nv)
  else
    let less := a.lt b || (a.eq b && f.isNeg x && !f.isNeg y)
    (if less != larger then x else y, nv)

/-- The relations of R76. -/
inductive FRel where
  | eq | lt | le | un
  deriving DecidableEq, Repr

/-- R76: a relation and its flags: a signalling NaN sets nv, and so does any NaN in `lt` and `le`. -/
def Fmt.rel (f : Fmt) (r : FRel) (x y : Nat) : Bool × Fl :=
  let a := f.decode x
  let b := f.decode y
  let nan := a.isNan || b.isNan
  let sig := a.sig || b.sig
  match r with
  | .eq => (a.eq b, flIf sig flNv)
  | .lt => (a.lt b, flIf nan flNv)
  | .le => (!nan && !b.lt a, flIf nan flNv)
  | .un => (nan, flIf sig flNv)

/-- `vabs` and `vneg` (R118): a NaN gives the canonical NaN, a signalling one sets nv. -/
def Fmt.signOp (f : Fmt) (negate : Bool) (x : Nat) : Nat × Fl :=
  let a := f.decode x
  if a.isNan then (f.nan, flIf a.sig flNv)
  else (f.signed (negate && !f.isNeg x) (x % f.signBit), flNone)

end Sys2Proof.Machine
end

