-- ==== Sys2Proof/Machine/Numbers.lean ====
section
/-!
DEFINITION. The ten element types (R46), log6 (R95, R96), every conversion (R98 to R103), and the products and sums of the exact
accumulator and of the FP32 path (R104 to R112).
-/

namespace Sys2Proof.Machine

open Sys2Proof

/-! ## Element types (R46) -/

/-- The element types, in the order of their codes. -/
inductive ETy where
  | i8 | i16 | i32 | i64 | f32 | f16 | bf16 | e4 | e5 | l6
  deriving DecidableEq, Repr

/-- R46: the type of a code. -/
def ETy.ofCode (c : Nat) : ETy :=
  match c with
  | 0 => .i8
  | 1 => .i16
  | 2 => .i32
  | 3 => .i64
  | 4 => .f32
  | 5 => .f16
  | 6 => .bf16
  | 7 => .e4
  | 8 => .e5
  | _ => .l6

/-- The element bits of Table 6.1. -/
def ETy.width : ETy → Nat
  | .i8 => 8 | .i16 => 16 | .i32 => 32 | .i64 => 64 | .f32 => 32 | .f16 => 16 | .bf16 => 16 | .e4 => 8 | .e5 => 8 | .l6 => 6

/-- Whether the type is an integer type. -/
def ETy.isInt : ETy → Bool
  | .i8 => true | .i16 => true | .i32 => true | .i64 => true | _ => false

/-- The floating format of a type (FP32 for a type that has none). -/
def ETy.fmt : ETy → Fmt
  | .f16 => fmtF16 | .bf16 => fmtBf16 | .e4 => fmtE4 | .e5 => fmtE5 | _ => fmtF32

/-- The signed value of the low w bits. -/
def toSigned (w x : Nat) : Int :=
  let v := x % 2 ^ w
  if v < 2 ^ (w - 1) then (v : Int) else (v : Int) - 2 ^ w

/-- The low w bits of an integer (R90). -/
def toBits (w : Nat) (v : Int) : Nat := (v % (2 ^ w : Nat)).toNat

/-! ## log6 (R95) -/

/-- T[f] (Table 5.3). -/
def logT (f : Nat) : Nat :=
  match f with
  | 0 => 32768
  | 1 => 38968
  | 2 => 46341
  | _ => 55109

/-- The m of a log6 code: bits 4:0 as a two's-complement integer. -/
def logM (x : Nat) : Int := toSigned 5 x

/-- Whether a code is NaL. -/
def isNal (x : Nat) : Bool := decide (x % 64 = 0x30)
/-- Whether a code is zero. -/
def isLogZero (x : Nat) : Bool := decide (x % 64 = 0x10)

/-- V(m) × 2^19 as an integer, for m from -15 to 15 (R95). -/
def logV (m : Int) : Nat := logT (m % 4).toNat * 2 ^ (m / 4 + 4).toNat

/-- The value of a log6 code: ±V(m), zero, or NaL. -/
def logDecode (x : Nat) : Num :=
  if isNal x then .nan false
  else if isLogZero x then .fin false 0 0
  else .fin (decide (x / 32 % 2 = 1)) (logV (logM x)) (-19)

/-- The code of ±V(m). -/
def logCode (neg : Bool) (m : Int) : Nat := (if neg then 32 else 0) + toBits 5 m

/-- Compares m × 2^e with n × 2^d. -/
def cmpScaled (m : Nat) (e : Int) (n : Nat) (d : Int) : Ordering :=
  if d ≤ e then compare (m * 2 ^ (e - d).toNat) n else compare m (n * 2 ^ (d - e).toNat)

/-- R102: the greatest m with V(m) at most |x|, or the nearest with ties to the even m; -16 stands for zero. -/
def logNearest (rz : Bool) (m : Nat) (e : Int) : Int :=
  (List.range 31).foldl (fun acc i =>
    let k : Int := (i : Int) - 15
    if rz then (if cmpScaled m e (logV k) (-19) = .lt then acc else k)
    else
      let mid := if i = 0 then logV k else logV (k - 1) + logV k
      match cmpScaled m e mid (-20) with
      | .lt => acc
      | .gt => k
      | .eq => if i ≠ 0 ∧ k % 2 = 0 then k else acc) (-16)

/-- R102: rounds a finite value to log6. -/
def logRound (rz sat neg : Bool) (m : Nat) (e : Int) : Nat × Fl :=
  if m = 0 then (0x10, flNone)
  else
    let ovf := if rz then cmpScaled m e (logV 15) (-19) = .gt else cmpScaled m e 118986 (-13) ≠ .lt
    if ovf then
      if sat then (logCode neg 15, flOf ||| flNx ||| flSat)
      else if rz then (logCode neg 15, flOf ||| flNx)
      else (0x30, flNv ||| flOf ||| flNx)
    else
      let k := logNearest rz m e
      if k = -16 then (0x10, flUf ||| flNx)
      else (logCode neg k, flIf (decide (cmpScaled m e (logV k) (-19) ≠ .eq)) flNx)

/-! ## Conversions (R98 to R103) -/

/-- The exact value of an element. -/
def ETy.decode (t : ETy) (x : Nat) : Num :=
  if t.isInt then
    let v := toSigned t.width x
    .fin (decide (v < 0)) v.natAbs 0
  else if t = .l6 then logDecode x
  else t.fmt.decode (x % 2 ^ t.width)

/-- R99: a value to an integer of w bits. -/
def toInteger (w : Nat) (rz : Bool) (x : Num) : Nat × Fl :=
  let hi : Int := 2 ^ (w - 1) - 1
  let lo : Int := -(2 ^ (w - 1))
  match x with
  | .nan _ => (0, flNv ||| flSat)
  | .inf neg => (toBits w (if neg then lo else hi), flNv ||| flSat)
  | .fin neg m e =>
    let r := roundAt rz m e 0
    let v : Int := if neg then -(r.1 : Int) else (r.1 : Int)
    if hi < v then (toBits w hi, flNv ||| flSat)
    else if v < lo then (toBits w lo, flNv ||| flSat)
    else (toBits w v, flIf r.2 flNx)

/-- R90: an integer brought to w bits, kept or clamped. -/
def intTo (w : Nat) (sat : Bool) (v : Int) : Nat × Fl :=
  let hi : Int := 2 ^ (w - 1) - 1
  let lo : Int := -(2 ^ (w - 1))
  if sat && decide (hi < v) then (toBits w hi, flSat)
  else if sat && decide (v < lo) then (toBits w lo, flSat)
  else (toBits w v, flNone)

/-- R100, R101, R103: a value to a floating format. -/
def toFloat (f : Fmt) (rz sat : Bool) (x : Num) : Nat × Fl :=
  match x with
  | .nan sig => (f.nan, flIf sig flNv)
  | .inf neg =>
    if f.hasInf then (f.infPat neg, flNone)
    else if sat then (f.signed neg f.max, flNx ||| flSat)
    else (f.nan, flNv)
  | .fin neg m e => f.round rz sat neg m e

/-- R102, R103: a value to log6. -/
def toLog (rz sat : Bool) (x : Num) : Nat × Fl :=
  match x with
  | .nan sig => (0x30, flIf sig flNv)
  | .inf neg => if sat then (logCode neg 15, flNx ||| flSat) else (0x30, flNv)
  | .fin neg m e => logRound rz sat neg m e

/-- An exact value to an element type. -/
def ETy.encode (t : ETy) (rz sat : Bool) (x : Num) : Nat × Fl :=
  if t.isInt then toInteger t.width rz x
  else if t = .l6 then toLog rz sat x
  else toFloat t.fmt rz sat x

/-- R98, Table 5.4: a conversion between two element types. -/
def convert (src dst : ETy) (rz sat : Bool) (x : Nat) : Nat × Fl :=
  if src.isInt && dst.isInt then intTo dst.width sat (toSigned src.width x)
  else dst.encode rz sat (src.decode x)

/-! ## The integer path (R104 to R107) -/

/-- A term of an accumulator element: an integer with its range flag, or INVALID. -/
inductive Term where
  | invalid
  | val (v : Int) (range : Bool)
  deriving DecidableEq, Repr

/-- A product's magnitude, sign and alignment to the accumulator: floor toward minus infinity below the least significant bit,
saturation at ±(2^42 - 1) with the range flag. -/
def alignTerm (v : Int) (sh : Int) : Term :=
  let t : Int := if 0 ≤ sh then v * 2 ^ sh.toNat else v / 2 ^ (-sh).toNat
  let lim : Int := 2 ^ 42 - 1
  if lim < t then .val lim true
  else if t < -lim then .val (-lim) true
  else .val t false

/-- R104: a log6 × log6 term. -/
def logTerm (a b ca cb : Nat) (ebase : Int) : Term :=
  if isNal a || isNal b || ca = 255 || cb = 255 then .invalid
  else if isLogZero a || isLogZero b then .val 0 false
  else
    let q := logM a + logM b
    let i := q / 4
    let mag : Int := logT (q % 4).toNat
    let v := if (a / 32 + b / 32) % 2 = 1 then -mag else mag
    alignTerm v (i + ca + cb - ebase - 229)

/-- R106: an INT8 × INT8 term. -/
def intTerm (a b ca cb : Nat) (ebase : Int) : Term :=
  if ca = 255 || cb = 255 then .invalid
  else alignTerm (toSigned 8 a * toSigned 8 b) ((ca : Int) + cb - 254 - ebase + 40)

/-! ## The FP32 path (R110 to R112) -/

/-- A product of R110, as an FP32 pattern with its flags: both elements at their exact values, scaled, multiplied exactly and
rounded once. -/
def floatProduct (ta tb : ETy) (a b ca cb : Nat) : Nat × Fl :=
  let x := ta.decode a
  let y := tb.decode b
  let nv := x.sig || y.sig
  if x.isNan || y.isNan || ca = 255 || cb = 255 then (fmtF32.nan, flIf nv flNv)
  else
    let p := x.mul y
    match p.1 with
    | .fin neg m e => let r := fmtF32.round false false neg m (e + ca + cb - 254); (r.1, r.2)
    | v => fmtF32.result p.2 v

/-- One level of the tree of R111: where one partner of a pair is absent, the other passes. -/
def treeLevel : List (Option Nat) → List (Option Nat) × Fl
  | a :: b :: t =>
    let rest := treeLevel t
    match a, b with
    | some x, some y => let r := fmtF32.add x y; (some r.1 :: rest.1, r.2 ||| rest.2)
    | some x, none => (some x :: rest.1, rest.2)
    | none, some y => (some y :: rest.1, rest.2)
    | none, none => (none :: rest.1, rest.2)
  | [a] => ([a], flNone)
  | [] => ([], flNone)

/-- `n` levels of the tree. -/
def treeLevels : Nat → List (Option Nat) → List (Option Nat) × Fl
  | 0, l => (l, flNone)
  | n + 1, l =>
    let a := treeLevel l
    let b := treeLevels n a.1
    (b.1, a.2 ||| b.2)

/-- R111: the slice sum of 32 products, absent if every position is. -/
def sliceSum (l : List (Option Nat)) : Option Nat × Fl :=
  let r := treeLevels 5 l
  ((r.1.head?).getD none, r.2)

end Sys2Proof.Machine
end

