-- ==== Sys2Proof/Machine/Jobs.lean ====
section
/-!
DEFINITION. Jobs of the matrix engines and copy units up to their start (R240 to R244, R249, R250, R273 to R278, R281), the memory
accesses of a running job (R255), and scale blocks (R282).
-/

namespace Sys2Proof.Machine

open Sys2Proof

/-! ## Units, identifiers (R240, R243) -/

/-- R240: the edge of an engine. -/
def edgeOf (cluster : Nat) : Nat := if cluster < 256 then 256 else 128
/-- The die of a cluster. -/
def clusterDie (cluster : Nat) : Nat := dieOfTile (cluster / 4)
/-- The matrix engine or the copy unit of a cluster. -/
def State.unit (s : State) (cluster : Nat) (copy : Bool) : Unit_ :=
  if copy then (s.cluster cluster).cp else (s.cluster cluster).mx
/-- Changes the matrix engine or the copy unit of a cluster. -/
def State.modUnit (s : State) (cluster : Nat) (copy : Bool) (f : Unit_ → Unit_) : State :=
  s.modCluster cluster (fun x => if copy then { x with cp := f x.cp } else { x with mx := f x.mx })
/-- How many sequence numbers there are (R243). -/
def seqRange : Nat := 2 ^ 22 - 1
/-- R243: the sequence number of the n-th acceptance of a target. -/
def seqNumber (n : Nat) : Nat := (n - 1) % seqRange + 1
/-- R243: the identifier of the n-th job accepted by a target. -/
def jobId (cluster : Nat) (copy : Bool) (n : Nat) : Nat :=
  cluster * 2 ^ 23 + (if copy then 2 ^ 22 else 0) + seqNumber n

/-! ## Descriptors (R274 to R276) -/

/-- R275, R276: an address inside a descriptor is a core-window address or a translated one. -/
def descAddrOk (va : Word) : Bool :=
  match region (2 ^ 13) va with
  | .window _ _ => true
  | .translated => true
  | _ => false

/-- Doubleword i of a descriptor. -/
def dwAt (dws : List Word) (i : Nat) : Word := dws.getD i 0

/-- R275: whether a matrix descriptor keeps to its limits; `d` is the submitting instruction's destination. B may lie in a core window, as every
address of a descriptor may (R274; R247 speaks of translated memory: DESIGN CHOICE, log entry 77). -/
def matrixDescOk (cluster : Nat) (d : Reg) (dws : List Word) : Bool :=
  let w (i : Nat) : Word := dwAt dws i
  let creg := bits (w 0) 35 4
  let k := bits (w 1) 16 21
  let n := bits (w 1) 0 9
  let rmask := bits (w 5) 44 4
  bits (w 0) 32 3 = 0 && bits (w 0) 0 15 = 0 && decide (bits (w 0) 16 2 ≤ 1) && !(creg ≠ 0 && creg = d.toNat) &&
  bits (w 1) 37 11 = 0 && bits (w 1) 9 7 = 0 && decide (1 ≤ k) && decide (k ≤ 2 ^ 20) && decide (1 ≤ n) && decide (n ≤ edgeOf cluster) &&
  bits (w 2) 50 14 = 0 && bits (w 2) 18 14 = 0 && bits (w 2) 32 18 % 64 = 0 && bits (w 2) 0 18 % 64 = 0 &&
  descAddrOk (w 3) && bits (w 5) 0 44 = 0 && (rmask = 0 || rmask.testBit (cluster % 4)) &&
  (w 6).toNat % 16 = 0 && descAddrOk (w 6) && (bits (w 0) 20 3 = 0 || descAddrOk (w 7)) &&
  (List.range' 9 5).all (fun i => w i = 0)

/-- R276: whether a copy descriptor keeps to its limits for its kind. -/
def copyDescOk (kind : Nat) (d : Reg) (dws : List Word) : Bool :=
  let w (i : Nat) : Word := dwAt dws i
  let creg := bits (w 0) 35 4
  let esize := 2 ^ bits (w 0) 18 2
  let kw := w 5
  bits (w 0) 32 3 = 0 && bits (w 0) 20 3 = 0 && bits (w 0) 0 14 = 0 && !(creg ≠ 0 && creg = d.toNat) &&
  descAddrOk (w 1) && descAddrOk (w 2) && (List.range' 6 8).all (fun i => w i = 0) &&
  (match kind with
   | 0 => decide (bits (w 0) 14 4 ≤ 13) && (w 3).toNat % 16 = 0 && descAddrOk (w 3) && w 4 = 0 && kw = 0
   | 1 => (w 3).toNat % 4 = 0 && descAddrOk (w 3) && bits kw 56 8 = 0 && bits kw 0 32 ≠ 0 && bits kw 0 32 % esize = 0
   | 2 => (w 3).toNat % 4 = 0 && descAddrOk (w 3) && bits kw 56 8 = 0 && bits kw 0 32 ≠ 0 && bits kw 0 32 % esize = 0
   | 3 => bits (w 3) 32 32 = 0 && bits (w 3) 0 32 ≠ 0 && w 4 = 0 && kw = 0
   | 4 => bits (w 3) 32 32 = 0 && bits (w 3) 0 32 ≠ 0 && w 4 = 0 && bits kw 1 63 = 0
   | _ => bits (w 3) 32 32 = 0 && bits (w 3) 0 32 ≠ 0 && w 4 = 0 && decide (bits kw 60 4 ≤ 9) && decide (bits kw 56 4 ≤ 9) &&
     bits kw 60 4 ≠ bits kw 56 4 && bits kw 52 2 ≠ 3 && bits kw 48 4 = 0 && bits kw 0 32 = 0)

/-! ## Capabilities and acceptance (R241, R242, Tables 14.1 and 14.2) -/

/-- The capability table entry of a cluster. -/
def State.capEntry (s : State) (cluster n : Nat) : Word := Tab.get 0 (s.cluster cluster).caps n

/-- Table 14.2, checks 3 to 6: the code of the first that fails. `wellFormed`: the word's must-be-zero bits are zero. -/
def State.capCheck (s : State) (cluster : Nat) (cap : Word) (wellFormed : Bool) (tenant : BitVec 8) (owner : Word) (right : Nat) :
    Option Nat :=
  let e := s.capEntry cluster (bits cap 0 6)
  if !wellFormed || !bit e 63 || bits e 0 32 ≠ bits cap 32 32 then some 3
  else if bits e 40 8 ≠ tenant.toNat then some 4
  else if !bit e (48 + right) then some 5
  else if (List.range 8).any (fun i => (s.core (8 * cluster + i)).owner ≠ owner) then some 6
  else none

/-- R249: whether the scale ranges of a job stay within the store. -/
def scalesOk (copy : Bool) (fn : Nat) (dws : List Word) : Bool :=
  let w (i : Nat) : Word := dwAt dws i
  if copy then
    fn ≠ 5 || bits (w 5) 52 2 = 0 || decide (bits (w 5) 32 16 + ceilDiv (bits (w 3) 0 32) 32 ≤ 65536)
  else
    bits (w 0) 16 2 = 0 ||
      (decide (bits (w 4) 32 16 + ceilDiv (bits (w 1) 16 21) 32 ≤ 65536) && decide (bits (w 4) 48 16 + ceilDiv (bits (w 1) 16 21) 32 ≤ 65536))

/-- R249, R250: n codes of a cluster's scale store from an index. -/
def State.scaleCodes (s : State) (cluster idx n : Nat) : List Byte :=
  (List.range n).map (fun i => Tab.get (127 : Byte) (s.cluster cluster).scale (idx + i))

/-- The flags of a job's status word (Table 14.5, bits 14:8): range, nv, of, uf, nx, sat, guard. -/
abbrev JobFl := BitVec 8
/-- range. -/
def jflRange : JobFl := 1
/-- guard. -/
def jflGuard : JobFl := 64
/-- Sticky float flags in their places. -/
def jflOf (f : Fl) : JobFl := f.zeroExtend 8 <<< 1

/-! ## `mxq`, `cpq` (R277, R278) -/

/-- R242: a refusal in the submitter's own hands: g[d] ← 0, `k.fault` ← code, next word. -/
def State.refuseJob (s : State) (srcs : List Reg) (d : Reg) (code : Nat) : State :=
  ((((s.take srcs).put d 0 (s.now + 1))).modMe (fun x => { x with fault := wrap code })).advance

/-- R273, R277: the slot waits for the walk of a descriptor's address. -/
def State.descWalk (s : State) (srcs : List Reg) (d : Reg) (va : Word) (wr : Bool) : State :=
  (s.startWalk va (.desc d) true wr).modMe (fun x => { x with popDue := s.pops srcs })

/-- R242, R274, Table 14.2, check 1: whether a location may hold a line of a descriptor of the slot whose turn it is. -/
def State.descPlace (s : State) (va : Word) (l : Loc) : Bool := plainTy l.ty && (s.targetCheck va l).isNone

/-- R277: the descriptor's two lines, its target, then the request is sent. -/
def State.sendJob (t : State) (copy : Bool) (fn : Nat) (srcs : List Reg) (d : Reg) (va cap : Word) : State :=
  match t.find t.curCore t.me va true true, t.find t.curCore t.me (va + 64) true true with
  | .ok l1, .ok l2 =>
    if t.descPlace va l1 = false || t.descPlace (va + 64) l2 = false then t.refuseJob srcs d 1
    else if t.reachable l1 = false then t.parkRetry 3
    else if t.badWord l1.key then t.fault .data va
    else
      let u := t.touch t.curCore t.curSlot l1.key 8
      let cluster := bits (t.wordAs (t.cipherKey t.curCore) l1.key) 23 9
      if 383 < cluster then u.refuseJob srcs d 2
      else u.parkOn (t.pops srcs) 3 (.jobReq copy fn d va l1 l2 cap cluster)
  | .walk, _ => t.descWalk srcs d va true
  | .ok l1, .walk => if t.descPlace va l1 then t.descWalk srcs d (va + 64) true else t.refuseJob srcs d 1
  | _, _ => t.refuseJob srcs d 1

/-- R277: release at die scope; the read of the first doubleword, for which an absent page waits; then alignment and the rest of check 1
of Table 14.2. -/
def submitJob (i : Instr) (copy : Bool) (fn : Nat) (d a b : Reg) (s : State) : Out :=
  let srcs := [a, b]
  s.issue ⟨encode i, .user, false, [], [], srcs, some d⟩ (fun t =>
    if t.me.buf.isEmpty = false then t.parkRetry 4
    else if t.quiet t.curCore t.curSlot = false then t.parkRetry 3
    else
      let va := t.src a
      if va.toNat % 8 ≠ 0 then t.refuseJob srcs d 1
      else
        match t.find t.curCore t.me va true false with
        | .walk => t.descWalk srcs d va false
        | .ok _ => if va.toNat % 64 ≠ 0 then t.refuseJob srcs d 1 else t.sendJob copy fn srcs d va (t.src b)
        | _ => t.refuseJob srcs d 1)

/-- R277. -/
def execMxq (d a b : Reg) (p : BitVec 3) (s : State) : Out := submitJob (.mxq d a b p) false p.toNat d a b s
/-- R277. -/
def execCpq (d a b : Reg) (k : BitVec 3) (s : State) : Out := submitJob (.cpq d a b k) true k.toNat d a b s

/-- The memory keys of doublewords 0 to 13 of a descriptor, whose lines lie at two places. -/
def descKeys (l1 l2 : Loc) : List Nat := (List.range 14).map (fun i => if i < 8 then l1.key + 8 * i else l2.key + 8 * (i - 8))

/-- R242: the target reads the descriptor, checks the request in the order of Table 14.2 and accepts or refuses it, one acceptance in a
cycle; scale writes of the cycle come after it (R250). A descriptor in a guard granule sets the job's guard flag (R198). A doubleword with an uncorrectable error is reported to the submitter as an error
of its own read is (R298: DESIGN CHOICE, log entry 67); a line in a package that has left the pod cannot be reached (R355). -/
def execJobRequest (core slot : Nat) (s : State) : Out :=
  let x := s.slot core slot
  match x.st, x.pend with
  | .parked, .jobReq copy fn d ea l1 l2 cap cluster =>
    let u := s.unit cluster copy
    if u.accCyc = s.now + 1 || (s.cluster cluster).touchCyc = s.now + 1 || !s.reachable l1 || !s.reachable l2 then .next s
    else
      let ck := s.cipherKey core
      let owner := (s.core core).owner
      let keys := descKeys l1 l2
      let dws := keys.map (s.wordAs ck)
      let answer (a : JobAns) (t : State) : State := t.modSlot core slot (fun y => { y with pend := .jobAns d copy cluster a })
      let refuse (code : Nat) : Out := .next (answer (.refused code) s)
      if (s.lostPlace l1 ea).isSome || (s.lostPlace l2 ea).isSome then refuse 1
      else
      match keys.findIdx? s.badWord with
      | some i => .next (s.takeFault core slot .data (ea + wrap (8 * i)))
      | none =>
      if (if copy then copyDescOk fn d dws else matrixDescOk cluster d dws) = false then refuse 2
      else
        match s.capCheck cluster cap (decide (bits cap 6 26 = 0)) x.tenant owner (if copy then 1 else 0) with
        | some code => refuse code
        | none =>
          if scalesOk copy fn dws = false then refuse 7
          else if 32 ≤ u.jobs.length then refuse 8
          else
            let n := u.issued + 1
            let w (i : Nat) : Word := dwAt dws i
            let blocks := ceilDiv (bits (w 1) 16 21) 32
            let j : Job :=
              { seq := n, fn := fn, dws := dws, line1 := l1, line2 := l2, tenant := x.tenant, owner := owner, ckey := ck, core := core
                slot := slot, claim := x.claims, creg := BitVec.ofNat 4 (bits (w 0) 35 4), tile := if copy then 2 else bits (w 0) 19 1
                scaleA :=
                  if copy then (if fn = 5 && bits (w 5) 52 2 ≠ 0 then s.scaleCodes cluster (bits (w 5) 32 16) (ceilDiv (bits (w 3) 0 32) 32) else [])
                  else if bits (w 0) 16 2 = 1 then s.scaleCodes cluster (bits (w 4) 32 16) blocks else []
                scaleB := if !copy && bits (w 0) 16 2 = 1 then s.scaleCodes cluster (bits (w 4) 48 16) blocks else []
                mayPost := bit (w 0) 39 && bit (s.capEntry cluster (bits cap 0 6)) 51
                recWords := [], pos := 0, fl := if keys.any s.guardKey then jflGuard else 0, last := 0, stage := .queued, pageWait := false, ring := [], bs := [] }
            .next (answer (.accepted (jobId cluster copy n) j.creg) (s.modUnit cluster copy (fun v =>
              { v with jobs := v.jobs ++ [j], issued := n, past := (x.tenant :: v.past).take (2 ^ 21), accCyc := s.now + 1 })))
  | _, _ => .next s

/-- R277: the answer is applied: g[d] takes the identifier, in the same cycle as the completion register becomes empty; or 0, with
the code in `k.fault`. -/
def execJobAnswer (core slot : Nat) (s : State) : Out :=
  match (s.slot core slot).st, (s.slot core slot).pend with
  | .parked, .jobAns d _ _ (.accepted id creg) =>
    .next ((s.modSlot core slot (·.setFull creg.toNat false)).answer core slot d (wrap id))
  | .parked, .jobAns d _ _ (.refused code) =>
    .next ((s.modSlot core slot (fun x => { x with fault := wrap code })).answer core slot d 0)
  | _, _ => .next s

/-! ## `jwait`, `jpoll` (R279, R281) -/

/-- R281: 0 pending, 1 complete, 2 for what names no job of the tenant. -/
def State.jobStatus (s : State) (tenant : BitVec 8) (id : Word) : Nat :=
  let cluster := bits id 23 9
  let u := s.unit cluster (bit id 22)
  let seq := bits id 0 22
  if bits id 32 32 ≠ 0 || 383 < cluster || seq = 0 || u.issued = 0 then 2
  else
    let age := (u.issued % seqRange + 2 * seqRange - seq) % seqRange
    if 2 ^ 21 ≤ age || u.issued ≤ age || u.past.getD age 0 ≠ tenant then 2
    else if u.issued - age ≤ u.through_ then 1 else 0

/-- R281: parks with park 5 until the job is complete. -/
def execJwait (a : Reg) (s : State) : Out :=
  s.issue ⟨encode (.jwait a), .user, false, [], [], [a], none⟩ (fun t =>
    if t.jobStatus t.me.tenant (t.src a) = 0 then t.parkOn (t.pops [a]) 5 (.jwait (t.src a)) else (t.take [a]).advance)

/-- R281: asks the job's target, and parks with park 3 for its answer. -/
def execJpoll (d a : Reg) (s : State) : Out :=
  s.issue ⟨encode (.jpoll d a), .user, false, [], [], [a], some d⟩ (fun t =>
    t.parkOn (t.pops [a]) 3 (.asked (.jpoll d (t.src a))))

/-! ## `scls` (R250, R282) -/

/-- R282: the checks in order; the codes are read through the slot's buffered stores and sent. -/
def execScls (a b : Reg) (s : State) : Out :=
  let srcs := [a, b]
  s.issue ⟨encode (.scls a b), .user, false, [], [], srcs, none⟩ (fun t =>
    let c := t.curCore
    let w := t.src b
    let mask := bits w 0 4
    let named := (List.range 4).filter (fun i => mask.testBit i)
    let tile := tileOf c
    if isCompute c = false || c % 8 ≠ (t.cluster (clusterOf c)).sserv.toNat || bits w 26 38 ≠ 0 || bits w 4 12 ≠ 0 || mask = 0 then
      t.fault .scale
    else
      match region c (t.src a) with
      | .localMem o =>
        if o % 64 ≠ 0 then t.fault .align (t.src a)
        else
          match (named.flatMap (fun i => (List.range 8).map (fun j => 8 * (4 * tile + i) + j))).find?
              (fun n => (t.core n).owner ≠ (t.core c).owner) with
          | some n => t.fault .target 0 (wrap n)
          | none =>
            match (List.range 8).find? (fun i => t.loadBad c t.curSlot (lmemKey c (o + 8 * i)) 8) with
            | some i => t.fault .data (wordAddr (t.src a + wrap (8 * i)))
            | none =>
              let codes := (List.range 64).map (fun i =>
                BitVec.ofNat 8 (t.slotLoad c t.curSlot (t.cipherKey c) (lmemKey c (o + i)) 1).toNat)
              (t.touch c t.curSlot (lmemKey c o) 64).parkOn (t.pops srcs) 3 (.scls mask (bits w 16 10) codes)
      | _ => t.fault .addr (t.src a))

/-- R250, R282: the codes reach every named engine's scale store whole. -/
def execScaleStoreWrite (core slot : Nat) (s : State) : Out :=
  match (s.slot core slot).st, (s.slot core slot).pend with
  | .parked, .scls mask block codes =>
    let t := ((List.range 4).filter (fun i => mask.testBit i)).foldl (fun u i =>
      u.modCluster (4 * tileOf core + i) (fun x =>
        { x with
          scale := (List.range 64).foldl (fun tab k => Tab.set (127 : Byte) tab (64 * block + k) (codes.getD k 127)) x.scale
          touchCyc := s.now + 1 })) s
    .next (t.goOn core slot)
  | _, _ => .next s

/-! ## A running job's memory (R244, R255, R257, R258) -/

/-- A job at work: the machine, its flags so far, the last address it wrote, whether no part that follows writes the word of an address (so
that this is the job's last write to it, R253), where a soft error is to end it (R294) the writes that it still makes before that and the error's
location, and the slices of B that it has (R247). -/
structure Work where
  s : State
  fl : JobFl
  last : Word
  lastTo : Word → Bool
  cut : Option (Nat × Nat)
  bs : List (Nat × List (List Nat))

/-- What a part of a job's work ends with: done; an access that waits for a page; an access that waits for a stopped core; the job's end
with a code, a detail and a faulting address. -/
inductive Run (α : Type) where
  | ok (w : Work) (v : α)
  | wait
  | hold
  | fail (w : Work) (code detail : Nat) (faddr : Word)

/-- One part of the work after another. -/
def Run.bind {α β : Type} (r : Run α) (f : Work → α → Run β) : Run β :=
  match r with
  | .ok w v => f w v
  | .wait => .wait
  | .hold => .hold
  | .fail w c d a => .fail w c d a

/-- The parts of a list one after another; the answers in order. -/
def runList {α β : Type} (f : Work → α → Run β) : List α → Work → Run (List β)
  | [], w => .ok w []
  | x :: t, w => (f w x).bind (fun w1 v => (runList f t w1).bind (fun w2 l => .ok w2 (v :: l)))

/-- What a unit's soft error of a memory word that it reads is located at (R294): the copy buffer, an operand latch. -/
def Job.errDetail (j : Job) : Nat := if j.tile = 2 then 4 else 2

/-- R255: where a job's access at an address leads, in user mode whoever submitted it (DESIGN CHOICE, log entry 77). An absent page is waited for, and a replicated page that is written is collapsed first
(R199). Every other failure of translation ends the job, one of stage 2 included; so do a device page, and a stamped one that is written
(R360). A table word with an uncorrectable error ends it as R294 states. -/
def Work.loc (w : Work) (j : Job) (va : Word) (rd wr : Bool) : Run Loc :=
  let bad : Run Loc := .fail w 2 0 va
  let held (l : Loc) : Run Loc := if w.s.reachable l then .ok w l else .hold
  match region (2 ^ 13) va with
  | .window n o =>
    if (w.s.core n).owner ≠ j.owner || (w.s.core n).wten ≠ j.tenant || (w.s.core n).health = .retired then bad
    else held ⟨lmemKey n o, .lmem n, .normal, false, true⟩
  | .translated =>
    match w.s.resolveVa (dieOf j.core) j.tenant va false rd wr with
    | .absent => .wait
    | .data => .fail w 6 j.errDetail w.last
    | .fault _ => bad
    | .walk => bad
    | .stage2 => bad
    | .ok l =>
      if l.ty = .device || (wr && l.ty = .stamped) then bad
      else if wr && l.rp then .wait
      else .ok w l
  | _ => bad

/-- R198: a touched guard granule sets the guard flag. -/
def Work.touch (w : Work) (key : Nat) : Work := if w.s.guardKey key then { w with fl := w.fl ||| jflGuard } else w

/-- One byte read by a job; a word with an uncorrectable error ends it with DATA_ERROR (R294, R298). -/
def Work.readByte (w : Work) (j : Job) (va : Word) : Run Nat :=
  (w.loc j va true false).bind (fun w1 l =>
    if w1.s.badWord l.key then .fail w1 6 j.errDetail w1.last
    else
      let v := if l.ty = .stamped then w1.s.stampedLoad j.ckey l 1 else w1.s.memLoad j.ckey l.key 1
      .ok (w1.touch l.key) v.toNat)

/-- n bytes from an address, as a little-endian number. -/
def Work.read (w : Work) (j : Job) (va : Word) (n : Nat) : Run Nat :=
  (runList (fun u i => u.readByte j (va + wrap i)) (List.range n) w).bind (fun u l =>
    .ok u (l.foldr (fun b a => b + 256 * a) 0))

/-- R211, R253: bytes of a job that lie in one word are written; the job's last write to a word with a full/empty bit sets it full. -/
def Work.put (w : Work) (j : Job) (va : Word) (n : Nat) (v : Word) : Run Unit :=
  (w.loc j va false true).bind (fun u l =>
    let t := u.s.agentWrite none j.ckey l.key n v
    let hasBit : Bool := match l.place with
      | .lmem _ => true
      | _ => l.ty = .sync
    .ok { (u.touch l.key) with s := if hasBit && u.lastTo va then t.setWordFull l.key true else t, last := va } ())

/-- R253: a job's write of the low n bytes of v, byte by byte where they lie in two words. -/
def Work.writeNow (w : Work) (j : Job) (va : Word) (n v : Nat) : Run Unit :=
  if va.toNat % 8 + n ≤ 8 then w.put j va n (wrap v)
  else (runList (fun u i => u.put j (va + wrap i) 1 (wrap (v / 256 ^ i))) (List.range n) w).bind (fun u _ => .ok u ())

/-- A job's write, unless a soft error ends the job before it (R294). -/
def Work.write (w : Work) (j : Job) (va : Word) (n v : Nat) : Run Unit :=
  match w.cut with
  | some (0, d) => .fail w 6 d w.last
  | some (m + 1, d) => { w with cut := some (m, d) }.writeNow j va n v
  | none => w.writeNow j va n v

/-- n doublewords read from an address. -/
def Work.readDws (w : Work) (j : Job) (va : Word) (n : Nat) : Run (List Word) :=
  (runList (fun u i => u.read j (va + wrap (8 * i)) 8) (List.range n) w).bind (fun u l => .ok u (l.map wrap))

end Sys2Proof.Machine
end

