-- ==== Sys2Proof/Machine/Scheduler.lean ====
section
/-!
DEFINITION. The die scheduler (R156 to R169): task records and their order, budgets and loans, dispatch, deadlines and stealing.
-/

namespace Sys2Proof.Machine

open Sys2Proof

/-! ## Records and their order (R158, R159) -/

/-- R158: keys are compared field by field. -/
def TaskKey.lt (a b : TaskKey) : Bool :=
  decide (a.mid < b.mid) || (a.mid = b.mid && (decide (a.src < b.src) || (a.src = b.src && decide (a.seq < b.seq))))

/-- A record joins a queue at its key position (R158). -/
def insertRec (r : TaskRec) : List TaskRec → List TaskRec
  | [] => [r]
  | x :: t => if r.key.lt x.key then r :: x :: t else x :: insertRec r t

/-- The records of a tenant on a die, lowest key first. -/
def State.queueOf (s : State) (d x : Nat) : List TaskRec := (s.die d).recs.filter (fun r => r.tenant.toNat = x)
/-- R159: whether a die takes another record of a tenant. -/
def State.takesRecord (s : State) (d x : Nat) : Bool :=
  decide ((s.queueOf d x).length < (s.tenantDie d x).quota) && decide ((s.die d).recs.length < 16384)
/-- Adds a record to a die. -/
def State.addRec (s : State) (d : Nat) (r : TaskRec) : State := s.modDie d (fun x => { x with recs := insertRec r x.recs })
/-- R169, R308: a record that joins its queue beyond its tenant's quota. The die's storage still bounds it (R156): while it is full, the
record waits for a place. -/
def State.rejoin (s : State) (d : Nat) (r : TaskRec) : State :=
  if (s.die d).recs.length < 16384 then s.addRec d r
  else s.modPkg (fun p => { p with recs := p.recs ++ [⟨d, r, none, none, false, true⟩] })
/-- Takes a record out of a die. -/
def State.dropRec (s : State) (d : Nat) (r : TaskRec) : State := s.modDie d (fun x => { x with recs := x.recs.erase r })

/-- Table 20.2: a task record triggers the rebuild of a VOID capsule. -/
def State.triggerRebuild (s : State) (h : Nat) : State :=
  s.modCapsule h (fun c => if c.st = .void then { c with st := .rebuilding } else c)

/-- R374: the command of an interface with a tag is complete; in ERROR and while nothing listens its completion is dropped
(R376). -/
def State.complete (s : State) (q tag status : Nat) (result : Word) : State :=
  s.modPkg (fun p => { p with qifs := p.qifs.map (fun e =>
    if e.1 = q then
      (e.1, { e.2 with due := if e.2.tstate = .error then e.2.due else e.2.due ++ [⟨BitVec.ofNat 32 tag, status, result⟩] })
    else e) })

/-- R159, R374: the LAUNCH at the head of an interface's ring leaves it. -/
def State.leaveRing (s : State) (q : Nat) : State :=
  s.modPkg (fun p => { p with qifs := p.qifs.map (fun e =>
    if e.1 = q ∧ e.2.atHead then (e.1, { e.2 with head := (e.2.head + 1) % 2 ^ e.2.s, atHead := false }) else e) })

/-- R158, R159: record `idx` in flight reaches its die and is inserted at its key position, once quota and storage allow; records of
one source to one die arrive in their order. The waiting `spawnq` goes on; the waiting LAUNCH leaves its ring and completes. A refused fire
record waits to be sent again (R266). -/
def execTaskRecordArrival (idx : Nat) (s : State) : Out :=
  match s.pkg.recs[idx]? with
  | none => .next s
  | some f =>
    if f.resend || (s.pkg.recs.take idx).any (fun g => g.die = f.die && g.task.key.src = f.task.key.src) then .next s
    else if (if f.exempt then decide ((s.die f.die).recs.length < 16384) else s.takesRecord f.die f.task.tenant.toNat) then
      let t := (s.modPkg (fun p => { p with recs := p.recs.eraseIdx idx })).addRec f.die f.task
      let t := t.triggerRebuild f.task.handle
      let t := match f.host with
        | some (q, tag) => (t.leaveRing q).complete q tag 0 (wrap f.task.key.seq)
        | none => t
      match f.issuer with
      | some (c, k) => .next (if (t.slot c k).pend = .taskSent then t.modSlot c k Slot.wakeNext else t)
      | none => .next t
    else if f.task.fire.isSome && !f.exempt then .next (s.modPkg (fun p => { p with recs := p.recs.set idx { f with resend := true } }))
    else .next s

/-- R266: a fire record that its target refused is sent again by the bellows of its die. -/
def execFireRecordResend (die : Nat) (s : State) : Out :=
  .next (s.modPkg (fun p => { p with recs := p.recs.map (fun f =>
    if f.resend && f.task.fire.any (fun t => t.die = die) then { f with resend := false } else f) }))

/-! ## Deadlines (R165) -/

/-- R165: the E that deadlines are tested against: while the die's clock is widened, the last E read before. -/
def State.deadlineE (s : State) (d : Nat) : Nat := if s.widened d then (s.die d).goodE else s.earliest d
/-- R165: whether a record's deadline has passed. -/
def State.expired (s : State) (d : Nat) (r : TaskRec) : Bool := r.deadline ≠ 0 && decide (r.deadline.toNat < s.deadlineE d)
/-- R165: a LATE record for a discarded record that asks for one. -/
def State.postLate (s : State) (d : Nat) (r : TaskRec) : State :=
  if bit r.ctl 32 then s.postEvent d 0 r.tenant (bits r.ctl 40 8) (bits r.ctl 48 16) 2 else s

/-! ## Budgets (R160 to R162) -/

/-- What a table of amounts holds for a tenant. -/
def amount_ (l : List (Nat × Nat)) (x : Nat) : Nat := Tab.get 0 l x

/-- R161: the loans of a die, oldest first, are repaid from the shares that are available: what is left of each share, what each
lender is credited, the loans that remain. -/
def repay : List Loan → List (Nat × Nat) → List (Nat × Nat) → List (Nat × Nat) × List (Nat × Nat) × List Loan
  | [], avail, credit => (avail, credit, [])
  | l :: t, avail, credit =>
    let p := Nat.min l.amt (amount_ avail l.x)
    let r := repay t (Tab.set 0 avail l.x (amount_ avail l.x - p)) (Tab.set 0 credit l.y (amount_ credit l.y + p))
    (r.1, r.2.1, if l.amt = p then r.2.2 else { l with amt := l.amt - p } :: r.2.2)

/-- R161: the refill of a die, at the nonzero cycles that are multiples of 12,500. -/
def execBudgetRefill (die : Nat) (s : State) : Out :=
  if s.now ≠ 0 ∧ s.now % 12500 = 0 ∧ (s.die die).refillCyc ≠ s.now + 1 then
    .next (s.modDie die (fun d =>
      let r := repay d.loans (d.ten.filterMap (fun p => if p.2.rf = 0 then none else some (p.1, p.2.rf))) []
      { d with
        loans := r.2.2
        refillCyc := s.now + 1
        ten := Tab.mapAll TenantDie.reset d.ten (fun x t =>
          { t with bal := min (t.bal + (amount_ r.1 x : Nat) + (amount_ r.2.1 x : Nat)) t.cap }) }))
  else .next s

/-- R162: one try to borrow for tenant x of a die: the state after it, and whether x may now be dispatched. -/
def State.borrow (s : State) (d x : Nat) : State × Bool :=
  let t := s.tenantDie d x
  if t.ln = 0 ∨ 16 ≤ (s.die d).loans.length then (s, false)
  else
    match (s.die d).ten.find? (fun p => p.1 ≠ x && decide (0 < p.2.cap) && decide (p.2.bal = p.2.cap) && (s.queueOf d p.1).isEmpty) with
    | none => (s, false)
    | some (y, l) =>
      let amt := Nat.min t.ln l.bal.toNat
      let u := ((s.modTenant d y (fun e => { e with bal := e.bal - (amt : Nat) })).modTenant d x (fun e =>
        { e with bal := e.bal + (amt : Nat) })).modDie d (fun e => { e with loans := e.loans ++ [⟨x, y, amt⟩] })
      (u, decide (0 < (u.tenantDie d x).bal))

/-! ## Dispatch (R163, R164) -/

/-- How many slots of a core are FREE. -/
def State.freeSlots (s : State) (c : Nat) : Nat := slotsOf c - s.busySlots c

/-- What a core's summary would be now (R163). -/
def State.summaryNow (s : State) (c : Nat) : CoreSum := ⟨s.freeSlots c, (s.core c).vmap, s.poolUses c⟩
/-- The summary that the scheduler of the core's die keeps of it. -/
def State.summary (s : State) (c : Nat) : CoreSum := Tab.get CoreSum.reset (s.die (dieOf c)).sums c
/-- R163: the summaries are brought up to date. One may be out of date at any time, for which no rule gives a bound: a core's summary stays
as it is in a cycle in which the free `Config.summaryLate` says so (log entry 58). -/
def State.refreshSums (s : State) : State :=
  (List.range 8).foldl (fun t d =>
    t.modDie d (fun x =>
      { x with
        sums := (s.cores.filter (fun p => isCompute p.1 && dieOf p.1 = d && !Config.summaryLate p.1 s.now)).foldl
          (fun l p => Tab.set CoreSum.reset l p.1 (s.summaryNow p.1)) x.sums })) s

/-- R139 by a core's summary: a slot is FREE, its `.slots` limit is not reached, and granules and pool space are there. What R163 does not put into
the summary, the holders of the kernel and the bounds of the pool, is read from the core as it stands (DESIGN CHOICE, log entry 58). -/
def State.admitsBySummary (s : State) (c : Nat) (r : KernRef) : Bool :=
  let u := s.summary c
  match (if (s.capsule? r.handle).any (fun x => x.st = .valid) then s.kernel? r else none) with
  | none => false
  | some q =>
    decide (0 < u.free) && decide (s.holders c r < q.slots) && (freeRun u.vmap q.vsize).isSome &&
    (q.spad = 0 || (poolFit (s.core c).poolBase (s.core c).poolSize u.uses (q.spad + 128)).isSome)

/-- R163, R303: the core of a die that admits a record under R139 by the summary, of those of its context, with the most FREE slots; ties
to the lower core number. -/
def State.coreFor (s : State) (d : Nat) (r : TaskRec) : Option Nat :=
  let kr : KernRef := ⟨r.handle, r.kernel, 0⟩
  let ok (c : Nat) : Bool := (s.core c).owner = s.ctxOwner r.ctx && s.admitsBySummary c kr
  (coresOfDie d).foldl (fun b c =>
    if ok c then
      match b with
      | none => some c
      | some e => if (s.summary e).free < (s.summary c).free then some c else some e
    else b) none

/-- R197: the fault area of a context for a capsule with fault records, allocated when the context first launches one of its
kernels: it starts at a multiple of 128 KiB, so that it is 64-byte aligned and lies in one frame, is of type normal and mapped readable and writable for user mode at an address of
the firmware's choice (log entry 38). -/
def State.faultAreaFor (s : State) (ctx h : Nat) : State :=
  match s.capsule? h with
  | none => s
  | some cap =>
    if cap.faults = 0 || s.pkg.areas.any (fun a => a.ctx = ctx && a.handle = h) then s
    else
      let a := Config.faultArea ctx h
      let va := a.1.toNat % 2 ^ 56 / 2 ^ 17 * 2 ^ 17
      let gpa := s.guestSpot cap.tenant a.2 (32 * cap.faults) (2 ^ 17)
      let t := s.mapRange cap.tenant va gpa (32 * cap.faults) 0x2C
      let pa := ((t.tenantGuest cap.tenant gpa).getD gpa)
      t.modPkg (fun p => { p with areas := p.areas ++ [⟨ctx, h, cap.tenant, wrap va, pa, cap.faults, []⟩] })

/-- R163: a record is sent to a core as an arrival (Table 7.1). Its entry is that of the body current at dispatch (R317). -/
def State.launch (s : State) (d : Nat) (r : TaskRec) (c : Nat) : State :=
  let cap := s.capsule? r.handle
  let pc := match cap.bind (·.entry r.entry) with
    | some (a, _) => a
    | none => r.pc
  let a : Arrival :=
    { src := .launch, link := 0, at_ := s.now, pc := pc, kern := ⟨r.handle, r.kernel, (cap.map (·.version)).getD 0⟩
      tenant := r.tenant, ctx := r.ctx
      regs := (List.range 8).map (fun i => (BitVec.ofNat 4 (i + 1), r.regs.getD i 0, r.full.getLsbD i))
      bgen := false, task := ⟨some r.ctl, r.fire⟩, record := some r, cause := none, miss := 0 }
  (((s.faultAreaFor r.ctx r.handle).dropRec d r).modCore c (fun x => { x with links := x.links ++ [a] })).modDie d
    (fun x => { x with last := r.tenant.toNat })

/-- R163: the window of a tenant's queue is examined in key order; the state after it, and whether a record was sent. -/
def State.examine (d : Nat) : List TaskRec → Bool → State → State × Bool
  | [], _, s => (s, false)
  | r :: t, blocked, s =>
    let inorder := bit r.ctl 10
    if s.expired d r then State.examine d t blocked ((s.dropRec d r).postLate d r)
    else if inorder && blocked then State.examine d t blocked s
    else if (s.capsule? r.handle).any (fun c => c.st = .valid) = false then State.examine d t (blocked || inorder) s
    else
      match s.coreFor d r with
      | none => State.examine d t (blocked || inorder) s
      | some c => (s.launch d r c, true)

/-- R163: the tenants are served in round-robin order. -/
def State.serve (d : Nat) : List Nat → State → State × Bool
  | [], s => (s, false)
  | x :: t, s =>
    if (s.queueOf d x).isEmpty || (s.tenantDie d x).cap = 0 then State.serve d t s
    else
      let b := if 0 < (s.tenantDie d x).bal then (s, true) else s.borrow d x
      if b.2 then
        match State.examine d ((b.1.queueOf d x).take 8) false b.1 with
        | (u, true) => (u, true)
        | (u, false) => State.serve d t u
      else State.serve d t b.1

/-- The 256 tenants in round-robin order after the last one served. -/
def roundRobin (last : Nat) : List Nat := (List.range' 1 256).map (fun i => (last + i) % 256)

/-- R163: one dispatch decision of a die and whether it sent a record. -/
def State.dispatch (s : State) (d : Nat) : State × Bool := State.serve d (roundRobin (s.die d).last) s

/-- R163: at most one decision in a clk. -/
def execDispatch (die : Nat) (s : State) : Out :=
  if (s.die die).dispCyc = s.now + 1 then .next s
  else .next ((s.dispatch die).1.modDie die (fun d => { d with dispCyc := s.now + 1 }))

/-! ## Stealing (R167 to R169) -/

/-- The FREE slots of a die (R167). -/
def State.freeOnDie (s : State) (d : Nat) : Nat :=
  16 * (coresOfDie d).length - (s.slots.filter (fun p => p.2.st != .free && isCompute (p.1 / 16) && dieOf (p.1 / 16) = d)).length

/-- R167: no tenant has a record that Dispatch could send, and at least 64 slots are FREE. -/
def State.idleDie (s : State) (d : Nat) : Bool := (s.dispatch d).2 = false && decide (64 ≤ s.freeOnDie d)

/-- R167: an idle die asks its next neighbour, with its free record quota per tenant. -/
def execStealRequest (die : Nat) (s : State) : Out :=
  if (s.die die).steal = .none_ ∧ s.idleDie die then
    let quota := (s.die die).ten.filterMap (fun p =>
      let n := p.2.quota - (s.queueOf die p.1).length
      if n = 0 then none else some (p.1, n))
    .next (s.modDie die (fun d =>
      { d with steal := .asked ((neighbours die).getD (d.stealNext % 4) 0) quota, stealNext := (d.stealNext + 1) % 4 }))
  else .next s

/-- R168: in-order and pinned records are never stolen. -/
def stealable (r : TaskRec) : Bool := !bit r.ctl 10 && !bit r.ctl 11

/-- R169: the records that a victim gives up: of the tenant with the most stealable ones, up to four from the tail, mode-10 records
first. -/
def State.plunder (s : State) (v : Nat) (quota : List (Nat × Nat)) : List TaskRec :=
  let count (x : Nat) : Nat := ((s.queueOf v x).filter stealable).length
  let best := (quota.filter (fun p => decide (0 < (s.tenantDie v p.1).cap) && decide (0 < count p.1))).foldl
    (fun b p => match b with
      | none => some p
      | some q => if count q.1 < count p.1 then some p else some q) (none : Option (Nat × Nat))
  match best with
  | none => []
  | some (x, n) =>
    let l := ((s.queueOf v x).filter stealable).reverse
    (l.filter (fun r => bits r.ctl 8 2 = 2) ++ l.filter (fun r => bits r.ctl 8 2 ≠ 2)).take (Nat.min 4 n)

/-- R169: the victim answers the request of `die`. -/
def execStealReply (die : Nat) (s : State) : Out :=
  match (s.die die).steal with
  | .asked v quota =>
    let l := s.plunder v quota
    .next ((l.foldl (fun t r => t.dropRec v r) s).modDie die (fun d => { d with steal := .reply l }))
  | _ => .next s

/-- R169: the stolen records reach the thief and join their queues. Should records accepted since the request have used up the tenant's
quota there, no rule keeps them out, and they join beyond it: DESIGN CHOICE, log entry 59. An empty reply starts the pause of 1 us (R167). -/
def execStolenRecordsArrival (die : Nat) (s : State) : Out :=
  match (s.die die).steal with
  | .reply [] => .next (s.modDie die (fun d => { d with steal := .pause (s.now + 1250) }))
  | .reply l =>
    .next ((l.foldl (fun t r => if t.expired die r then t.postLate die r else t.rejoin die r) s).modDie die
      (fun d => { d with steal := .none_ }))
  | _ => .next s

/-- R167: the pause after an empty reply ends. -/
def execStealPauseExpiry (die : Nat) (s : State) : Out :=
  match (s.die die).steal with
  | .pause t => if t ≤ s.now then .next (s.modDie die (fun d => { d with steal := .none_ })) else .next s
  | _ => .next s

/-! ## Launches that come back (R302, R308) -/

/-- Whether a context is about to end (R377). -/
def State.isEnding (s : State) (ctx : Nat) : Bool := (Tab.get Ctx.reset s.pkg.ctxs ctx).ending

/-- R302, R308: the launches that wait at a core's links rejoin their queues on that die, quota or not; those for a context that a reset of its
logical device ends are gone, as its records are (R377). -/
def State.returnLaunches (s : State) (c : Nat) : State :=
  let back := (s.core c).links.filterMap (·.record)
  (back.foldl (fun t r => if s.isEnding r.ctx then t.freeFire r.fire else t.rejoin (dieOf c) r) s).modCore c (fun x =>
    { x with links := x.links.filter (fun a => a.record.isNone) })

end Sys2Proof.Machine
end

