-- ==== Sys2Proof/Machine/Thread.lean ====
section
/-!
DEFINITION. The instructions that start, end, move and join threads (R143 to R150, R170 to R181), but for `bar`.
-/

namespace Sys2Proof.Machine

open Sys2Proof

/-! ## Entries (R171) -/

/-- The kernel of the issuer's capsule of which an address is an `.entry` (R171). -/
def State.entryKernel (s : State) (x : Slot) (pc : Word) : Option KernRef :=
  match x.kern with
  | none => none
  | some r =>
    match s.capsule? r.handle with
    | none => none
    | some cap =>
      (cap.body.entries.find? (fun e => cap.body.base + wrap e.off = pc)).map (fun e => ⟨r.handle, e.kernel, cap.version⟩)

/-- The number of the `.entry` of a capsule at an address. -/
def State.entryNumber (s : State) (h : Nat) (pc : Word) : Nat :=
  match s.capsule? h with
  | none => 0
  | some cap => cap.body.entries.findIdx (fun e => cap.body.base + wrap e.off = pc)

/-- Registers g1 to gn of a slot as an arrival carries them. -/
def Slot.carry (x : Slot) (n : Nat) : List (Reg × Word × Bool) :=
  (List.range' 1 n).map (fun i => let r : Reg := BitVec.ofNat 4 i; (r, x.reg r, x.isFull r))

/-- The arrival that a spawn makes (Table 7.1). -/
def spawnArrival (x : Slot) (now : Nat) (entry : Word) (r : KernRef) (regs : List Word) : Arrival :=
  { src := .spawn, link := 2, at_ := now, pc := entry, kern := r, tenant := x.tenant, ctx := x.ctx,
    regs := [(1, regs.getD 0 0, true), (2, regs.getD 1 0, true), (3, regs.getD 2 0, true), (4, regs.getD 3 0, true)],
    bgen := false, task := ⟨none, none⟩, record := none, cause := none, miss := 0 }

/-- R144: the child runs in the spawner's own slot. -/
def Slot.runInline (x : Slot) (entry : Word) (now : Nat) : Slot :=
  let y := x.writeOwn 15 (x.pc + 4 + (if x.inline_ then 1 else 0)) (now + 1)
  { y with sw := setBits y.sw 0 1 1, pc := pcAt entry }

/-- R172: target, owner, entry, the drain, then the decision: at issue for the spawner's own core, else by the target. -/
def execSpawn (a b : Reg) (s : State) : Out :=
  let srcs := [a, b, 1, 2, 3, 4]
  s.issue ⟨encode (.spawn a b), .user, false, [], [], srcs, none⟩ (fun t =>
    let c := (t.src a).toNat
    let e := t.src b
    if 3071 < c || (t.core c).owner ≠ (t.core t.curCore).owner then t.fault .target 0 (t.src a)
    else
      match t.entryKernel t.me e with
      | none => t.fault .entry 0 e
      | some r =>
        if t.me.buf.isEmpty = false then t.parkRetry 4
        else
          let regs := [t.me.reg 1, t.me.reg 2, t.me.reg 3, t.me.reg 4]
          if c = t.curCore then
            match t.admits c r with
            | some room => ((t.take srcs).claim c room (spawnArrival t.me t.now e r regs)).advance
            | none => (t.take srcs).modMe (fun x => x.runInline e t.now)
          else t.parkOn (t.pops srcs) 3 (.spawn c e r.kernel regs none))

/-- R143: a spawn packet reaches its target, which accepts it and claims at once, or refuses it. -/
def execSpawnPacket (core slot : Nat) (s : State) : Out :=
  let x := s.slot core slot
  match x.st, x.pend, x.kern with
  | .parked, .spawn c e kn regs none, some kr =>
    if (s.core c).claimCyc = s.now + 1 then .next s
    else
      let r : KernRef := { kr with kernel := kn }
      let answer (b : Bool) (t : State) : State := t.modSlot core slot (fun y => { y with pend := .spawn c e kn regs (some b) })
      match s.admits c r with
      | some room => .next (answer true (s.claim c room (spawnArrival x s.now e r regs)))
      | none => .next (answer false s)
  | _, _, _ => .next s

/-- R143, R172: the answer reaches the spawner: it goes on, or runs the child inline. -/
def execSpawnAnswer (core slot : Nat) (s : State) : Out :=
  match (s.slot core slot).st, (s.slot core slot).pend with
  | .parked, .spawn _ e _ _ (some ok) =>
    if ok then .next (s.goOn core slot)
    else
      let t := if (s.slot core slot).popDue then s.chainPop core slot else s
      .next (t.modSlot core slot (fun x => x.wake.runInline e s.now))
  | _, _ => .next s

/-! ## `spawnq` (R157, R158, R175) -/

/-- R157: whether a control word obeys Table 8.1. -/
def ctlOk (w : Word) : Bool := bits w 34 6 = 0 && bits w 12 20 = 0 && bits w 3 5 = 0 && bits w 8 2 ≠ 3
/-- Table 8.1: the die a record goes to. -/
def ctlDie (w : Word) (own : Nat) : Nat := if bits w 8 2 = 1 then bits w 0 3 else own

/-- R175: entry, control word, release at package scope, then the record is sent. -/
def execSpawnq (a b c : Reg) (s : State) : Out :=
  let srcs := [a, b, c]
  s.issue ⟨encode (.spawnq a b c), .user, false, [], [], srcs, none⟩ (fun t =>
    match t.entryKernel t.me (t.src a) with
    | none => t.fault .entry 0 (t.src a)
    | some r =>
      if ctlOk (t.src b) = false then t.fault .ctlword 0 (t.src b)
      else
      match t.me.badCarried 8 with
      | some f => t.fault .data 0 f
      | none =>
      if t.quiet t.curCore t.curSlot = false then t.parkRetry 3
      else
        let own := dieOf t.curCore
        let rec_ : TaskRec :=
          { pc := t.src a, handle := r.handle, kernel := r.kernel, tenant := t.me.tenant, ctl := t.src b, deadline := t.src c
            regs := (t.me.carry 8).map (fun p => p.2.1)
            full := (t.me.full >>> 1).truncate 8
            key := ⟨t.midpoint own, t.curCore, (t.core t.curCore).seq⟩, ctx := t.me.ctx
            entry := t.entryNumber r.handle (t.src a), fire := none }
        let u := (t.take srcs).modCore t.curCore (fun x => { x with seq := x.seq + 1 })
        (u.modPkg (fun p => { p with recs := p.recs ++ [⟨ctlDie (t.src b) own, rec_, some (t.curCore, t.curSlot), none, false, false⟩] })).park 3
          .taskSent)

/-! ## `quit` (R145, R176) -/

/-- R145, R176: a pending guard record stops it (R198); an inline child returns; else the slot becomes FREE. -/
def execQuit (s : State) : Out :=
  s.issue ⟨encode .quit, .user, false, [], [], if s.me.inline_ then [15] else [], none⟩ (fun t =>
    match t.guardStop with
    | some u => u
    | none =>
      if t.me.inline_ then
        let v := t.me.reg 15
        if canonical v = false then t.fault .addr v
        else t.modMe (fun x => { x with sw := setBits x.sw 0 1 (v.toNat % 2), pc := pcAt v })
      else t.freeSlot t.curCore t.curSlot true true)

/-! ## `migr` (R146, R177, R178) -/

/-- R177: the core that owns a location; none for memory homed elsewhere. -/
def owningCore (l : Loc) : Option Nat :=
  match l.place with
  | .lmem n => some n
  | .home d =>
    let t := if d < 4 then 16 * d + l.key / 2 ^ 11 % 16 else 64 + 8 * (d - 4) + l.key / 2 ^ 11 % 8
    some (32 * t + l.key / 2 ^ 6 % 32)
  | _ => none

/-- R177: the checks in order; a move to the own core has no effect. -/
def execMigr (a : Reg) (s : State) : Out :=
  s.issue ⟨encode (.migr a), .user, false, [], [], [a], none⟩ (fun t =>
    let ea := t.src a
    let x := t.me
    if x.vsize ≠ 0 || x.spad.isSome || x.chain || x.inline_ then t.fault .migv ea
    else
      match t.locate ea 1 .load true false with
      | .error u => u
      | .ok l =>
        if l.place = .devReg then t.fault .addr ea
        else
          match owningCore l with
          | none => t.fault .migv ea
          | some n =>
            if (t.core n).owner ≠ (t.core t.curCore).owner then t.fault .target ea (wrap n)
            else if n = t.curCore then (t.take [a]).advance
            else
            match t.me.badCarried 10 with
            | some f => t.fault .data 0 f
            | none => t.parkOn (t.pops [a]) 3 (.migr n))

/-- R146, R177: every earlier access is performed; the packet leaves, and the slot becomes FREE. -/
def execMigrationPacketDeparture (core slot : Nat) (s : State) : Out :=
  let x := s.slot core slot
  match x.st, x.pend, x.kern with
  | .parked, .migr n, some kr =>
    if s.quiet core slot then
      match x.badCarried 10 with
      | some f => .next (s.takeFault core slot .data 0 f)
      | none =>
      let a : Arrival :=
        { src := .migrant, link := if dieOf core = dieOf n then 2 else 3, at_ := s.now, pc := pc57 (x.pc + 4), kern := kr, tenant := x.tenant,
          ctx := x.ctx, regs := x.carry 10, bgen := x.bgen, task := x.task, record := none, cause := none, miss := 0 }
      .next ((s.freeSlot core slot false false).modCore n (fun y => { y with links := y.links ++ [a] }))
    else .next s
  | _, _, _ => .next s

/-! ## `rput` (R148, R179) -/

/-- R179: at most four writes of a slot are in flight. -/
def execRput (d a b : Reg) (s : State) : Out :=
  s.issue ⟨encode (.rput d a b), .user, false, [], [], [a, b], none⟩ (fun t =>
    if isCompute t.curCore = false then t.fault .target
    else
      let w := (t.src b).toNat
      let tc := quadCore t.curCore (w / 16 % 4)
      let ts := w % 16
      if (t.core tc).owner ≠ (t.core t.curCore).owner then t.fault .target 0 (wrap tc)
      else if 4 ≤ (t.pkg.rputs.filter (fun r => r.core = t.curCore && r.slot = t.curSlot)).length then t.parkRetry 3
      else
        let f : RputFlight := ⟨t.curCore, t.curSlot, tc, ts, (t.slot tc ts).claims, t.me.tenant, d, t.src a⟩
        ((t.take [a, b]).modPkg (fun p => { p with rputs := p.rputs ++ [f] })).advance)

/-- R148, R179: the oldest write of a slot arrives: it fills its register, or is discarded. -/
def execRputFill (core slot : Nat) (s : State) : Out :=
  match s.pkg.rputs.find? (fun r => r.core = core && r.slot = slot) with
  | none => .next s
  | some r =>
    if (s.core r.tcore).health = .stopped then .next s
    else
      let t := s.modPkg (fun p => { p with rputs := p.rputs.erase r })
      let x := s.slot r.tcore r.tslot
      if x.st = .free ∨ x.claims ≠ r.claim ∨ x.tenant ≠ r.tenant then .next t
      else .next (t.fill r.tcore r.tslot r.d r.v)

/-! ## `wait`, `yield`, the chain bit (R150, R180, R181) -/

/-- R150: a set latch is cleared and the slot goes on; else it parks with park 8. -/
def execWait (s : State) : Out :=
  s.issue ⟨encode .wait, .user, false, [], [], [], none⟩ (fun t =>
    if t.latch t.curCore t.curSlot then ((t.clearLatch t.curCore t.curSlot).modMe (fun x => x.waited t.now)).advance
    else t.park 8 .latch)

/-- R180: parks with park 8 until the latch is set or 256 clk have passed; the latch stays. -/
def execYield (s : State) : Out :=
  s.issue ⟨encode .yield, .user, false, [], [], [], none⟩ (fun t =>
    if t.latch t.curCore t.curSlot then t.advance else t.park 8 (.yieldTill (t.now + 256)))

/-- R180: cycle i + 256 is reached. -/
def execYieldTimeout (core slot : Nat) (s : State) : Out :=
  match (s.slot core slot).st, (s.slot core slot).pend with
  | .parked, .yieldTill t => if t ≤ s.now then .next (s.modSlot core slot Slot.wakeNext) else .next s
  | _, _ => .next s

/-- R181: sets the chain bit; no effect on service and security cores. -/
def execChset (s : State) : Out :=
  s.issue ⟨encode .chset, .user, false, [], [], [], none⟩ (fun t =>
    if isCompute t.curCore then (t.modMe (fun x => { x with sw := setBits x.sw 1 1 1 })).advance else t.advance)

/-- R181: clears the chain bit. -/
def execChclr (s : State) : Out :=
  s.issue ⟨encode .chclr, .user, false, [], [], [], none⟩ (fun t =>
    (t.modMe (fun x => { x with sw := setBits x.sw 1 1 0 })).advance)

end Sys2Proof.Machine
end

