-- ==== Sys2Proof/Machine/Bellows.lean ====
section
/-!
DEFINITION. Expert queues (R259 to R269), reorder windows (R270 to R272), and the instructions `xenq`, `xret`, `xcfg` and `xstat` (R283
to R286).
-/

namespace Sys2Proof.Machine

open Sys2Proof

/-! ## An instruction that reads memory itself (R273) -/

/-- One aligned read of `size` bytes as a load of the slot whose turn it is, with its memory key; or the state in which the slot has
stopped or parked. A device register gives what a load of it gives. -/
def State.readOwn (s : State) (va : Word) (size : Nat) : Except State (Word × Nat) :=
  match s.locate va size .load true false with
  | .error u => .error u
  | .ok l =>
    match s.targetCheck va l with
    | some u => .error u
    | none =>
      if s.reachable l = false || s.loadReady s.curCore s.curSlot l size = false then .error (s.parkRetry 3)
      else
      match s.lostPlace l va with
      | some (f, fa, fv) => .error (s.fault f fa fv)
      | none =>
      if s.remoteBad s.curCore s.curSlot l size then .error (s.fault .data (wordAddr va))
      else .ok (s.loadValue s.curCore s.curSlot l size, l.key)

/-- n reads of `size` bytes from an address upward; the first that fails decides. -/
def State.readRun (s : State) (va : Word) (size : Nat) : Nat → Except State (List (Word × Nat))
  | 0 => .ok []
  | n + 1 =>
    match s.readOwn va size with
    | .error u => .error u
    | .ok x =>
      match s.readRun (va + wrap size) size n with
      | .error u => .error u
      | .ok l => .ok (x :: l)

/-- The guard touches of a list of reads of `size` bytes (R198). -/
def State.touchAll (s : State) (size : Nat) (l : List (Word × Nat)) : State := l.foldl (fun t x => t.touch s.curCore s.curSlot x.2 size) s

/-- The bytes of a list of doublewords. -/
def bytesOf (l : List Word) : List Byte :=
  l.flatMap (fun w => (List.range 8).map (fun i => BitVec.ofNat 8 (w.toNat / 256 ^ i)))

/-! ## Token records (Table 15.1) -/

/-- The deadline of a token. -/
def tokDeadline (b : List Byte) : Nat := leAt b 8 8
/-- Its sequence identifier. -/
def tokSeq (b : List Byte) : Nat := leAt b 16 4
/-- Its position. -/
def tokPos (b : List Byte) : Nat := leAt b 20 4
/-- Its origin. -/
def tokOrigin (b : List Byte) : Nat := leAt b 24 2
/-- Its window entry. -/
def tokRslot (b : List Byte) : Nat := leAt b 26 2
/-- Its gate weight. -/
def tokGate (b : List Byte) : Nat := leAt b 28 2
/-- Its instance. -/
def tokInst (b : List Byte) : Nat := leAt b 30 1

/-! ## Queues (R259 to R262) -/

/-- Queue q of die d. -/
def State.xq (s : State) (d q : Nat) : XQueue := Tab.get XQueue.reset (s.die d).xq q
/-- Changes queue q of die d. -/
def State.modXq (s : State) (d q : Nat) (f : XQueue → XQueue) : State :=
  s.modDie d (fun x => { x with xq := Tab.set XQueue.reset x.xq q (f (Tab.get XQueue.reset x.xq q)) })
/-- R260: the age timer of a die, in ns. -/
def State.ageTimer (s : State) : Nat := s.now * 4 / 5
/-- Doubleword i of a queue's configuration. -/
def XQueue.dw (q : XQueue) (i : Nat) : Word := q.cfg.getD i 0
/-- en. -/
def XQueue.en (q : XQueue) : Bool := bit (q.dw 0) 30
/-- F. -/
def XQueue.buffers (q : XQueue) : Nat := bits (q.dw 0) 47 4 + 1
/-- B. -/
def XQueue.batch (q : XQueue) : Nat := bits (q.dw 0) 16 12 + 1
/-- T. -/
def XQueue.threshold (q : XQueue) : Nat := bits (q.dw 0) 0 16
/-- A. -/
def XQueue.ageLimit (q : XQueue) : Nat := bits (q.dw 1) 0 32
/-- The on-die entries that the queue may hold. -/
def XQueue.quota (q : XQueue) : Nat := bits (q.dw 1) 32 17
/-- The entries of its spill ring. -/
def XQueue.spillSize (q : XQueue) : Nat := bits (q.dw 4) 0 25
/-- Its class. -/
def XQueue.cls (q : XQueue) : Nat := bits (q.dw 0) 28 2
/-- The age of its head at an age-timer value; 0 when it is empty. -/
def XQueue.headAge (q : XQueue) (now : Nat) : Nat :=
  match q.toks with
  | [] => 0
  | t :: _ => now - t.entry
/-- The age events of R262 as they stand after a change of its head or of A. -/
def XQueue.refresh (q : XQueue) (now : Nat) : XQueue :=
  { q with aged := !q.toks.isEmpty && decide (q.ageLimit ≤ q.headAge now)
           promoted := !q.toks.isEmpty && decide (2 * q.ageLimit ≤ q.headAge now) }

/-- The tokens that a decision of cycle `now` sees (R263). -/
def XQueue.seen (q : XQueue) (now : Nat) : List Tok := q.toks.filter (fun t => decide (t.at_ < now))
/-- R262: whether the queue is eligible. -/
def XQueue.eligible (q : XQueue) (now : Nat) : Bool :=
  q.en && decide (q.busy.length < q.buffers) && !(q.seen now).isEmpty && (decide (q.threshold ≤ (q.seen now).length) || q.aged)
/-- R262: the class in which it competes. -/
def XQueue.effClass (q : XQueue) : Nat := if q.promoted then 3 else q.cls

/-- R262: the head's age has reached A. -/
def execAgeLimitReached (die q : Nat) (s : State) : Out :=
  let x := s.xq die q
  if x.toks.isEmpty = false ∧ x.ageLimit ≤ x.headAge s.ageTimer then .next (s.modXq die q (fun y => { y with aged := true })) else .next s

/-- R262: the head's age has reached 2A. -/
def execPromotion (die q : Nat) (s : State) : Out :=
  let x := s.xq die q
  if x.toks.isEmpty = false ∧ 2 * x.ageLimit ≤ x.headAge s.ageTimer then .next (s.modXq die q (fun y => { y with promoted := true }))
  else .next s

/-- R268: how many on-die entries the queues of a die hold. -/
def State.onDieTokens (s : State) (d : Nat) : Nat := (s.die d).xq.foldl (fun a p => a + p.2.onDie) 0

/-- R268: where an accepted token goes: on-die (true), to the spill ring (false), or nowhere. -/
def State.place (s : State) (d : Nat) (q : XQueue) : Option Bool :=
  if q.onDie = q.toks.length && decide (q.onDie < q.quota) && decide (s.onDieTokens d < 65536) then some true
  else if q.toks.length - q.onDie < q.spillSize then some false
  else none

/-- The physical address of offset o of an area: `pages` are the physical addresses of the 64 KiB pages that `base` leads through. -/
def areaAt (pages : List Nat) (base o : Nat) : Nat :=
  pages.getD ((base + o) / 2 ^ 16 - base / 2 ^ 16) 0 + (base + o) % 2 ^ 16

/-- The replicated pages among those of some memory keys are collapsed, before they are written (R199). -/
def State.collapseAt (s : State) (keys : List Nat) : State := s.collapsePages ((keys.map (· / 2 ^ 16)).eraseDups)

/-- R261: bytes of a spill ring or a fire area whose contents no rule gives. -/
def State.scribble (s : State) (ck : Nat) (keys : List Nat) : State :=
  keys.foldl (fun t k => (t.agentWrite none ck k 1 ((Config.freeByte t.free).zeroExtend 64)).nextFree) s

/-- R268: a token joins the tail of queue q of die d. -/
def State.enqueueTok (s : State) (d q : Nat) (bytes : List Byte) (onDie : Bool) : State :=
  let x := s.xq d q
  let t := s.modXq d q (fun y =>
    { y with toks := y.toks ++ [⟨bytes, s.ageTimer, s.now⟩], onDie := if onDie then y.onDie + 1 else y.onDie })
  if onDie then t
  else
    let o := 32 * (Config.freeNat t.free % x.spillSize)
    let keys := (List.range 32).map (fun i => areaAt x.spillPa (x.dw 3).toNat (o + i))
    (t.nextFree.collapseAt keys).scribble x.ckey keys

/-! ## Reorder windows (R270 to R272) -/

/-- S of R270. -/
def WinCfg.stride (w : WinCfg) : Nat := ceilDiv (64 + 4 * w.w * (w.k + 1)) 64 * 64

/-- The window of a core as R270 lays it out in its local memory. The state of an entry stands at +0x10: bits 1:0 0 FREE, 1 ARMED,
2 COMPLETE; 15:8 the recorded instances; 23:16 those with a result; 31:24 those that were LATE; 63:32 pos; and its gates at
+0x18 and +0x20. -/
def WinCfg.key (w : WinCfg) (c e o : Nat) : Nat := lmemKey c (w.base + e * w.stride + o)

/-- A word of a window, as its core reads it. -/
def State.winWord (s : State) (w : WinCfg) (c e o : Nat) : Word := s.wordAs (s.cipherKey c) (w.key c e o)
/-- Writes a word of a window. -/
def State.setWinWord (s : State) (w : WinCfg) (c e o : Nat) (v : Word) : State :=
  s.agentWrite none (s.cipherKey c) (w.key c e o) 8 v

/-- Whether a word that holds an entry's own state has an uncorrectable error. Nothing is read from such an entry (R298): it arms for no
token, takes no result and is not released until the word is written whole (DESIGN CHOICE, log entry 67). -/
def State.winBad (s : State) (w : WinCfg) (c e : Nat) : Bool := (List.range 5).any (fun i => s.badWord (w.key c e (8 * i)))

/-- The states of an entry. -/
def winFree : Nat := 0
/-- The states of an entry. -/
def winArmed : Nat := 1
/-- The states of an entry. -/
def winComplete : Nat := 2

/-- The gate of instance i of an entry, a BF16 pattern. -/
def State.winGate (s : State) (w : WinCfg) (c e i : Nat) : Nat := bits (s.winWord w c e (0x18 + 8 * (i / 4))) (16 * (i % 4)) 16

/-- How many entries of a window are ARMED or COMPLETE. -/
def State.winActive (s : State) (c : Nat) : Nat :=
  match (s.core c).win with
  | none => 0
  | some w => ((List.range w.n).filter (fun e => bits (s.winWord w c e 0x10) 0 2 ≠ winFree)).length

/-- R298: the address of the first word from which an `xstat` or `xcfg` of a slot of core c would take the state of an entry of the core's window,
and which holds an uncorrectable error. The instruction raises F_DATA there (DESIGN CHOICE, log entry 67). -/
def State.badStatus (s : State) (c : Nat) (sel : Word) : Option Word :=
  if bit sel 63 && bits sel 0 63 = 0 && isCompute c then
    match (s.core c).win with
    | none => none
    | some w => ((List.range w.n).find? (fun e => s.badWord (w.key c e 0x10))).map (fun e => wrap (localBase + w.base + e * w.stride + 0x10))
  else none

/-- R271: an accepted token arms its entry; none where F_XSLOT refuses it. -/
def State.armWindow (s : State) (c rslot inst seq pos gate : Nat) : Option State :=
  match (s.core c).win with
  | none => none
  | some w =>
    if w.n ≤ rslot || w.k ≤ inst || s.winBad w c rslot then none
    else
      let st := s.winWord w c rslot 0x10
      let gateTo (t : State) : State :=
        let o := 0x18 + 8 * (inst / 4)
        t.setWinWord w c rslot o (setBits (t.winWord w c rslot o) (16 * (inst % 4)) 16 gate)
      if bits st 0 2 = winFree then
        if s.wordFull (w.key c rslot 0) then none
        else
          some (gateTo (((s.setWinWord w c rslot 8 (wrap seq)).setWinWord w c rslot 0x10
            (wrap (winArmed + 2 ^ (8 + inst) + 2 ^ 32 * pos)))))
      else if bits st 0 2 = winArmed && bits st 32 32 = pos && s.winWord w c rslot 8 = wrap seq && !bit st (8 + inst) then
        some (gateTo (s.setWinWord w c rslot 0x10 (setBits st (8 + inst) 1 1)))
      else none

/-- R272: one element of the combination, in instance order, and its flags. An instance whose pick row has an uncorrectable error is passed
over as a LATE one is (R298; log entry 67). -/
def State.combine (s : State) (w : WinCfg) (c e j : Nat) (late : Nat) : Nat × Fl :=
  (List.range w.k).foldl (fun (a : Nat × Fl) i =>
    let key := w.key c e (0x40 + 4 * w.w * (1 + i) + 4 * j)
    if late.testBit i || s.badWord key then a
    else
      let pick := (s.memLoad (s.cipherKey c) key 4).toNat
      let r := fmtF32.fma (s.winGate w c e i * 2 ^ 16) pick a.1
      (r.1, a.2 ||| r.2)) (0, flNone)

/-- R272: the entry at the pointer is combined and released. -/
def State.releaseEntry (s : State) (w : WinCfg) (c e : Nat) : State :=
  let st := s.winWord w c e 0x10
  let late := bits st 24 8
  let r := (List.range w.w).foldl (fun (a : State × Fl) j =>
    let v := s.combine w c e j late
    (a.1.agentWrite none (s.cipherKey c) (w.key c e (0x40 + 4 * j)) 4 (wrap v.1), a.2 ||| v.2)) (s, flNone)
  let nlate := ((List.range 8).filter (fun i => late.testBit i)).length
  let t := ((r.1.setWinWord w c e 0x10 0).setWinWord w c e 0 (wrap (bits st 32 32 + nlate * 2 ^ 32))).setWordFull (w.key c e 0) true
  t.modCore c (fun x => { x with winFlags := x.winFlags ||| r.2, winPtr := (e + 1) % w.n })

/-- R272: as long as the entry at the pointer is COMPLETE, it is released; at most N in a row. -/
def State.releaseAll (w : WinCfg) (c : Nat) : Nat → State → State
  | 0, s => s
  | n + 1, s =>
    let e := (s.core c).winPtr
    if bits (s.winWord w c e 0x10) 0 2 = winComplete && !s.winBad w c e then State.releaseAll w c n (s.releaseEntry w c e) else s

/-- R271: a result or LATE that is discarded is counted, at most to 2^32 - 1. -/
def State.winDiscard (s : State) (c : Nat) : State :=
  s.modCore c (fun x => { x with winErr := Nat.min (2 ^ 32 - 1) (x.winErr + 1) })

/-- R271, R272, R284: a result (its row) or LATE (none) reaches entry rslot of the window of core c. -/
def State.windowResult (s : State) (c rslot inst : Nat) (row : Option (List Lane)) : State :=
  match (s.core c).win with
  | none => s.winDiscard c
  | some w =>
    let st := s.winWord w c rslot 0x10
    if w.n ≤ rslot || w.k ≤ inst || s.winBad w c rslot || bits st 0 2 ≠ winArmed || !bit st (8 + inst) || bit st (16 + inst) then s.winDiscard c
    else
      let t := match row with
        | none => s
        | some l => (List.range w.w).foldl (fun u j =>
            u.agentWrite none (s.cipherKey c) (w.key c rslot (0x40 + 4 * w.w * (1 + inst) + 4 * j)) 4 ((l.getD j 0).zeroExtend 64)) s
      let st1 := setBits (if row.isNone then setBits st (24 + inst) 1 1 else st) (16 + inst) 1 1
      let all := (List.range w.k).all (fun i => bit st1 (16 + i))
      let st2 := if all then setBits st1 0 2 winComplete else st1
      State.releaseAll w c w.n (t.setWinWord w c rslot 0x10 st2)

/-- R271, R302: the result in flight with this number reaches its window; the `xret` that waits for the window's answer goes on. A window
in a retired core is gone, which its issuer learns as F_DEAD. -/
def execWindowResult (idx : Nat) (s : State) : Out :=
  match s.pkg.results[idx]? with
  | none => .next s
  | some r =>
    if (s.core r.origin).health = .stopped then .next s
    else
      let t := s.modPkg (fun p => { p with results := p.results.eraseIdx idx })
      let dead := decide ((s.core r.origin).health = .retired)
      let t := if dead then t else t.windowResult r.origin r.rslot r.inst r.row
      match r.issuer with
      | none => .next t
      | some (c, k) =>
        match (t.slot c k).st, (t.slot c k).pend with
        | .parked, .xret _ => .next (if dead then t.takeFault c k .dead 0 (wrap r.origin) else t.goOn c k)
        | _, _ => .next t

/-! ## Firing (R263 to R267) -/

/-- R263: whether queue b (a number and its state) comes before queue a. -/
def firesBefore (a b : Nat × XQueue) : Bool :=
  let ea : Nat := (a.2.toks.head?.map (·.entry)).getD 0
  let eb : Nat := (b.2.toks.head?.map (·.entry)).getD 0
  decide (a.2.effClass < b.2.effClass) ||
    (a.2.effClass = b.2.effClass && (decide (eb < ea) || (eb = ea && decide (b.1 < a.1))))

/-- R263: the queue that the arbiter of a die picks. -/
def State.arbiter (s : State) (d : Nat) : Option (Nat × XQueue) :=
  ((s.die d).xq.filter (fun p => p.2.eligible s.now)).foldl (fun b p =>
    match b with
    | none => some p
    | some q => if firesBefore q p then some p else some q) none

/-- R265: tokens are taken until `n` are fired or none is left: fired, late, left. -/
def takeTokens (e : Nat) : Nat → List Tok → List Tok × List Tok × List Tok
  | _, [] => ([], [], [])
  | 0, l => ([], [], l)
  | n + 1, t :: l =>
    let dl := tokDeadline t.bytes
    if dl ≠ 0 ∧ dl < e then
      let r := takeTokens e (n + 1) l
      (r.1, t :: r.2.1, r.2.2)
    else
      let r := takeTokens e n l
      (t :: r.1, r.2.1, r.2.2)

/-- R267: the maximal runs of tokens with one seq: first index and length. -/
def tokenRuns : Nat → List Tok → List (Nat × Nat)
  | _, [] => []
  | i, t :: l =>
    match l, tokenRuns (i + 1) l with
    | u :: _, (_, n) :: r => if tokSeq u.bytes = tokSeq t.bytes then (i, n + 1) :: r else (i, 1) :: (i + 1, n) :: r
    | _, r => (i, 1) :: r

/-- R267: the bytes of a fire buffer for a batch maximum. -/
def fireBytes (b : Nat) : Nat := ceilDiv (48 * b + 16) 64 * 64

/-- Table 15.3: the fire record of the fired tokens up to its last token record. -/
def fireRecord (b klen : Nat) (l : List Tok) : List Byte :=
  let runs := tokenRuns 0 l
  let seg (r : Nat × Nat) : List Byte := leBytes 8 (r.1 * 2 ^ 44 + r.1 * 2 ^ 24 + (r.2 - 1)) ++ leBytes 8 (klen * 2 ^ 20)
  leBytes 8 (runs.length - 1) ++ leBytes 8 0 ++ runs.flatMap seg ++ List.replicate (16 * (b - runs.length)) 0 ++ l.flatMap (·.bytes)

/-- R265: the LATE results of discarded tokens set out for their windows. -/
def State.sendLate (s : State) (l : List Tok) : State :=
  let late (t : Tok) : ResultFlight := ⟨tokOrigin t.bytes, tokRslot t.bytes, tokInst t.bytes, none, none⟩
  s.modPkg (fun p => { p with results := p.results ++ l.map late })

/-- R266: a fire is delivered: an arrival at a core, or a task record. -/
def State.deliverFire (s : State) (d qn buf n : Nat) (q : XQueue) : State :=
  let size := fireBytes q.batch
  let mid := s.midpoint d
  let regs := [q.dw 5 + wrap (buf * size), wrap n, wrap (4096 * d + qn), wrap mid]
  let cap := s.capsule? q.handle
  let target := (cap.bind (·.entry q.entry)).getD (q.dw 2, 0)
  let tag : FireTag := ⟨d, qn, buf⟩
  if bit (q.dw 0) 31 then
    let recd : TaskRec :=
      { pc := target.1, handle := q.handle, kernel := target.2, tenant := q.tenant, ctl := q.dw 6, deadline := 0
        regs := regs ++ [0, 0, 0, 0], full := 0x0F, key := ⟨mid, 7168 + d, (s.die d).fireSeq⟩, ctx := q.ctx, entry := q.entry
        fire := some tag }
    (s.modDie d (fun x => { x with fireSeq := x.fireSeq + 1 })).modPkg (fun p =>
      { p with recs := p.recs ++ [⟨ctlDie (q.dw 6) d, recd, none, none, false, false⟩] })
  else
    let a : Arrival :=
      { src := .fire, link := 1, at_ := s.now, pc := target.1, kern := ⟨q.handle, target.2, (cap.map (·.version)).getD 0⟩
        tenant := q.tenant, ctx := q.ctx, regs := (List.range 4).map (fun i => (BitVec.ofNat 4 (i + 1), regs.getD i 0, true))
        bgen := false, task := ⟨none, some tag⟩, record := none, cause := none, miss := 0 }
    s.modCore (bits (q.dw 0) 32 12) (fun x => { x with links := x.links ++ [a] })

/-- R265 to R268: queue qn of die d fires. -/
def State.fire (s : State) (d qn : Nat) (q : XQueue) : State :=
  let r := takeTokens (s.deadlineE d) q.batch (q.seen s.now)
  let rest := r.2.2 ++ q.toks.filter (fun t => !decide (t.at_ < s.now))
  let gone := r.1.length + r.2.1.length
  let left := q.onDie - Nat.min gone q.onDie
  let onDie := left + Nat.min (q.onDie - left) (rest.length - left)
  let t := (s.modXq d qn (fun x => ({ x with toks := rest, onDie := onDie } : XQueue).refresh s.ageTimer)).sendLate r.2.1
  if r.1.isEmpty then t
  else
    match (List.range q.buffers).find? (fun b => !q.busy.contains b) with
    | none => t
    | some buf =>
      let size := fireBytes q.batch
      let bytes := fireRecord q.batch (bits (q.dw 7) 0 21) r.1
      let spot (o : Nat) : Nat := areaAt q.firePa (q.dw 5).toNat (buf * size + o)
      let t := (t.collapseAt ((List.range size).map spot)).writeRun q.ckey spot bytes
      let t := t.scribble q.ckey ((List.range' bytes.length (size - bytes.length)).map spot)
      (t.modXq d qn (fun x => { x with busy := buf :: x.busy })).deliverFire d qn buf r.1.length q

/-- R263: one decision of the arbiter of a die. A decision of a cycle in which a queue is configured is taken before it, with the old
values (R261), and none after it. -/
def execFiringDecision (die : Nat) (s : State) : Out :=
  if (s.die die).cfgCyc = s.now + 1 then .next s
  else
    match s.arbiter die with
    | none => .next s
    | some (n, q) => .next (s.fire die n q)

/-! ## `xenq` (R283) -/

/-- R259: whether a word is a queue word. -/
def queueWordOk (w : Word) : Bool := decide (w.toNat < 2 ^ 15)
/-- The die of a queue word. -/
def queueDie (w : Word) : Nat := bits w 12 3
/-- The queue of a queue word. -/
def queueNo (w : Word) : Nat := bits w 0 12

/-- R283: whether a token record keeps to Table 15.1. -/
def tokenOk (b : List Byte) : Bool :=
  leAt b 31 1 = 0 && decide (tokOrigin b ≤ 3071) && decide (tokRslot b < 1024) && decide (tokInst b < 8)

/-- R283: release, record, queue, origin, place, window entry, acceptance. -/
def execXenq (a b : Reg) (s : State) : Out :=
  let srcs := [a, b]
  s.issue ⟨encode (.xenq a b), .user, false, [], [], srcs, none⟩ (fun t =>
    let va := t.src a
    let qw := t.src b
    if t.me.buf.isEmpty = false then t.parkRetry 4
    else if t.quiet t.curCore t.curSlot = false then t.parkRetry 3
    else if va.toNat % 32 ≠ 0 then t.fault .align va
    else
      match t.readRun va 8 4 with
      | .error u => u
      | .ok l =>
        let bytes := bytesOf (l.map (·.1))
        let d := queueDie qw
        let q := t.xq d (queueNo qw)
        let o := tokOrigin bytes
        if tokenOk bytes = false then t.fault .xrec va
        else if queueWordOk qw = false || q.en = false || q.tenant ≠ t.me.tenant || t.me.kern.all (fun r => r.handle ≠ q.handle) then
          t.fault .xqueue 0 qw
        else if (t.core o).owner ≠ (t.core t.curCore).owner then t.fault .target 0 (wrap o)
        else if (t.core o).health = .retired then t.fault .dead 0 (wrap o)
        else if (t.core o).health = .stopped then t.parkRetry 3
        else
          match t.place d q with
          | none => t.fault .spill 0 qw
          | some onDie =>
            match t.armWindow o (tokRslot bytes) (tokInst bytes) (tokSeq bytes) (tokPos bytes) (tokGate bytes) with
            | none => t.fault .xslot 0 (wrap (o + 2 ^ 12 * tokRslot bytes + 2 ^ 22 * tokInst bytes))
            | some u => (((u.enqueueTok d (queueNo qw) bytes onDie).touchAll 8 l).take srcs).advance)

/-! ## `xret` (R284) -/

/-- R284: release, result word, owner, window, row, delivery; the slot waits with park 3 for the window's answer. -/
def execXret (a b : Reg) (s : State) : Out :=
  let srcs := [a, b]
  s.issue ⟨encode (.xret a b), .user, false, [], [], srcs, none⟩ (fun t =>
    let va := t.src a
    let w := t.src b
    let o := bits w 0 12
    let rslot := bits w 12 10
    let inst := bits w 22 3
    if t.me.buf.isEmpty = false then t.parkRetry 4
    else if t.quiet t.curCore t.curSlot = false then t.parkRetry 3
    else if bits w 26 38 ≠ 0 || 3071 < o then t.fault .xrec
    else if (t.core o).owner ≠ (t.core t.curCore).owner || ((t.core o).win.isSome && (t.core o).winTenant ≠ t.me.tenant) then
      t.fault .target 0 (wrap o)
    else
      match (t.core o).win with
      | none => t.fault .xrec
      | some win =>
        if win.n ≤ rslot || win.k ≤ inst then t.fault .xrec
        else
          let send (u : State) (row : Option (List Lane)) : State :=
            (u.modPkg (fun p => { p with results := p.results ++ [⟨o, rslot, inst, row, some (t.curCore, t.curSlot)⟩] })).parkOn
              (t.pops srcs) 3 (.xret o)
          if bit w 25 then send t none
          else if va.toNat % 4 ≠ 0 then t.fault .align va
          else
            match t.readRun va 4 win.w with
            | .error u => u
            | .ok l => send (t.touchAll 4 l) (some (l.map (fun x => x.1.truncate 32))))

/-! ## `xcfg` (R261, R285) -/

/-- R285: whether a queue record keeps to Table 15.2, but for its entry. -/
def queueRecordOk (l : List Word) : Bool :=
  let w (i : Nat) : Word := l.getD i 0
  let kind := bit (w 0) 31
  bits (w 0) 51 13 = 0 && bits (w 0) 44 3 = 0 && (kind || decide (bits (w 0) 32 12 ≤ 3071)) && decide (1 ≤ bits (w 0) 0 16) &&
  bits (w 1) 49 15 = 0 && decide (bits (w 1) 32 17 ≤ 65536) && decide (1 ≤ bits (w 1) 0 32) &&
  (w 3).toNat % 64 = 0 && bits (w 4) 25 39 = 0 && decide (bits (w 4) 0 25 ≤ 2 ^ 24) && (w 5).toNat % 64 = 0 &&
  (!kind || ctlOk (w 6)) && bits (w 7) 21 43 = 0 && decide (bits (w 7) 0 21 ≤ 2 ^ 20)

/-- R261: whether the fields that are fixed in use agree. -/
def sameFixed (l m : List Word) : Bool :=
  let w (x : List Word) (i : Nat) : Word := x.getD i 0
  bits (w l 0) 47 4 = bits (w m 0) 47 4 && bits (w l 0) 32 12 = bits (w m 0) 32 12 && bit (w l 0) 31 = bit (w m 0) 31 &&
  bits (w l 1) 32 17 = bits (w m 1) 32 17 && w l 3 = w m 3 && w l 4 = w m 4 && w l 5 = w m 5

/-- R261, R285: the physical addresses of the 64 KiB pages of an area of n bytes, if it lies whole in pages of type normal in this
package's HBM, in the translation of a slot of core c. -/
def State.areaPages (s : State) (c : Nat) (x : Slot) (va : Word) (n : Nat) : Option (List Nat) :=
  if n = 0 then some []
  else
    let first := va.toNat / 2 ^ 16
    (List.range' first ((va.toNat + n - 1) / 2 ^ 16 - first + 1)).foldr (fun p acc =>
      match acc, (match region (2 ^ 13) (wrap (p * 2 ^ 16)) with
                  | .translated => s.translate c x (wrap (p * 2 ^ 16)) true true
                  | _ => .absent) with
      | some l, .ok q =>
        (match q.place with
         | .home _ => if q.ty = .normal then some (q.key :: l) else none
         | _ => none)
      | _, _ => none) (some [])

/-- R285, Table 16.7: the outcome of a queue configuration by a slot of core c and the state after it. -/
def State.configureQueue (s : State) (c : Nat) (x : Slot) (qw : Word) (l : List Word) : Nat × State :=
  let d := queueDie qw
  let n := queueNo qw
  let q := s.xq d n
  let w (i : Nat) : Word := l.getD i 0
  let h := (x.kern.map (·.handle)).getD 0
  if queueWordOk qw = false then (2, s)
  else if !q.assigned || q.xten ≠ x.tenant || (q.handle ≠ h && (q.en || !q.toks.isEmpty)) then (3, s)
  else if queueRecordOk l = false || (s.entryKernel x (w 2)).isNone then (2, s)
  else if (!q.toks.isEmpty || !q.busy.isEmpty) && !sameFixed l q.cfg then (1, s)
  else
    match s.areaPages c x (w 3) (32 * bits (w 4) 0 25), s.areaPages c x (w 5) ((bits (w 0) 47 4 + 1) * fireBytes (bits (w 0) 16 12 + 1)) with
    | some sp, some fp =>
      (0, (s.modXq d n (fun y =>
        ({ y with tenant := x.tenant, handle := h, ctx := x.ctx, entry := s.entryNumber h (w 2), cfg := l,
                  ckey := s.cipherKey c, spillPa := sp, firePa := fp } : XQueue).refresh s.ageTimer)).modDie d (fun y =>
          { y with cfgCyc := s.now + 1 }))
    | _, _ => (4, s)

/-- The window that a record of Table 16.6 configures; none where a field is outside its limits. -/
def windowOf (r : Word) : Option WinCfg :=
  let w : WinCfg := ⟨bits r 0 18, bits r 32 10 + 1, bits r 44 3 + 1, bits r 48 10 + 1⟩
  if bits r 58 6 ≠ 0 || bits r 47 1 ≠ 0 || bits r 42 2 ≠ 0 || bits r 18 14 ≠ 0 || w.base % 64 ≠ 0 || 2 ^ 18 < w.base + w.n * w.stride then
    none
  else some w

/-- R285: the outcome of a window configuration by a slot of core c and the state after it. -/
def State.configureWindow (s : State) (c : Nat) (x : Slot) (sel r : Word) : Nat × State :=
  match windowOf r with
  | none => (2, s)
  | some w =>
    if bits sel 0 63 ≠ 0 || isCompute c = false then (2, s)
    else if 0 < s.winActive c then (1, s)
    else
      let t := (List.range w.n).foldl (fun u e =>
        ((u.setWinWord w c e 0x10 0).setWinWord w c e 0 0).setWordFull (w.key c e 0) false) s
      (0, t.modCore c (fun y =>
        { y with win := some w, winPtr := 0, winErr := 0, winFlags := 0, winTenant := x.tenant }))

/-- R285: release, alignment, record; then the slot parks with park 3 until the outcome is in effect. -/
def execXcfg (a b : Reg) (s : State) : Out :=
  let srcs := [a, b]
  s.issue ⟨encode (.xcfg a b), .user, false, [], [], srcs, none⟩ (fun t =>
    let va := t.src a
    let sel := t.src b
    let win := bit sel 63
    if t.me.buf.isEmpty = false then t.parkRetry 4
    else if t.quiet t.curCore t.curSlot = false then t.parkRetry 3
    else if va.toNat % (if win then 8 else 64) ≠ 0 then t.fault .align va
    else
      match t.readRun va 8 (if win then 1 else 8) with
      | .error u => u
      | .ok l =>
        (t.touchAll 8 l).parkOn (t.pops srcs) 3 (.asked (.xcfg sel (l.map (·.1)))))

/-- R261, R285: a configuration takes effect, and its outcome goes to `k.fault`. -/
def State.configure (s : State) (c k : Nat) (sel : Word) (l : List Word) : State :=
  match (if (windowOf (l.getD 0 0)).isSome then s.badStatus c sel else none) with
  | some a => s.takeFault c k .data a
  | none =>
    let x := s.slot c k
    let r := if bit sel 63 then s.configureWindow c x sel (l.getD 0 0) else s.configureQueue c x sel l
    (r.2.modSlot c k (fun y => { y with fault := wrap r.1 })).goOn c k

/-! ## `xstat` (R286) -/

/-- Table 16.8: the status word of a queue. -/
def State.queueStatus (s : State) (q : XQueue) : Word :=
  wrap ((q.toks.length - q.onDie) * 2 ^ 39 + q.onDie * 2 ^ 22 + q.busy.length * 2 ^ 16 +
    (if q.promoted && q.eligible (s.now + 1) then 8 else 0) + (if q.aged then 4 else 0) +
    (if q.cfg.isEmpty = false ∧ q.threshold ≤ q.toks.length then 2 else 0) + (if q.en then 1 else 0))

/-- Table 16.8: the status word of the window of core c. -/
def State.windowStatus (s : State) (c : Nat) : Word :=
  let x := s.core c
  wrap (x.winErr * 2 ^ 32 + x.winPtr * 2 ^ 22 + x.winFlags.toNat * 2 ^ 11 + s.winActive c)

/-- R286: the word that a selector names for a slot of core c; 0 for a malformed selector and for a queue of another tenant than the
one that the hypervisor has assigned it to. -/
def State.xstatValue (s : State) (c : Nat) (x : Slot) (sel : Word) : Word :=
  if bit sel 63 then (if bits sel 0 63 = 0 && isCompute c then s.windowStatus c else 0)
  else if queueWordOk sel then
    let q := s.xq (queueDie sel) (queueNo sel)
    if q.assigned && q.xten = x.tenant then s.queueStatus q else 0
  else 0

/-- R286: parks with park 3 for the answer, a snapshot. -/
def execXstat (d a : Reg) (s : State) : Out :=
  s.issue ⟨encode (.xstat d a), .user, false, [], [], [a], some d⟩ (fun t =>
    t.parkOn (t.pops [a]) 3 (.asked (.xstat d (t.src a))))

end Sys2Proof.Machine
end

