-- ==== Sys2Proof/Machine/Matrix.lean ====
section
/-!
DEFINITION. The work of a matrix job (R245 to R249, R251, R253): operands, segments, sums and write-out; and accumulator images
(R252, R280).
-/

namespace Sys2Proof.Machine

open Sys2Proof

/-! ## Fields of a matrix descriptor (Table 16.2) -/

/-- R49: the element types of a format pair, A first. -/
def pairTypes (fn : Nat) : ETy × ETy :=
  match fn with
  | 0 => (.l6, .l6) | 1 => (.l6, .e4) | 2 => (.e4, .e4) | 3 => (.e5, .e5) | 4 => (.e4, .e5) | 5 => (.i8, .i8) | 6 => (.bf16, .bf16)
  | _ => (.f16, .f16)
/-- R109: whether a pair accumulates on the integer path. -/
def intPair (fn : Nat) : Bool := fn = 0 || fn = 5
/-- K. -/
def Job.k (j : Job) : Nat := bits (dwAt j.dws 1) 16 21
/-- N. -/
def Job.n (j : Job) : Nat := bits (dwAt j.dws 1) 0 9
/-- Ebase, signed. -/
def Job.ebase (j : Job) : Int := toSigned 16 (bits (dwAt j.dws 1) 48 16)
/-- The write-out format. -/
def Job.wfmt (j : Job) : Nat := bits (dwAt j.dws 0) 20 3
/-- Keep mode. -/
def Job.keep (j : Job) : Bool := bit (dwAt j.dws 0) 18
/-- The ring mask. -/
def Job.rmask (j : Job) : Nat := bits (dwAt j.dws 5) 44 4
/-- The ring tag. -/
def Job.rtag (j : Job) : Nat := bits (dwAt j.dws 5) 48 16
/-- R249: the scale codes of K-block b. -/
def Job.scales (j : Job) (b : Nat) : Nat × Nat := ((j.scaleA.getD b 127).toNat, (j.scaleB.getD b 127).toNat)

/-! ## Operands (R96, R246, R247) -/

/-- Table 14.3: the bytes of k elements. -/
def operandBytes (t : ETy) (k : Nat) : Nat := if t = .l6 then 3 * ceilDiv k 4 else k * (t.width / 8)

/-- The bytes of element i of an operand: the offset of its first byte and their number; and the element of their value. -/
def elemPlace (t : ETy) (i : Nat) : Nat × Nat := if t = .l6 then (3 * (i / 4), 3) else (i * (t.width / 8), t.width / 8)
/-- The element in the value of the bytes of `elemPlace`. -/
def elemIn (t : ETy) (i v : Nat) : Nat := if t = .l6 then v / 2 ^ (6 * (i % 4)) % 64 else v

/-- R246: the core and the local offset of row r of A. -/
def Job.rowPlace (j : Job) (cluster r : Nat) : Nat × Nat :=
  (8 * cluster + r % 8, bits (dwAt j.dws 2) 0 18 + r / 8 * bits (dwAt j.dws 2) 32 18)

/-- R246, R255: row r of A at the positions [lo, hi); a row that would run past its memory ends the job, with the core-window address of the
row's start as the faulting address (DESIGN CHOICE, log entry 77). Banks of a retired core end the job (R302); banks of a stopped core make the
engine wait (R300). -/
def Work.rowA (w : Work) (j : Job) (cluster r lo hi : Nat) : Run (List Nat) :=
  let t := (pairTypes j.fn).1
  let p := j.rowPlace cluster r
  if 2 ^ 18 < p.2 + operandBytes t j.k then .fail w 2 0 (wrap (lmemKey p.1 p.2))
  else if (w.s.core p.1).health = .stopped then .hold
  else if (w.s.core p.1).health = .retired then .fail w 2 0 (wrap (lmemKey p.1 p.2))
  else
    runList (fun u i =>
      let q := elemPlace t i
      let key := lmemKey p.1 (p.2 + q.1)
      if (List.range q.2).any (fun b => u.s.badWord (key + b)) then .fail u 6 2 u.last
      else
        let v := (List.range q.2).foldr (fun b a => (u.s.memLoad j.ckey (key + b) 1).toNat + 256 * a) 0
        .ok ((List.range q.2).foldl (fun x b => x.touch (key + b)) u) (elemIn t i v)) (List.range' lo (hi - lo)) w

/-- R247: column c of B at the positions [lo, hi). -/
def Work.columnB (w : Work) (j : Job) (c lo hi : Nat) : Run (List Nat) :=
  let t := (pairTypes j.fn).2
  let base := dwAt j.dws 3 + wrap (c * bits (dwAt j.dws 4) 0 32)
  runList (fun u i =>
    let q := elemPlace t i
    (u.read j (base + wrap q.1) q.2).bind (fun u1 v => .ok u1 (elemIn t i v))) (List.range' lo (hi - lo)) w

/-- R247: the job as the engine that fetches K-slice n runs it: in a ring group the engine n mod G in cluster order, with its own submitter's
translation. -/
def Job.reader (j : Job) (n : Nat) : Job :=
  match j.ring[n % j.ring.length]? with
  | some e => { j with core := e.core, tenant := e.tenant, owner := e.owner, ckey := e.ckey }
  | none => j

/-- R247: a slice is handed on until every member of the job's ring group has it. -/
def State.shareSlice (s : State) (j : Job) (n : Nat) (l : List (List Nat)) : State :=
  j.ring.foldl (fun t e => t.modCluster e.cluster (fun x =>
    { x with mx := { x.mx with jobs := x.mx.jobs.map (fun y => if y.seq = e.seq then { y with bs := (n, l) :: y.bs } else y) } })) s

/-- R247: K-slice n of B, 32 positions across the job's columns, read from memory once, when a row first needs it. Where it cannot be read, the
job that needs it ends (DESIGN CHOICE, log entry 77). -/
def Work.sliceB (w : Work) (j : Job) (n : Nat) : Run (List (List Nat)) :=
  match w.bs.find? (fun p => p.1 = n) with
  | some p => .ok w p.2
  | none =>
    (runList (fun u c => u.columnB (j.reader n) c (32 * n) (Nat.min (32 * n + 32) j.k)) (List.range j.n) w).bind (fun u l =>
      .ok { u with s := u.s.shareSlice j n l, bs := (n, l) :: u.bs } l)

/-- Columns of B at the positions [lo, hi), from the slices from number n on. -/
def columnsOf (l : List (List (List Nat))) (cols n lo hi : Nat) : List (List Nat) :=
  (List.range cols).map (fun c => (List.range' lo (hi - lo)).map (fun k => (((l.getD (k / 32 - n) []).getD c []).getD (k % 32) 0)))

/-! ## Sums (R104 to R111, R251) -/

/-- One accumulator element on the integer path: the terms of positions lo, lo + 1, … are added, and the 64-bit range is tested once, on the
job's total (DESIGN CHOICE, log entry 77). -/
def intElement (j : Job) (l : List (Nat × Nat)) (lo : Nat) (e : AccEl) : AccEl × JobFl :=
  let term (a b ca cb : Nat) : Term := if j.fn = 0 then logTerm a b ca cb j.ebase else intTerm a b ca cb j.ebase
  let r := (List.range l.length).foldl (fun (acc : Int × Bool × Bool) i =>
    let p := l.getD i (0, 0)
    let sc := j.scales ((lo + i) / 32)
    match term p.1 p.2 sc.1 sc.2 with
    | .invalid => (acc.1, true, acc.2.2)
    | .val v range => (acc.1 + v, acc.2.1, acc.2.2 || range)) ((0 : Int), false, false)
  let v := toSigned 64 e.v.toNat + r.1
  let wrapped := decide (v < -(2 ^ 63)) || decide ((2 ^ 63 : Int) ≤ v)
  (⟨wrap (toBits 64 v), e.mark || r.2.1⟩, if r.2.2 || wrapped then jflRange else 0)

/-- One accumulator element on the FP32 path: slices of 32 positions in increasing order; positions outside [lo, lo + length) are
absent. An element that an integer-path job or an image has left with bits 63:32 or an invalid mark: the sum starts from its low 32 bits, and
the mark stays (R109 does not say: DESIGN CHOICE, log entry 68). -/
def floatElement (j : Job) (l : List (Nat × Nat)) (lo : Nat) (e : AccEl) : AccEl × JobFl :=
  let t := pairTypes j.fn
  let r := (List.range (ceilDiv (lo + l.length) 32)).foldl (fun (acc : Nat × Fl) b =>
    let sc := j.scales b
    let ps := (List.range 32).map (fun i =>
      let k := 32 * b + i
      if lo ≤ k ∧ k < lo + l.length then
        let p := l.getD (k - lo) (0, 0)
        some (floatProduct t.1 t.2 p.1 p.2 sc.1 sc.2)
      else none)
    let sum := sliceSum (ps.map (fun o => o.map (·.1)))
    let fl := ps.foldl (fun a o => match o with | some x => a ||| x.2 | none => a) (acc.2 ||| sum.2)
    match sum.1 with
    | none => (acc.1, fl)
    | some v => let q := fmtF32.add acc.1 v; (q.1, fl ||| q.2)) (e.v.toNat % 2 ^ 32, flNone)
  (⟨wrap r.1, e.mark⟩, jflOf r.2)

/-! ## Tiles (R251) -/

/-- No sum and no mark. -/
def AccEl.zero : AccEl := ⟨0, false⟩
/-- The place of element (i, c) of a tile in the engine's table. -/
def accKey (edge tile i c : Nat) : Nat := tile * 2 ^ 16 + edge * i + c
/-- Element (i, c) of a tile. -/
def State.accEl (s : State) (cluster tile i c : Nat) : AccEl :=
  Tab.get AccEl.zero (s.cluster cluster).acc (accKey (edgeOf cluster) tile i c)
/-- Writes element (i, c) of a tile. -/
def State.setAccEl (s : State) (cluster tile i c : Nat) (e : AccEl) : State :=
  s.modCluster cluster (fun x => { x with acc := Tab.set AccEl.zero x.acc (accKey (edgeOf cluster) tile i c) e })
/-- R294: a tile is set to zero and unmarked. -/
def State.clearTile (s : State) (cluster tile : Nat) : State :=
  s.modCluster cluster (fun x => { x with acc := x.acc.filter (fun p => p.1 / 2 ^ 16 ≠ tile) })

/-! ## Segments (R248, Table 14.4) -/

/-- A segment: first output row, first row of A, rows, first position, positions. -/
structure Segment where
  orow : Nat
  arow : Nat
  rows : Nat
  k0 : Nat
  klen : Nat

/-- The number of segments that a shape header names. -/
def segmentCount (h0 : Word) : Nat := bits h0 0 12 + 1

/-- Segment i of a shape record read as doublewords. -/
def segmentAt (dws : List Word) (i : Nat) : Segment :=
  let a := dwAt dws (2 + 2 * i)
  let b := dwAt dws (3 + 2 * i)
  ⟨bits a 44 20, bits a 24 20, bits a 0 16 + 1, bits b 0 20, bits b 20 21⟩

/-- R248: the first segments that do not fail, and the index of the first that does. `prev` is where the rows of the one before end. -/
def goodSegments (dws : List Word) (edge k : Nat) : Nat → Nat → Nat → List Segment × Option Nat
  | 0, _, _ => ([], none)
  | n + 1, i, prev =>
    let g := segmentAt dws i
    if edge < g.orow + g.rows || g.orow < prev || k < g.k0 + g.klen || bits (dwAt dws (2 + 2 * i)) 16 8 ≠ 0 ||
        bits (dwAt dws (3 + 2 * i)) 41 23 ≠ 0 then ([], some i)
    else
      let r := goodSegments dws edge k n (i + 1) (g.orow + g.rows)
      (g :: r.1, r.2)

/-- The output rows of segments, each with its row of A and its positions. -/
def segmentRows (l : List Segment) : List (Nat × Nat × Nat × Nat) :=
  l.flatMap (fun g => (List.range g.rows).map (fun i => (g.orow + i, g.arow + i, g.k0, g.k0 + g.klen)))

/-! ## The job (R245, R251, R253) -/

/-- The sums of one output row against every column; `cols` are the columns of B at the positions of the row's segment. -/
def Work.sumRow (w : Work) (j : Job) (cluster row : Nat) (a : List Nat) (cols : List (List Nat)) (lo : Nat) : Work :=
  (List.range j.n).foldl (fun u c =>
    let e := if intPair j.fn then intElement j (a.zip (cols.getD c [])) lo (u.s.accEl cluster j.tile row c)
             else floatElement j (a.zip (cols.getD c [])) lo (u.s.accEl cluster j.tile row c)
    { u with s := u.s.setAccEl cluster j.tile row c e.1, fl := u.fl ||| e.2 }) w

/-- The type and bytes of a write-out format; none for raw. -/
def outType (wfmt : Nat) : Option ETy × Nat :=
  match wfmt with
  | 1 => (some .f32, 4) | 2 => (some .bf16, 2) | 3 => (some .f16, 2) | 4 => (some .e4, 1) | 5 => (some .e5, 1) | 6 => (some .l6, 1)
  | _ => (none, 8)

/-- R107, R253: the pattern that an element writes. An FP32 element that goes to FP32 is written as it is, a NaN of any pattern with no flag (DESIGN
CHOICE, log entry 68). -/
def outValue (j : Job) (e : AccEl) : Nat × Fl :=
  let sat := bit (dwAt j.dws 0) 15
  match (outType j.wfmt).1 with
  | none => (e.v.toNat, flNone)
  | some t =>
    if intPair j.fn then
      if e.mark then ((if t = .l6 then 0x30 else t.fmt.nan), flNone)
      else
        let v := toSigned 64 e.v.toNat
        t.encode false sat (.fin (decide (v < 0)) v.natAbs (j.ebase - 40))
    else if t = .f32 then (e.v.toNat % 2 ^ 32, flNone)
    else convert .f32 t false sat (e.v.toNat % 2 ^ 32)

/-- R253: element (row, c) is written out. -/
def Work.writeEl (w : Work) (j : Job) (cluster row c : Nat) : Run Unit :=
  let v := outValue j (w.s.accEl cluster j.tile row c)
  let va := dwAt j.dws 7 + wrap row * dwAt j.dws 8 + wrap (c * (outType j.wfmt).2)
  ({ w with fl := w.fl ||| jflOf v.2 } : Work).write j va (outType j.wfmt).2 v.1

/-- R248: the segments of a matrix job before the first that fails, and the index of that one; none at all under a bad header. -/
def Job.segments (j : Job) (cluster : Nat) : List Segment × Option Nat :=
  goodSegments j.recWords (edgeOf cluster) j.k (segmentCount (dwAt j.recWords 0)) 0 0

/-- R248: whether the header of the shape record is bad. -/
def Job.badHeader (j : Job) : Bool := bits (dwAt j.recWords 0) 12 52 ≠ 0 || dwAt j.recWords 1 ≠ 0

/-- The output rows of a matrix job, each with its row of A and its positions. -/
def Job.rows (j : Job) (cluster : Nat) : List (Nat × Nat × Nat × Nat) :=
  if j.badHeader then [] else segmentRows (j.segments cluster).1

/-- R251: the rows that a job without keep mode sums into are set to zero when its work begins. -/
def Work.clearRows (w : Work) (j : Job) (cluster : Nat) (rows : List (Nat × Nat × Nat × Nat)) : Work :=
  if j.keep then w
  else
    { w with s := rows.foldl (fun t r =>
        (List.range (edgeOf cluster)).foldl (fun u c => u.setAccEl cluster j.tile r.1 c AccEl.zero) t) w.s }

/-- The sums of one output row: its row of A, the columns of B at its positions. A row without positions reads no row of A (DESIGN CHOICE, log
entry 77). -/
def Work.rowPart (w : Work) (j : Job) (cluster : Nat) (r : Nat × Nat × Nat × Nat) : Run Unit :=
  let lo := r.2.2.1
  let hi := r.2.2.2
  if lo = hi then .ok w ()
  else
    (w.rowA j cluster r.2.1 lo hi).bind (fun u a =>
      (runList (fun x n => x.sliceB j n) (List.range' (lo / 32) (ceilDiv hi 32 - lo / 32)) u).bind (fun x l =>
        .ok (x.sumRow j cluster r.1 a (columnsOf l j.n (lo / 32) lo hi) lo) ()))

/-- R245 to R253: the parts of a matrix job's work, in order: the sums of each output row, then the write-out of each element. -/
def Job.matrixParts (j : Job) (cluster : Nat) : Nat :=
  let n := (j.rows cluster).length
  if j.wfmt = 0 then n else n + n * j.n

/-- Part i of a matrix job's work. -/
def Work.matrixPart (w : Work) (j : Job) (cluster i : Nat) : Run Unit :=
  let rows := j.rows cluster
  let w := if i = 0 then w.clearRows j cluster rows else w
  match rows[i]? with
  | some r => w.rowPart j cluster r
  | none => w.writeEl j cluster ((rows.getD ((i - rows.length) / j.n) (0, 0, 0, 0)).1) ((i - rows.length) % j.n)

/-- Code and detail of the status of a matrix job whose parts are all done. -/
def Job.matrixEnd (j : Job) (cluster : Nat) : Nat × Nat :=
  if j.badHeader then (1, 0xFFFF)
  else
    match (j.segments cluster).2 with
    | some i => (1, i)
    | none => (0, 0)

/-- R244: whether a matrix job has done its sums and is writing out. -/
def Job.writingOut (j : Job) (cluster : Nat) : Bool := decide ((j.rows cluster).length ≤ j.pos)

/-- R248, R275: the shape record that a matrix job reads when it starts. -/
def Work.readShape (w : Work) (j : Job) : Run (List Word) :=
  let va := dwAt j.dws 6
  (w.readDws j va 2).bind (fun u h =>
    if bits (dwAt h 0) 12 52 ≠ 0 || dwAt h 1 ≠ 0 then .ok u h
    else (u.readDws j (va + 16) (2 * segmentCount (dwAt h 0))).bind (fun x l => .ok x (h ++ l)))

/-! ## Accumulator images (R252, R280) -/

/-- R252: the bytes of an image. -/
def imageBytes (edge : Nat) : Nat := 8 * edge * edge + edge * edge / 8

/-- R252: a tile's lock is set: an accepted job names it, or an image transfer runs on it. -/
def State.tileLocked (s : State) (cluster tile : Nat) : Bool :=
  (s.cluster cluster).mx.jobs.any (fun j => j.tile = tile) || (s.cluster cluster).accLock.any (fun p => p.1 = tile)

/-- The addresses at which an image meets a new page of 64 KiB. -/
def imagePages (va : Word) (n : Nat) : List Word :=
  va :: (List.range (n / 2 ^ 16 + 1)).filterMap (fun i =>
    let a := va.toNat / 2 ^ 16 * 2 ^ 16 + (i + 1) * 2 ^ 16
    if a < va.toNat + n then some (wrap a) else none)

/-- The place of a page of an image: one of type normal or synchronising in translated memory; or what keeps the image from being moved. -/
inductive ImagePage where
  | ok (l : Loc)
  | walk
  | memtype (code : Nat)
  | fault (f : FaultCode)
  deriving DecidableEq, Repr

/-- R280: the page of an image at an address, for the slot whose turn it is. -/
def State.imagePage (s : State) (load : Bool) (a : Word) : ImagePage :=
  match region s.curCore a with
  | .none_ => .fault .addr
  | .translated =>
    match s.find s.curCore s.me a load (!load) with
    | .ok l => if plainTy l.ty then .ok l else .memtype l.ty.code
    | .fault f => .fault f
    | _ => .walk
  | _ => .memtype 0

/-- R255, R280: the places of the pages of an image, or the state in which the slot has stopped or waits; the first page that fails
decides. An absent page is waited for where the slot stands. -/
def State.imageLocs (s : State) (load : Bool) : List Word → Except State (List Loc)
  | [] => .ok []
  | a :: t =>
    match s.imagePage load a with
    | .memtype n => .error (s.fault .memtype a (wrap n))
    | .fault f => .error (s.fault f a (f.detail (.image (!load))))
    | .walk =>
      (match s.resolveVa (dieOf s.curCore) s.me.tenant a s.me.priv load (!load) with
       | .absent => .error (s.parkRetry 3)
       | _ => .error (s.startWalk a (.image (!load)) load (!load)))
    | .ok l =>
      match s.imageLocs load t with
      | .ok ls => .ok (l :: ls)
      | .error u => .error u

/-- R252, R280: the lock is taken, or waited for. -/
def State.lockOrWait (t : State) (load : Bool) (va : Word) (pages : List Loc) (cluster tile : Nat) (srcs : List Reg) : State :=
  if t.tileLocked cluster tile then t.parkOn (t.pops srcs) 7 (.acc load va pages cluster tile false)
  else
    (t.parkOn (t.pops srcs) 5 (.acc load va pages cluster tile true)).modCluster cluster (fun x =>
      { x with accLock := (tile, (t.curCore, t.curSlot)) :: x.accLock, touchCyc := t.now + 1 })

/-- R280: the checks of `accld` and `accst`, then the lock (park 5) or the wait for it (park 7). -/
def accImage (i : Instr) (load : Bool) (a b : Reg) (tile : Nat) (s : State) : Out :=
  let srcs := [a, b]
  s.issue ⟨encode i, .user, false, [], [], srcs, none⟩ (fun t =>
    let va := t.src a
    let sel := t.src b
    let cluster := bits sel 23 9
    if t.me.buf.isEmpty = false then t.parkRetry 4
    else if t.quiet t.curCore t.curSlot = false then t.parkRetry 3
    else if va.toNat % 64 ≠ 0 then t.fault .align va
    else
      match t.imageLocs load (imagePages va (imageBytes (edgeOf cluster))) with
      | .error u => u
      | .ok pages =>
        if 383 < cluster then t.fault .cap 0 2
        else
          match t.capCheck cluster sel (decide (bits sel 6 17 = 0)) t.me.tenant (t.core t.curCore).owner 2 with
          | some code => t.fault .cap 0 (wrap code)
          | none =>
            match (if load then none else pages.find? (·.rp)) with
            | some l => t.park 3 (.collapse (l.key / 2 ^ 16))
            | none => t.lockOrWait load va pages cluster tile srcs)

/-- R280. -/
def execAccld (a b : Reg) (t : BitVec 1) (s : State) : Out := accImage (.accld a b t) true a b t.toNat s
/-- R280. -/
def execAccst (a b : Reg) (t : BitVec 1) (s : State) : Out := accImage (.accst a b t) false a b t.toNat s

/-- The memory key and the page of byte o of an image at an address, whose pages have been translated. -/
def imageAt (va : Word) (pages : List Loc) (o : Nat) : Nat × Loc :=
  let n := (va.toNat + o) / 2 ^ 16 - va.toNat / 2 ^ 16
  let l := pages.getD n ⟨0, .devReg, .device, false, false⟩
  (if n = 0 then l.key + o else l.key + (va.toNat + o) % 2 ^ 16, l)

/-- R252: a tile is read from an image. -/
def State.loadTile (s : State) (ck : Nat) (va : Word) (pages : List Loc) (cluster tile : Nat) : State :=
  let e := edgeOf cluster
  (List.range (e * e)).foldl (fun t n =>
    let v := s.wordAs ck (imageAt va pages (8 * n)).1
    let m := s.memLoad ck (imageAt va pages (8 * e * e + n / 8)).1 1
    t.setAccEl cluster tile (n / e) (n % e) ⟨v, m.getLsbD (n % 8)⟩) s

/-- R252: an image is written from a tile; each synchronising word is set full (R211). -/
def State.storeTile (s : State) (c k : Nat) (va : Word) (pages : List Loc) (cluster tile : Nat) : State :=
  let e := edgeOf cluster
  let ck := s.cipherKey c
  let put (t : State) (o : Nat) (v : Word) : State :=
    let l := imageAt va pages o
    let u := t.agentWrite (some (c, k)) ck l.1 8 v
    if l.2.ty = .sync then u.setWordFull l.1 true else u
  let t := (List.range (e * e)).foldl (fun t n => put t (8 * n) (s.accEl cluster tile (n / e) (n % e)).v) s
  (List.range (e * e / 64)).foldl (fun t w =>
    put t (8 * e * e + 8 * w) (wrap ((List.range 64).foldl (fun a b =>
      let n := 64 * w + b
      if (s.accEl cluster tile (n / e) (n % e)).mark then a + 2 ^ b else a) 0))) t

/-- R355: what keeps a transfer from a page of an image, with the page's first address. -/
def State.imageLost (s : State) (va : Word) (pages : List Loc) (n : Nat) : Option (FaultCode × Word × Word) :=
  ((imagePages va n).zip pages).findSome? (fun p => s.lostPlace p.2 p.1)

/-- R252, R280: the transfer of a slot that holds its tile's lock, or whose lock has cleared, is performed whole; the lock clears and
the slot goes on. A page in a package that has left the pod meanwhile raises F_ADDR (R355). -/
def execAccLockRelease (core slot : Nat) (s : State) : Out :=
  match (s.slot core slot).st, (s.slot core slot).pend with
  | .parked, .acc load va pages cluster tile running =>
    if !running && s.tileLocked cluster tile then .next s
    else
      let unlock (t : State) : State := t.modCluster cluster (fun y =>
        { y with accLock := y.accLock.filter (fun p => !(p.1 = tile && p.2 = (core, slot))), touchCyc := s.now + 1 })
      match s.imageLost va pages (imageBytes (edgeOf cluster)) with
      | some f => .next ((unlock s).takeFault core slot f.1 f.2.1 f.2.2)
      | none =>
      match (if load then (List.range (imageBytes (edgeOf cluster) / 8)).find? (fun n => s.badWord (imageAt va pages (8 * n)).1)
             else none) with
      | some n => .next ((unlock s).takeFault core slot .data (va + wrap (8 * n)))
      | none =>
        let t := if load then (s.clearTile cluster tile).loadTile (s.cipherKey core) va pages cluster tile
                 else s.storeTile core slot va pages cluster tile
        .next ((unlock t).goOn core slot)
  | _, _ => .next s

end Sys2Proof.Machine
end

