-- ==== Sys2Proof/Machine/System.lean ====
section
/-!
DEFINITION. System instructions (R331 to R334), fault notices and the runtime's answers to them (R292), system calls (R296, R297),
pre-emption (R307 to R309, R330), and event queues (R256).
-/

namespace Sys2Proof.Machine

open Sys2Proof

/-! ## Words that no instruction has, traps, `nop`, `halt` (R34, R331, R332) -/

/-- R34: a word that is unassigned raises F_ILLEGAL precisely, before anything else about it is looked at (R35). -/
def execUnassignedWord (w : BitVec 32) (s : State) : Out := .next (s.fault .illegal 0 (w.zeroExtend 64))

/-- R331. -/
def execTrap (s : State) : Out :=
  s.issue ⟨encode .trap, .user, false, [], [], [], none⟩ (fun t => t.fault .trap 0 ((encode .trap).zeroExtend 64))

/-- R331. -/
def execBkpt (s : State) : Out :=
  s.issue ⟨encode .bkpt, .user, false, [], [], [], none⟩ (fun t => t.fault .bkpt 0 ((encode .bkpt).zeroExtend 64))

/-- R332. -/
def execNop (s : State) : Out := s.issue ⟨encode .nop, .user, false, [], [], [], none⟩ (fun t => t.advance)

/-- R332: a set notice bit is cleared and the slot goes on; else it idles until the bit is set. -/
def execHalt (s : State) : Out :=
  s.issue ⟨encode .halt, .privileged, false, [], [], [], none⟩ (fun t =>
    if t.me.notice then (t.modMe (fun x => { x with notice := false })).advance else t.park 8 .idle)

/-! ## Resuming and freeing a STOPPED slot (R292, R331) -/

/-- R308: whether a group is quiescent. -/
def State.quiescent (s : State) (g : List Nat) : Bool :=
  g.all (fun c => (s.slotsOn c).all (fun p =>
    (p.2.st = .free || p.2.st = .stopped) && p.2.buf.isEmpty && p.2.out.isEmpty)) &&
  s.clusters.all (fun p => (p.2.mx.jobs ++ p.2.cp.jobs).all (fun j => !g.contains j.core)) &&
  s.pkg.rputs.all (fun r => !g.contains r.core)

/-- R308: a quiescent group of which a slot is resumed or restored takes arrivals again. -/
def State.endQuiescence (s : State) (c : Nat) : State :=
  let g := (s.core c).preGroup
  if (s.core c).pre ≠ .off ∧ s.quiescent g then
    g.foldl (fun t n => t.modCore n (fun x => { x with pre := .off, preGroup := [], preExpired := false, quiesced := false })) s
  else s

/-- R292, R308, R331: a STOPPED slot is resumed, and with it the group that was pre-empted; any other is left unchanged. -/
def State.resumeSlot (s : State) (c k : Nat) : State :=
  if (s.slot c k).st = .stopped then (s.endQuiescence c).modSlot c k Slot.resume else s

/-- Whether a slot stands as a segment of its context's save has taken it (R311): its thread goes on when the save comes back. -/
def State.isSealed (s : State) (c k : Nat) : Bool :=
  bit (s.core c).owner 39 &&
  (s.keySlot (bits (s.core c).owner 32 7)).kept.any (fun p => p.1 = 16 * c + k && p.2.claims = (s.slot c k).claims)

/-- R292: a STOPPED slot becomes FREE, with no DONE record. -/
def State.dismissSlot (s : State) (c k : Nat) : State :=
  if (s.slot c k).st = .stopped then (if s.isSealed c k then s.vacate c k false true else s.freeSlot c k false true) else s

/-- R292: 1 written to `k.sctl`. -/
def execSctlResume (core slot : Nat) (s : State) : Out := .next (s.resumeSlot core slot)
/-- R292: 2 written to `k.sctl`. -/
def execSctlFree (core slot : Nat) (s : State) : Out := .next (s.dismissSlot core slot)

/-- The package core number that `k.tgt` selects (R327). -/
def Slot.tgtCore (x : Slot) : Nat := bits x.tgt 0 12
/-- The slot number that `k.tgt` selects. -/
def Slot.tgtSlot (x : Slot) : Nat := bits x.tgt 16 4
/-- The index in `k.tgt`. -/
def Slot.tgtIndex (x : Slot) : Nat := bits x.tgt 32 32

/-- R329: whether core c reaches slot, core and cluster targets of core n. -/
def reachesCore (c n : Nat) : Bool := decide (n ≤ 3071) && (c = securityCore || tileOf n = tileOf c)
/-- R329: whether core c reaches level and die targets of core n. -/
def reachesDie (c n : Nat) : Bool := decide (n ≤ 3071) && (c = securityCore || dieOf n = dieOf c)

/-- R331: resumes the slot that `k.tgt` selects; the issuing slot loses its own reservation (R227). -/
def execEret (s : State) : Out :=
  s.issue ⟨encode .eret, .privileged, false, [], [], [], none⟩ (fun t =>
    let c := t.me.tgtCore
    if reachesCore t.curCore c then ((t.modMe (fun x => { x with resv := none })).resumeSlot c t.me.tgtSlot).advance
    else t.fault .target 0 (wrap c))

/-- R292, R332: the oldest fault notice of a tile reaches its service core. -/
def execFaultNotice (tile : Nat) (s : State) : Out :=
  match s.pkg.notices.find? (fun n => match n with | .fault t _ => t = tile | _ => false) with
  | none => .next s
  | some n =>
    .next ((s.modPkg (fun p =>
      { p with notices := p.notices.erase n, got := Tab.set [] p.got tile (Tab.get [] p.got tile ++ [n]) })).notify (serviceCore tile))

/-! ## Anchors (R309, R323, R332) -/

/-- R315: the number of the anchor at an address of a slot's capsule. -/
def State.anchorAt (s : State) (x : Slot) (pc : Word) : Option Nat :=
  match x.kern.bind (fun r => s.capsule? r.handle) with
  | none => none
  | some cap =>
    (cap.body.anchors.find? (fun a => match a.off with | some o => cap.body.base + wrap o = pc | none => false)).map (·.num)

/-- R323: whether the anchor at which a slot stands is in its context's breakpoint set. -/
def State.breakpoint (s : State) (x : Slot) : Bool := (s.anchorAt x x.pc).any (Tab.get Ctx.reset s.pkg.ctxs x.ctx).bkpts.contains

/-- R323, R332: no effect in itself; F_BKPT where the breakpoint set holds the anchor. -/
def execAnchor (s : State) : Out :=
  s.issue ⟨encode .anchor, .user, false, [], [], [], none⟩ (fun t =>
    if t.breakpoint t.me then t.fault .bkpt 0 ((encode .anchor).zeroExtend 64) else t.advance)

/-! ## `tlbinv` (R334) -/

/-- R334: the entries that a kind removes for an address and a tenant. An entry of stage 1 goes with all its pieces (R194). -/
def tlbCovers (kind va : Word) (tenant : BitVec 8) (e : TlbEnt) : Bool :=
  if kind = 0 then e.tenant = tenant && decide (va.toNat % 2 ^ 57 / e.page = e.va / e.page)
  else if kind = 1 then decide (e.tenant = tenant)
  else if kind = 2 then e.tenant = tenant && decide (e.gpa / 2 ^ 21 = bits va 21 31)
  else decide (kind = 3)

/-- Every TLB entry of the package. -/
def State.tlbEntries (s : State) : List TlbEnt :=
  s.cores.flatMap (fun p => p.2.itlb ++ p.2.dtlb) ++ s.clusters.flatMap (fun p => p.2.tlb2)

/-- R334: the entries are removed; reservations on the blocks they cover are lost (R227), whether or not a TLB still holds the entry: those of
the tenant anywhere in the largest page of the address, or in a frame's case anywhere, since any may be lost at any time (R227); and a walk that began before starts anew, so
that none outlives the instruction. -/
def State.invalidate (s : State) (kind va : Word) (tenant : BitVec 8) : State :=
  if 3 < kind.toNat then s
  else
    let gone := s.tlbEntries.filter (tlbCovers kind va tenant)
    let lost (x : Slot) (r : Resv) : Bool :=
      decide (64 * r.key < 2 ^ 56) &&
      (gone.any (fun e => decide (e.pa ≤ 64 * r.key) && decide (64 * r.key < e.pa + e.size)) ||
       (x.tenant = tenant && (kind = 1 || kind = 2 || (kind = 0 && decide (r.blk / 2 ^ 24 = va.toNat / 2 ^ 30)))) || kind = 3)
    (s.dropTlb (tlbCovers kind va tenant)).mapSlots (fun _ _ x =>
      let y := match x.resv with
        | some r => if lost x r then { x with resv := none } else x
        | none => x
      match y.st, y.pend with
      | .parked, .wrs _ => if x.resv.isSome && y.resv.isNone then y.wakeNext else y
      | .parked, .walk _ _ _ _ _ _ _ => y.wake
      | _, _ => y)

/-- R334: earlier accesses first. The wait for them is no park (Table 21.1 lists park 1 alone): the slot stays READY and tries again at its next turn
(DEDUCED, log entry 79). -/
def execTlbinv (a b : Reg) (s : State) : Out :=
  let srcs := [a, b]
  s.issue ⟨encode (.tlbinv a b), .privileged, false, [], [], srcs, none⟩ (fun t =>
    if t.quiet t.curCore t.curSlot = false then t
    else ((t.take srcs).invalidate (t.src b) (t.src a) (BitVec.ofNat 8 t.me.tgtIndex)).advance)

/-! ## System calls (R296, R297, R333) -/

/-- R296, R333: park 10; on service and security cores F_ILLEGAL. A register that the packet would carry with an uncorrectable error raises
F_DATA (R298). -/
def execSysc (a : Reg) (s : State) : Out :=
  if isCompute s.curCore = false then .next (s.fault .illegal 0 ((encode (.sysc a)).zeroExtend 64))
  else s.issue ⟨encode (.sysc a), .user, false, [], [], [a], none⟩ (fun t =>
    match t.me.badCarried 15 with
    | some f => t.fault .data 0 f
    | none => t.parkOn (t.pops [a]) 10 (.sysc (t.src a) none))

/-- What a service finds out about its pointer arguments. -/
inductive Reach where
  | ok | unreachable | absent | error
  deriving DecidableEq, Repr

/-- R297: whether one range is reachable in the caller's context. -/
def State.rangeReach (s : State) (c : Nat) (x : Slot) (va : Word) (n : Nat) (wr : Bool) : Reach :=
  (imagePages va n).foldl (fun r p =>
    match r with
    | .ok =>
      (match region c p with
       | .translated =>
         (match s.resolveVa (dieOf c) x.tenant p false (!wr) wr with
          | .ok l =>
            if plainTy l.ty = false then .unreachable
            else
              let len := Nat.min (va.toNat + n - p.toNat) (2 ^ 16 - p.toNat % 2 ^ 16)
              if !wr && (List.range len).any (fun i => s.badWord (l.key + i)) then .error else .ok
          | .absent => .absent
          | .stage2 => .unreachable
          | .data => .error
          | .walk => .unreachable
          | .fault _ => .unreachable)
       | _ => .unreachable)
    | e => e) .ok

/-- R297: all ranges of a call; an unreachable one decides before an absent one. -/
def State.ptrReach (s : State) (c : Nat) (x : Slot) (service : Word) : Reach :=
  let l := (Config.servicePtrs service).map (fun p => if p.2.1 = 0 then Reach.ok else s.rangeReach c x (x.reg p.1) p.2.1 p.2.2)
  if l.contains .unreachable then .unreachable
  else if l.contains .absent then .absent
  else if l.contains .error then .error
  else .ok

/-- The pieces in which a range of n bytes is written: its whole aligned words, each as one (R299), and the single bytes before and behind
them. -/
def rangePieces (va : Word) (n : Nat) : List (Word × Nat) :=
  (List.range n).filterMap (fun i =>
    let o := (va.toNat + i) % 8
    if o ≤ i ∧ i - o + 8 ≤ n then (if o = 0 then some (va + wrap i, 8) else none) else some (va + wrap i, 1))

/-- What a service writes to the ranges it takes for writing: values that no rule gives; a replicated page is collapsed first (R199). -/
def State.serviceWrites (s : State) (c : Nat) (x : Slot) (service : Word) : State :=
  (Config.servicePtrs service).foldl (fun t p =>
    if p.2.2 then
      (rangePieces (x.reg p.1) p.2.1).foldl (fun u q =>
        match u.resolveVa (dieOf c) x.tenant q.1 false false true with
        | .ok l =>
          ((if l.rp then u.collapse (l.key / 2 ^ 16) else u).agentWrite none (s.cipherKey c) l.key q.2
            (zextBytes q.2 (wrap (Config.freeNat u.free)))).nextFree
        | _ => u) t
    else t) s

/-- R296, R297: the packet reaches the service core once the slot's accesses are performed; the service checks its arguments and
performs. A page that is absent is brought in first. -/
def execSyscallPacket (core slot : Nat) (s : State) : Out :=
  let x := s.slot core slot
  match x.st, x.pend with
  | .parked, .sysc n none =>
    if s.quiet core slot = false then .next s
    else
      let r := s.ptrReach core x n
      if r = .absent ∧ Config.serviceKnown n then .next s
      else
        let v := Config.service s.free n x.tenant
        let t := (s.nextFree).notify (serviceCore (tileOf core))
        let give (u : State) (status : Word) : Out :=
          .next (u.modSlot core slot (fun y => { y with pend := .sysc n (some (status, v.2.1, v.2.2)) }))
        if Config.serviceKnown n = false then give t 2
        else
          match r with
          | .unreachable => give t 1
          | .error => give (t.logError (tileOf core)) 3
          | _ => if v.1 = 0 then give (t.serviceWrites core x n) 0 else give t v.1
  | _, _ => .next s

/-- R296: the answer writes g1 to g3, each full, and the slot resumes at the word after `sysc`. -/
def execSyscallAnswer (core slot : Nat) (s : State) : Out :=
  match (s.slot core slot).st, (s.slot core slot).pend with
  | .parked, .sysc _ (some (v1, v2, v3)) =>
    .next ((s.modSlot core slot (fun x => ((x.setReg 1 v1).setReg 2 v2).setReg 3 v3)).goOn core slot)
  | _, _ => .next s

/-! ## Pre-emption (R307 to R309, R330) -/

/-- R307: the waits that defer a pre-emption: R174, R225, R236, R278, R280, R282 to R285, R296 and R363. -/
def Pend.deferred : Pend → Bool
  | .spawn _ _ _ _ _ => true
  | .atomic _ _ _ _ _ _ _ => true
  | .barmSent _ _ _ _ => true
  | .jobReq _ _ _ _ _ _ _ _ => true
  | .jobAns _ _ _ _ => true
  | .acc _ _ _ _ _ running => running
  | .asked (.xcfg _ _) => true
  | .scls _ _ _ => true
  | .xret _ => true
  | .sysc _ a => a.isSome
  | .stamped _ _ _ _ _ _ _ _ => true
  | _ => false

/-- R307: where a slot issues again when it is resumed: at the word it stands at, but at the next one for a `wrs`, which ends with its
reservation, and for a `spawnq` whose record is on its way. -/
def Slot.againAt (x : Slot) : Word :=
  match x.st, x.pend with
  | .parked, .wrs _ => pc57 (x.pc + 4)
  | .parked, .taskSent => pc57 (x.pc + 4)
  | _, _ => x.pc

/-- R175: no one waits any more for a record that the slot has sent. -/
def State.detach (s : State) (c k : Nat) : State :=
  s.modPkg (fun p => { p with recs := p.recs.map (fun f => if f.issuer = some (c, k) then { f with issuer := none } else f) })

/-- R307: slot k of core c is stopped by a pre-emption, which writes no cause and keeps the park reason; `anchor`: it stands at an anchor
(R309). Its fault records are freed (R197), its reservation is lost (R227), and no one waits any more for a record it has
sent. An arrival that it has sent to a package barrier is counted before it stops (log entry 62); a slot that waits for its die's E to pass
the release stamp of an `sbar` waits on for it (R293, R370). -/
def State.stopSlot (s : State) (c k : Nat) (anchor : Bool) : State :=
  let s := s.countArrival c k
  let x := s.slot c k
  ((s.detach c k).freeFaultRecords c k).modSlot c k (fun y =>
    { y with st := .stopped, epc := x.againAt, pend := x.owes, owed := .none, popDue := false, resv := none, atAnchor := anchor,
             stopReq := .none_, counted := false })

/-- R307: the group of a core: every core of its context, or itself. -/
def State.group (s : State) (core : Nat) (whole : Bool) : List Nat :=
  if whole then core :: (List.range 3072).filter (fun c => c ≠ core && (s.core c).owner = (s.core core).owner) else [core]

/-- The slots of a group that are READY or PARKED are asked to stop. -/
def State.askStop (s : State) (g : List Nat) (r : StopReq) : State :=
  s.mapSlots (fun c _ x => if g.contains c && (x.st = .ready || x.st = .parked) then { x with stopReq := r } else x)

/-- R307, R309: a pre-emption of a group in a mode. -/
def State.preemptGroup (s : State) (g : List Nat) (m : PreMode) : State :=
  (g.foldl (fun t c => t.modCore c (fun x => { x with pre := m, preGroup := g, preExpired := false, quiesced := false })) s).askStop g
    (match m with | .immediate => .now_ | .drain _ => .anchor | .off => .none_)

/-- R330: a pre-emption of a core, or of its context. -/
def State.preempt (s : State) (core : Nat) (whole : Bool) (m : PreMode) : State := s.preemptGroup (s.group core whole) m

/-- R330: a release of a group: its launches go back to their die schedulers, and its cores accept arrivals again. -/
def State.release (s : State) (core : Nat) (whole : Bool) : State :=
  ((s.group core whole).foldl (fun t c =>
    (t.returnLaunches c).modCore c (fun x => { x with pre := .off, preGroup := [], preExpired := false, quiesced := false })) s).askStop
    (s.group core whole) .none_

/-- R307: operation 1 of `k.pre`. -/
def execPreImmediate (core : Nat) (whole : Bool) (s : State) : Out := .next (s.preempt core whole .immediate)
/-- R309: operation 2 of `k.pre`. -/
def execPreAnchorDrain (core : Nat) (whole : Bool) (limit : Nat) (s : State) : Out := .next (s.preempt core whole (.drain (s.now + limit)))
/-- R330: operation 3 of `k.pre`. -/
def execPreRelease (core : Nat) (whole : Bool) (s : State) : Out := .next (s.release core whole)

/-- R307: whether a slot that has been asked to stop is due to at a turn boundary. -/
def State.stopDue (s : State) (c k : Nat) : Bool :=
  let x := s.slot c k
  x.stopReq = .now_ && (x.st = .ready || x.st = .parked) && !(x.st = .parked && x.pend.deferred)

/-- R307: the stop, at a turn boundary of the slot. -/
def execPreemptStop (core slot : Nat) (s : State) : Out :=
  if s.now % 16 = slot ∧ s.stopDue core slot then .next (s.stopSlot core slot false) else .next s

/-- R309: the limit of an anchor drain is reached; the core goes on as in immediate mode. -/
def execDrainLimitExpiry (core : Nat) (s : State) : Out :=
  match (s.core core).pre with
  | .drain t =>
    if t ≤ s.now then
      .next ((s.modCore core (fun x => { x with pre := .immediate, preExpired := true })).mapSlots (fun c _ x =>
        if c = core ∧ x.stopReq = .anchor then { x with stopReq := .now_ } else x))
    else .next s
  | _ => .next s

/-- R308: the stopped slots of a group with park reason and at-anchor bit. -/
def State.stoppedList (s : State) (g : List Nat) : List (Nat × Nat × Nat × Bool) :=
  g.flatMap (fun c => ((s.slotsOn c).filter (fun p => p.2.st = .stopped)).map (fun p => (c, p.1, p.2.park, p.2.atAnchor)))

/-- R308, R332: once the group that a core heads is quiescent, the tile's service core receives the notice. -/
def execQuiescenceNotice (core : Nat) (s : State) : Out :=
  let x := s.core core
  if x.pre ≠ .off ∧ x.quiesced = false ∧ x.preGroup.head? = some core ∧ s.quiescent x.preGroup then
    let t := x.preGroup.foldl (fun u c => u.modCore c (fun y => { y with quiesced := true })) s
    let n : Notice := .quiescence (tileOf core) (s.stoppedList x.preGroup)
    .next ((t.modPkg (fun p =>
      { p with got := Tab.set [] p.got (tileOf core) (Tab.get [] p.got (tileOf core) ++ [n]) })).notify (serviceCore (tileOf core)))
  else .next s

/-! ## Event queues (R256, Table 21.2) -/

/-- An event queue. -/
def State.evq (s : State) (tenant q : Nat) : EvQueue := Tab.get EvQueue.reset s.pkg.evqs (tenant * 256 + q)
/-- Changes an event queue. -/
def State.modEvq (s : State) (tenant q : Nat) (f : EvQueue → EvQueue) : State :=
  s.modPkg (fun p => { p with evqs := Tab.set EvQueue.reset p.evqs (tenant * 256 + q) (f (Tab.get EvQueue.reset p.evqs (tenant * 256 + q))) })

/-- R256: word 0 written with the valid bit set: every word of the ring becomes empty with value zero, tail and lost counter 0. -/
def State.enableEvq (s : State) (tenant q : Nat) (w : Word) : State :=
  let base := bits w 12 40 * 4096
  let sz := bits w 0 5
  let t := (List.range (2 * 2 ^ sz)).foldl (fun u i => (u.agentWrite none 0 (base + 8 * i) 8 0).setWordFull (base + 8 * i) false) s
  t.modEvq tenant q (fun _ => ⟨true, base, sz, 0, 0⟩)

/-- R256. -/
def execEvqEnable (tenant q : Nat) (w : Word) (s : State) : Out := .next (s.enableEvq tenant q w)
/-- R256: a write with the valid bit clear disables the queue and leaves its ring unchanged. -/
def execEvqDisable (tenant q : Nat) (s : State) : Out := .next (s.modEvq tenant q (fun e => { e with valid := false }))

end Sys2Proof.Machine
end

