-- ==== Sys2Proof/Machine/Approx.lean ====
section
/-!
DEFINITION. The four approximations (R121 to R125), bit for bit: tables by formula, integer interpolation, one rounding.
-/

namespace Sys2Proof.Machine

/-- R122: E[k] = RoundNE(2^(k/64) * 2^30), k = 0 to 64. -/
def expTable : List Nat :=
  [1073741824, 1085434106, 1097253708, 1109202018, 1121280436, 1133490379, 1145833280, 1158310587] ++
  [1170923762, 1183674286, 1196563654, 1209593378, 1222764986, 1236080024, 1249540052, 1263146652] ++
  [1276901417, 1290805962, 1304861917, 1319070932, 1333434672, 1347954824, 1362633090, 1377471191] ++
  [1392470869, 1407633882, 1422962010, 1438457051, 1454120821, 1469955159, 1485961921, 1502142985] ++
  [1518500250, 1535035634, 1551751076, 1568648537, 1585730000, 1602997467, 1620452965, 1638098541] ++
  [1655936265, 1673968228, 1692196547, 1710623359, 1729250827, 1748081133, 1767116489, 1786359126] ++
  [1805811301, 1825475297, 1845353420, 1865448001, 1885761398, 1906295993, 1927054196, 1948038440] ++
  [1969251188, 1990694927, 2012372174, 2034285470, 2056437387, 2078830522, 2101467502, 2124350982] ++
  [2147483648]

/-- R123: L[k] = RoundNE(log2(1 + k/64) * 2^30), k = 0 to 64. -/
def logTable : List Nat :=
  [0, 24017256, 47667823, 70962728, 93912511, 116527248, 138816582, 160789745] ++
  [182455581, 203822568, 224898839, 245692198, 266210141, 286459867, 306448299, 326182095] ++
  [345667660, 364911162, 383918542, 402695523, 421247625, 439580170, 457698295, 475606957] ++
  [493310944, 510814882, 528123241, 545240343, 562170370, 578917365, 595485245, 611877800] ++
  [628098702, 644151509, 660039669, 675766525, 691335320, 706749198, 722011213, 737124328] ++
  [752091421, 766915285, 781598637, 796144114, 810554283, 824831638, 838978604, 852997541] ++
  [866890747, 880660455, 894308843, 907838029, 921250079, 934547002, 947730758, 960803257] ++
  [973766362, 986621888, 999371606, 1012017244, 1024560487, 1037002979, 1049346328, 1061592099] ++
  [1073741824]

/-- R124: C[k] = RoundNE(2^31 / (1 + k/64)), k = 0 to 64. -/
def rcpTable : List Nat :=
  [2147483648, 2114445438, 2082408386, 2051327664, 2021161080, 1991868891, 1963413621, 1935759908] ++
  [1908874354, 1882725390, 1857283155, 1832519380, 1808407283, 1784921474, 1762037865, 1739733588] ++
  [1717986918, 1696777203, 1676084798, 1655891006, 1636178018, 1616928864, 1598127366, 1579758086] ++
  [1561806289, 1544257904, 1527099483, 1510318170, 1493901668, 1477838209, 1462116526, 1446725826] ++
  [1431655765, 1416896428, 1402438301, 1388272257, 1374389535, 1360781718, 1347440720, 1334358772] ++
  [1321528399, 1308942414, 1296593901, 1284476201, 1272582903, 1260907830, 1249445032, 1238188770] ++
  [1227133513, 1216273925, 1205604855, 1195121335, 1184818564, 1174691910, 1164736894, 1154949189] ++
  [1145324612, 1135859120, 1126548799, 1117389866, 1108378657, 1099511628, 1090785345, 1082196484] ++
  [1073741824]

/-- R125: S[k] = RoundNE(2^31 / sqrt t_k), k = 0 to 128. -/
def rsqTable : List Nat :=
  [2147483648, 2130900515, 2114695713, 2098855072, 2083365155, 2068213208, 2053387115, 2038875364] ++
  [2024667000, 2010751598, 1997119227, 1983760420, 1970666148, 1957827796, 1945237133, 1932886296] ++
  [1920767767, 1908874354, 1897199172, 1885735628, 1874477404, 1863418444, 1852552937, 1841875310] ++
  [1831380208, 1821062491, 1810917218, 1800939636, 1791125178, 1781469447, 1771968208, 1762617387] ++
  [1753413056, 1744351429, 1735428857, 1726641819, 1717986918, 1709460876, 1701060526, 1692782810] ++
  [1684624773, 1676583559, 1668656406, 1660840642, 1653133683, 1645533028, 1638036256, 1630641020] ++
  [1623345051, 1616146146, 1609042172, 1602031062, 1595110809, 1588279468, 1581535151, 1574876026] ++
  [1568300315, 1561806289, 1555392273, 1549056637, 1542797797, 1536614214, 1530504391, 1524466875] ++
  [1518500250, 1506774204, 1495315679, 1484114654, 1473161629, 1462447584, 1451963954, 1441702596] ++
  [1431655765, 1421816090, 1412176548, 1402730445, 1393471397, 1384393311, 1375490368, 1366757007] ++
  [1358187913, 1349778000, 1341522400, 1333416450, 1325455684, 1317635818, 1309952745, 1302402522] ++
  [1294981364, 1287685637, 1280511845, 1273456629, 1266516759, 1259689126, 1252970736, 1246358707] ++
  [1239850262, 1233442724, 1227133513, 1220920139, 1214800200, 1208771378, 1202831433, 1196978204] ++
  [1191209601, 1185523604, 1179918260, 1174391680, 1168942037, 1163567563, 1158266544, 1153037323] ++
  [1147878294, 1142787899, 1137764631, 1132807028, 1127913670, 1123083182, 1118314230, 1113605518] ++
  [1108955787, 1104363818, 1099828424, 1095348453, 1090922784, 1086550331, 1082230034, 1077960865] ++
  [1073741824]

/-- A table's entry. -/
def tab (t : List Nat) (k : Nat) : Nat := t.getD k 0

/-- An operand of R121: a special one, or x = (-1)^neg × 2^e × (1 + f × 2^-23). -/
inductive ApxArg where
  | nan (sig : Bool)
  | inf (neg : Bool)
  | zero (neg : Bool)
  | val (neg : Bool) (e : Int) (f : Nat)
  deriving DecidableEq, Repr

/-- R121: an element widened exactly to FP32, and subnormal operands normalised exactly. -/
def apxArg (t : ETy) (x : Nat) : ApxArg :=
  match t.decode x with
  | .nan s => .nan s
  | .inf n => .inf n
  | .fin n m e =>
    if m = 0 then .zero n
    else .val n (e + (Nat.log2 m : Int)) (m * 2 ^ (23 - Nat.log2 m) - 2 ^ 23)

/-- Step 3 of R121. -/
def apxRound (t : ETy) (neg : Bool) (m : Nat) (e : Int) : Nat × Fl := t.fmt.round false false neg m e

/-- R122. -/
def approxExp2 (t : ETy) (x : Nat) : Nat × Fl :=
  match apxArg t x with
  | .nan s => (t.fmt.nan, flIf s flNv)
  | .inf neg => (if neg then 0 else t.fmt.infPat false, flNone)
  | .zero _ => apxRound t false 1 0
  | .val neg e f =>
    let m := 2 ^ 23 + f
    if !neg && decide (7 ≤ e) then (t.fmt.infPat false, flOf ||| flNx)
    else if neg && cmpScaled m (e - 23) 150 0 = .gt then (0, flUf ||| flNx)
    else
      let r := roundAt false m (e - 23 + 16) 0
      let xx : Int := if neg then -(r.1 : Int) else (r.1 : Int)
      let i := xx / 65536
      let fr := (xx % 65536).toNat
      let k := fr / 1024
      let dd := fr % 1024
      apxRound t false (tab expTable k + (tab expTable (k + 1) - tab expTable k) * dd / 1024) (i - 30)

/-- R123. -/
def approxLog2 (t : ETy) (x : Nat) : Nat × Fl :=
  match apxArg t x with
  | .nan s => (t.fmt.nan, flIf s flNv)
  | .inf neg => if neg then (t.fmt.nan, flNv) else (t.fmt.infPat false, flNone)
  | .zero _ => (t.fmt.infPat true, flNone)
  | .val true _ _ => (t.fmt.nan, flNv)
  | .val false e f =>
    let k := f / 2 ^ 17
    let d := f % 2 ^ 17
    let y : Nat := tab logTable k + (tab logTable (k + 1) - tab logTable k) * d / 2 ^ 17
    let v : Int := e * 2 ^ 30 + (y : Int)
    apxRound t (decide (v < 0)) v.natAbs (-30)

/-- R124. -/
def approxRcp (t : ETy) (x : Nat) : Nat × Fl :=
  match apxArg t x with
  | .nan s => (t.fmt.nan, flIf s flNv)
  | .inf neg => (t.fmt.signed neg 0, flNone)
  | .zero neg => (t.fmt.infPat neg, flNone)
  | .val neg e f =>
    let k := f / 2 ^ 17
    let d := f % 2 ^ 17
    apxRound t neg (tab rcpTable k - (tab rcpTable k - tab rcpTable (k + 1)) * d / 2 ^ 17) (-e - 31)

/-- R125. Of −0.0 Table 6.4 says −∞ and Table 6.5 −0: the model follows Table 6.4 (DESIGN CHOICE, log entry 69). -/
def approxRsq (t : ETy) (x : Nat) : Nat × Fl :=
  match apxArg t x with
  | .nan s => (t.fmt.nan, flIf s flNv)
  | .inf neg => if neg then (t.fmt.nan, flNv) else (0, flNone)
  | .zero neg => (t.fmt.infPat neg, flNone)
  | .val true _ _ => (t.fmt.nan, flNv)
  | .val false e f =>
    let k := f / 2 ^ 17
    let d := f % 2 ^ 17
    let u := e % 2
    let kk := 64 * u.toNat + k
    apxRound t false (tab rsqTable kk - (tab rsqTable kk - tab rsqTable (kk + 1)) * d / 2 ^ 17) (-((e - u) / 2) - 31)

end Sys2Proof.Machine
end

