-- ==== Sys2Proof/Machine/Scalar.lean ====
section
/-!
DEFINITION. The scalar integer family (R60 to R71, R84, R85): values first, then one meaning per instruction.
-/

namespace Sys2Proof.Machine

open Sys2Proof

/-! ## Values (Table 4.1, R65, R66, R70) -/

/-- The shift amount: the low 6 bits of g[b]. -/
def amount (b : Word) : Nat := b.toNat % 64
/-- `sll`. -/
def sllVal (a : Word) (n : Nat) : Word := a <<< n
/-- `srl`. -/
def srlVal (a : Word) (n : Nat) : Word := a >>> n
/-- `sra`. -/
def sraVal (a : Word) (n : Nat) : Word := a.sshiftRight n
/-- `rol`. -/
def rolVal (a : Word) (n : Nat) : Word := if n = 0 then a else (a <<< n) ||| (a >>> (64 - n))
/-- `ror`: `rol` by (64 - s) mod 64. -/
def rorVal (a : Word) (n : Nat) : Word := rolVal a ((64 - n) % 64)
/-- The truth values of the compares. -/
def boolWord (b : Bool) : Word := if b then 1 else 0
/-- Signed64(a) < Signed64(b). -/
def sltVal (a b : Word) : Bool := decide (a.toInt < b.toInt)
/-- Unsigned64(a) < Unsigned64(b). -/
def ultVal (a b : Word) : Bool := decide (a.toNat < b.toNat)
/-- Zero bits above the highest 1 bit; 64 for zero. -/
def clzVal (a : Word) : Word := if a = 0 then 64 else wrap (63 - Nat.log2 a.toNat)
/-- The number of 1 bits among the low n bits. -/
def popcount : Nat → Nat → Nat
  | 0, _ => 0
  | n + 1, x => x % 2 + popcount n (x / 2)
/-- Zero bits below the lowest 1 bit among n bits; n if there is none. -/
def trailing : Nat → Nat → Nat
  | 0, _ => 0
  | n + 1, x => if x % 2 = 1 then 0 else 1 + trailing n (x / 2)
/-- The high 64 bits of the signed product. -/
def mulhVal (a b : Word) : Word := BitVec.ofInt 64 (a.toInt * b.toInt / 2 ^ 64)
/-- The high 64 bits of the unsigned product. -/
def mulhzVal (a b : Word) : Word := wrap (a.toNat * b.toNat / 2 ^ 64)
/-- R66: signed quotient and remainder; the quotient rounds toward zero. -/
def divVal (a b : Word) : Word := if b = 0 then -1 else BitVec.ofInt 64 (a.toInt.tdiv b.toInt)
/-- The signed remainder takes the sign of the dividend. -/
def remVal (a b : Word) : Word := if b = 0 then a else BitVec.ofInt 64 (a.toInt.tmod b.toInt)
/-- R66: unsigned quotient. -/
def divzVal (a b : Word) : Word := if b = 0 then -1 else wrap (a.toNat / b.toNat)
/-- The unsigned remainder. -/
def remzVal (a b : Word) : Word := if b = 0 then a else wrap (a.toNat % b.toNat)
/-- R70: bits pos + len - 1 down to pos, zero-extended. -/
def bfxVal (a : Word) (pos len : Nat) : Word := wrap (bits a pos len)
/-- R70: the low len bits of a in the place of the field of d. -/
def bfiVal (d a : Word) (pos len : Nat) : Word := setBits d pos len a.toNat

/-! ## Shapes -/

/-- d, a, b: two sources, one destination, 1 clk. -/
def alu2 (i : Instr) (d a b : Reg) (lat : Nat) (f : Word → Word → Word) (s : State) : Out :=
  s.compute i true [a, b] d lat (fun r => f (r a) (r b))
/-- d, a: one source, 1 clk. -/
def alu1 (i : Instr) (d a : Reg) (f : Word → Word) (s : State) : Out :=
  s.compute i true [a] d 1 (fun r => f (r a))
/-- R66, R67: the operands are captured, and the slot parks until DIVISION_COMPLETE. -/
def divide (i : Instr) (d a b : Reg) (f : Word → Word → Word) (s : State) : Out :=
  s.issue ⟨encode i, .user, true, [], [], [a, b], some d⟩ (fun t =>
    t.parkOn (t.pops [a, b]) 2 (.div d (f (t.src a) (t.src b))))

/-! ## Register operations (R64, R65) -/

/-- R64. -/
def execAdd (d a b : Reg) (s : State) : Out := alu2 (.add d a b) d a b 1 (fun x y => x + y) s
/-- R64. -/
def execSub (d a b : Reg) (s : State) : Out := alu2 (.sub d a b) d a b 1 (fun x y => x - y) s
/-- R64. -/
def execAnd (d a b : Reg) (s : State) : Out := alu2 (.and d a b) d a b 1 (fun x y => x &&& y) s
/-- R64. -/
def execOr (d a b : Reg) (s : State) : Out := alu2 (.or d a b) d a b 1 (fun x y => x ||| y) s
/-- R64. -/
def execXor (d a b : Reg) (s : State) : Out := alu2 (.xor d a b) d a b 1 (fun x y => x ^^^ y) s
/-- R64. -/
def execSll (d a b : Reg) (s : State) : Out := alu2 (.sll d a b) d a b 1 (fun x y => sllVal x (amount y)) s
/-- R64. -/
def execSrl (d a b : Reg) (s : State) : Out := alu2 (.srl d a b) d a b 1 (fun x y => srlVal x (amount y)) s
/-- R64. -/
def execSra (d a b : Reg) (s : State) : Out := alu2 (.sra d a b) d a b 1 (fun x y => sraVal x (amount y)) s
/-- R64. -/
def execRol (d a b : Reg) (s : State) : Out := alu2 (.rol d a b) d a b 1 (fun x y => rolVal x (amount y)) s
/-- R64. -/
def execRor (d a b : Reg) (s : State) : Out := alu2 (.ror d a b) d a b 1 (fun x y => rorVal x (amount y)) s
/-- R64. -/
def execMin (d a b : Reg) (s : State) : Out := alu2 (.min d a b) d a b 1 (fun x y => if sltVal y x then y else x) s
/-- R64. -/
def execMax (d a b : Reg) (s : State) : Out := alu2 (.max d a b) d a b 1 (fun x y => if sltVal x y then y else x) s
/-- R64. -/
def execMinz (d a b : Reg) (s : State) : Out := alu2 (.minz d a b) d a b 1 (fun x y => if ultVal y x then y else x) s
/-- R64. -/
def execMaxz (d a b : Reg) (s : State) : Out := alu2 (.maxz d a b) d a b 1 (fun x y => if ultVal x y then y else x) s
/-- R64. -/
def execSeq (d a b : Reg) (s : State) : Out := alu2 (.seq d a b) d a b 1 (fun x y => boolWord (decide (x = y))) s
/-- R64. -/
def execSlt (d a b : Reg) (s : State) : Out := alu2 (.slt d a b) d a b 1 (fun x y => boolWord (sltVal x y)) s
/-- R64. -/
def execSltz (d a b : Reg) (s : State) : Out := alu2 (.sltz d a b) d a b 1 (fun x y => boolWord (ultVal x y)) s
/-- R64: all three sources are read. -/
def execSel (d a b c : Reg) (s : State) : Out :=
  s.compute (.sel d a b c) true [a, b, c] d 1 (fun r => if r c ≠ 0 then r a else r b)
/-- R64. -/
def execClz (d a : Reg) (s : State) : Out := alu1 (.clz d a) d a clzVal s
/-- R64. -/
def execCtz (d a : Reg) (s : State) : Out := alu1 (.ctz d a) d a (fun x => wrap (trailing 64 x.toNat)) s
/-- R64. -/
def execPopc (d a : Reg) (s : State) : Out := alu1 (.popc d a) d a (fun x => wrap (popcount 64 x.toNat)) s
/-- R64. -/
def execSextB (d a : Reg) (s : State) : Out := alu1 (.sextB d a) d a (sextBits 8) s
/-- R64. -/
def execSextH (d a : Reg) (s : State) : Out := alu1 (.sextH d a) d a (sextBits 16) s
/-- R64. -/
def execSextW (d a : Reg) (s : State) : Out := alu1 (.sextW d a) d a (sextBits 32) s
/-- R64. -/
def execZextB (d a : Reg) (s : State) : Out := alu1 (.zextB d a) d a (zextBytes 1) s
/-- R64. -/
def execZextH (d a : Reg) (s : State) : Out := alu1 (.zextH d a) d a (zextBytes 2) s
/-- R64. -/
def execZextW (d a : Reg) (s : State) : Out := alu1 (.zextW d a) d a (zextBytes 4) s
/-- R65. -/
def execMul (d a b : Reg) (s : State) : Out := alu2 (.mul d a b) d a b 4 (fun x y => x * y) s
/-- R65. -/
def execMulh (d a b : Reg) (s : State) : Out := alu2 (.mulh d a b) d a b 4 mulhVal s
/-- R65. -/
def execMulhz (d a b : Reg) (s : State) : Out := alu2 (.mulhz d a b) d a b 4 mulhzVal s

/-! ## Division (R66, R67) -/

/-- R66. -/
def execDiv (d a b : Reg) (s : State) : Out := divide (.div d a b) d a b divVal s
/-- R66. -/
def execDivz (d a b : Reg) (s : State) : Out := divide (.divz d a b) d a b divzVal s
/-- R66. -/
def execRem (d a b : Reg) (s : State) : Out := divide (.rem d a b) d a b remVal s
/-- R66. -/
def execRemz (d a b : Reg) (s : State) : Out := divide (.remz d a b) d a b remzVal s

/-- R66: the division in progress in the slot ends; with none in progress nothing comes about. -/
def execDivisionComplete (core slot : Nat) (s : State) : Out :=
  match (s.slot core slot).st, (s.slot core slot).pend with
  | .parked, .div d v => .next (s.answer core slot d v)
  | _, _ => .next s

/-! ## Immediate forms (R68 to R71) -/

/-- The 18-bit immediate sign-extended (R33). -/
def imm18 (imm : BitVec 18) : Word := imm.signExtend 64

/-- R68. -/
def execAddi (d a : Reg) (imm : BitVec 18) (s : State) : Out := alu1 (.addi d a imm) d a (fun x => x + imm18 imm) s
/-- R68. -/
def execAndi (d a : Reg) (imm : BitVec 18) (s : State) : Out := alu1 (.andi d a imm) d a (fun x => x &&& imm18 imm) s
/-- R68. -/
def execOri (d a : Reg) (imm : BitVec 18) (s : State) : Out := alu1 (.ori d a imm) d a (fun x => x ||| imm18 imm) s
/-- R68. -/
def execXori (d a : Reg) (imm : BitVec 18) (s : State) : Out := alu1 (.xori d a imm) d a (fun x => x ^^^ imm18 imm) s
/-- R68. -/
def execSlti (d a : Reg) (imm : BitVec 18) (s : State) : Out :=
  alu1 (.slti d a imm) d a (fun x => boolWord (sltVal x (imm18 imm))) s
/-- R69. -/
def execSlli (d a : Reg) (n : BitVec 6) (s : State) : Out := alu1 (.slli d a n) d a (fun x => sllVal x n.toNat) s
/-- R69. -/
def execSrli (d a : Reg) (n : BitVec 6) (s : State) : Out := alu1 (.srli d a n) d a (fun x => srlVal x n.toNat) s
/-- R69. -/
def execSrai (d a : Reg) (n : BitVec 6) (s : State) : Out := alu1 (.srai d a n) d a (fun x => sraVal x n.toNat) s
/-- R69. -/
def execRori (d a : Reg) (n : BitVec 6) (s : State) : Out := alu1 (.rori d a n) d a (fun x => rorVal x n.toNat) s
/-- R70. -/
def execBfx (d a : Reg) (pos len : BitVec 6) (s : State) : Out :=
  alu1 (.bfx d a pos len) d a (fun x => bfxVal x pos.toNat (len.toNat + 1)) s
/-- R61, R70: g[d] is a source too, and an empty one parks the instruction. -/
def execBfi (d a : Reg) (pos len : BitVec 6) (s : State) : Out :=
  s.compute (.bfi d a pos len) true [a, d] d 1 (fun r => bfiVal (r d) (r a) pos.toNat (len.toNat + 1))
/-- R71: reads no register and stands in no frame. -/
def execLui (d : Reg) (imm : BitVec 22) (s : State) : Out :=
  s.compute (.lui d imm) false [] d 1 (fun _ => imm.signExtend 64 <<< 18)
/-- R71: pc is the address of the word itself. -/
def execAddpc (d : Reg) (imm : BitVec 22) (s : State) : Out :=
  s.compute (.addpc d imm) false [] d 1 (fun _ => s.me.pc + imm.signExtend 64 * 4)

end Sys2Proof.Machine
end

