-- ==== Sys2Proof/Machine/Float.lean ====
section
/-!
DEFINITION. Scalar FP32 (R72 to R77): only bits 31:0 of the sources are read, latency 6 clk, flags in place with the result.
-/

namespace Sys2Proof.Machine

open Sys2Proof

/-- The low 32 bits of a register, as a pattern (R72). -/
def lo32 (x : Word) : Nat := x.toNat % 2 ^ 32

/-- A major 0x0C instruction: sources, destination, and a result with its flags. -/
def fpOp (i : Instr) (srcs : List Reg) (d : Reg) (f : (Reg → Word) → Word × Fl) (s : State) : Out :=
  s.issue ⟨encode i, .user, true, [], [], srcs, some d⟩ (fun t =>
    let r := f t.src
    (t.modMe (·.orFst r.2)).retire srcs d r.1 6)

/-- A binary32 result, zero-extended (R72). -/
def f32Word (r : Nat × Fl) : Word × Fl := (wrap r.1, r.2)
/-- A truth value with flags. -/
def relWord (r : Bool × Fl) : Word × Fl := (boolWord r.1, r.2)

/-- R73. -/
def execFadd (d a b : Reg) (s : State) : Out :=
  fpOp (.fadd d a b) [a, b] d (fun r => f32Word (fmtF32.add (lo32 (r a)) (lo32 (r b)))) s
/-- R73. -/
def execFsub (d a b : Reg) (s : State) : Out :=
  fpOp (.fsub d a b) [a, b] d (fun r => f32Word (fmtF32.sub (lo32 (r a)) (lo32 (r b)))) s
/-- R73. -/
def execFmul (d a b : Reg) (s : State) : Out :=
  fpOp (.fmul d a b) [a, b] d (fun r => f32Word (fmtF32.mul (lo32 (r a)) (lo32 (r b)))) s
/-- R73: g[a] × g[b] + g[c], one rounding. -/
def execFfma (d a b c : Reg) (s : State) : Out :=
  fpOp (.ffma d a b c) [a, b, c] d (fun r => f32Word (fmtF32.fma (lo32 (r a)) (lo32 (r b)) (lo32 (r c)))) s
/-- R75. -/
def execFmin (d a b : Reg) (s : State) : Out :=
  fpOp (.fmin d a b) [a, b] d (fun r => f32Word (fmtF32.minmax false (lo32 (r a)) (lo32 (r b)))) s
/-- R75. -/
def execFmax (d a b : Reg) (s : State) : Out :=
  fpOp (.fmax d a b) [a, b] d (fun r => f32Word (fmtF32.minmax true (lo32 (r a)) (lo32 (r b)))) s
/-- R76. -/
def execFcmpEq (d a b : Reg) (s : State) : Out :=
  fpOp (.fcmpEq d a b) [a, b] d (fun r => relWord (fmtF32.rel .eq (lo32 (r a)) (lo32 (r b)))) s
/-- R76. -/
def execFcmpLt (d a b : Reg) (s : State) : Out :=
  fpOp (.fcmpLt d a b) [a, b] d (fun r => relWord (fmtF32.rel .lt (lo32 (r a)) (lo32 (r b)))) s
/-- R76. -/
def execFcmpLe (d a b : Reg) (s : State) : Out :=
  fpOp (.fcmpLe d a b) [a, b] d (fun r => relWord (fmtF32.rel .le (lo32 (r a)) (lo32 (r b)))) s
/-- R76. -/
def execFcmpUn (d a b : Reg) (s : State) : Out :=
  fpOp (.fcmpUn d a b) [a, b] d (fun r => relWord (fmtF32.rel .un (lo32 (r a)) (lo32 (r b)))) s
/-- R77. -/
def execFcvtF32i32 (d a : Reg) (s : State) : Out :=
  fpOp (.fcvtF32i32 d a) [a] d (fun r => f32Word (convert .i32 .f32 false false (lo32 (r a)))) s
/-- R77: all 64 bits of the source. R39 and R72 say of every instruction of this major that it reads the low 32 bits alone, and the spec does
not settle it: DESIGN CHOICE, log entry 66. -/
def execFcvtF32i64 (d a : Reg) (s : State) : Out :=
  fpOp (.fcvtF32i64 d a) [a] d (fun r => f32Word (convert .i64 .f32 false false (r a).toNat)) s
/-- A 32-bit integer result, sign-extended (R72). -/
def i32Word (r : Nat × Fl) : Word × Fl := (sextBits 32 (wrap r.1), r.2)
/-- R77. -/
def execFcvtI32f32 (d a : Reg) (s : State) : Out :=
  fpOp (.fcvtI32f32 d a) [a] d (fun r => i32Word (convert .f32 .i32 false false (lo32 (r a)))) s
/-- R77. -/
def execFcvtI64f32 (d a : Reg) (s : State) : Out :=
  fpOp (.fcvtI64f32 d a) [a] d (fun r => f32Word (convert .f32 .i64 false false (lo32 (r a)))) s
/-- R77. -/
def execFcvtI32f32Rz (d a : Reg) (s : State) : Out :=
  fpOp (.fcvtI32f32Rz d a) [a] d (fun r => i32Word (convert .f32 .i32 true false (lo32 (r a)))) s
/-- R77. -/
def execFcvtI64f32Rz (d a : Reg) (s : State) : Out :=
  fpOp (.fcvtI64f32Rz d a) [a] d (fun r => f32Word (convert .f32 .i64 true false (lo32 (r a)))) s

end Sys2Proof.Machine
end

