-- ==== Sys2Proof/Machine/Vector.lean ====
section
/-!
DEFINITION. The vector family but for its memory instructions (R113 to R130): lanes, masks and windows, element arithmetic,
compares, reductions, approximations, lane instructions, conversions and dot products. Latency 12 clk (R22).
-/

namespace Sys2Proof.Machine

open Sys2Proof

/-! ## The vector file (R113, Table 2.2) -/

/-- Lane j of register r of a core's file. -/
def Core.lane (x : Core) (r j : Nat) : Lane := Tab.get 0 x.vf (32 * r + j)
/-- Writes lanes j, j + 1, … of register r of a core's file. -/
def Core.setLanes (x : Core) (r : Nat) : Nat → List Lane → Core
  | _, [] => x
  | j, v :: t => Core.setLanes { x with vf := Tab.set 0 x.vf (32 * r + j) v } r (j + 1) t
/-- The register of the file that window register r of the slot whose turn it is names. -/
def State.fileReg (s : State) (r : VReg) : Nat := 4 * s.me.vbase + r.toNat
/-- The 32 lanes of a window register. -/
def State.vreg (s : State) (r : VReg) : List Lane := (List.range 32).map ((s.core s.curCore).lane (s.fileReg r))
/-- Writes all lanes of a window register; `whole` if every lane takes a new value, which ends an uncorrectable error
(R299). -/
def State.setVreg (s : State) (r : VReg) (whole : Bool) (l : List Lane) : State :=
  s.modCore s.curCore (fun x =>
    let y := x.setLanes (s.fileReg r) 0 l
    if whole then { y with badV := y.badV.filter (fun n => n != s.fileReg r) } else y)

/-! ## Elements and masks (R113, R114, Table 6.1) -/

/-- The elements per register of a type. -/
def ETy.count (t : ETy) : Nat := if t = .i64 then 16 else 32
/-- Lane j of a list of lanes. -/
def laneAt (l : List Lane) (j : Nat) : Nat := (l.getD j 0).toNat
/-- Element j of a register's lanes. -/
def elem (t : ETy) (l : List Lane) (j : Nat) : Nat :=
  if t = .i64 then laneAt l (2 * j) + 2 ^ 32 * laneAt l (2 * j + 1) else laneAt l j % 2 ^ t.width
/-- Lane `n` of the register to which element value v is written. -/
def elemLane (t : ETy) (v n : Nat) : Lane :=
  match t with
  | .i64 => BitVec.ofNat 32 (if n % 2 = 0 then v else v / 2 ^ 32)
  | .i8 => (BitVec.ofNat 8 v).signExtend 32
  | .i16 => (BitVec.ofNat 16 v).signExtend 32
  | _ => BitVec.ofNat 32 (v % 2 ^ t.width)
/-- The lanes of a register after elements are written: an element without a value keeps its lanes. -/
def mergeElems (t : ETy) (old : List Lane) (res : List (Option Nat)) : List Lane :=
  (List.range 32).map (fun n =>
    match res.getD (if t = .i64 then n / 2 else n) none with
    | some v => elemLane t v n
    | none => old.getD n 0)

/-- The mask of an m field: all ones for m = 0, else the low 32 bits of g[m]. -/
def State.mask (s : State) (m : Reg) : Nat := if m = 0 then 2 ^ 32 - 1 else lo32 (s.src m)
/-- The sources an m field adds. -/
def maskSrc (m : Reg) : List Reg := if m = 0 then [] else [m]
/-- The values of the enabled elements. -/
def onMask {α : Type} (mask n : Nat) (f : Nat → α) : List (Option α) :=
  (List.range n).map (fun j => if mask.testBit j then some (f j) else none)
/-- The union of the flags of the enabled elements (R94). -/
def flagsOf (l : List (Option (Nat × Fl))) : Fl := l.foldl (fun a r => match r with | some x => a ||| x.2 | none => a) 0
/-- The values of the enabled elements, without their flags. -/
def valsOf (l : List (Option (Nat × Fl))) : List (Option Nat) := l.map (fun r => r.map (·.1))

/-- A vector instruction: its checks (R115), then a body, then the next word. -/
def vecOp (i : Instr) (vd vs : List VReg) (gs : List Reg) (d : Option Reg) (s : State) (body : State → State) : Out :=
  s.issue ⟨encode i, .user, true, vd, vs, gs, d⟩ body

/-- An element operation: each enabled element of vd takes f of its index. -/
def State.elemwise (t : State) (ty : ETy) (d : VReg) (m : Reg) (f : Nat → Nat × Fl) : State :=
  let mask := t.mask m
  let res := onMask mask ty.count f
  let u := t.setVreg d (res.all Option.isSome) (mergeElems ty (t.vreg d) (valsOf res))
  ((u.modMe (·.orFst (flagsOf res))).take (maskSrc m)).advance

/-- Two vector sources. -/
def vec2 (i : Instr) (ty : ETy) (d a b : VReg) (m : Reg) (f : Nat → Nat → Nat × Fl) (s : State) : Out :=
  vecOp i [d] [a, b] (maskSrc m) none s (fun t =>
    t.elemwise ty d m (fun j => f (elem ty (t.vreg a) j) (elem ty (t.vreg b) j)))

/-- One vector source. -/
def vec1 (i : Instr) (ty : ETy) (d a : VReg) (m : Reg) (f : Nat → Nat × Fl) (s : State) : Out :=
  vecOp i [d] [a] (maskSrc m) none s (fun t => t.elemwise ty d m (fun j => f (elem ty (t.vreg a) j)))

/-! ## Integer elements (R117) -/

/-- The type of a 2-bit code of majors 0x20 to 0x23. -/
def intTy (t : BitVec 2) : ETy := ETy.ofCode t.toNat
/-- The type of a 2-bit code of majors 0x24 to 0x26. -/
def floatTy (t : BitVec 2) : ETy := ETy.ofCode (4 + t.toNat)
/-- A result without flags. -/
def noFl (n : Nat) : Nat × Fl := (n, flNone)
/-- The shift amount of Table 6.2: the low log2(w) bits. -/
def elemShift (w b : Nat) : Nat := b % w

/-- Table 6.2. -/
def execVaddI (t : BitVec 2) (d a b : VReg) (m : Reg) (s : State) : Out :=
  let w := (intTy t).width
  vec2 (.vaddI t d a b m) (intTy t) d a b m (fun x y => noFl ((x + y) % 2 ^ w)) s
/-- Table 6.2. -/
def execVsubI (t : BitVec 2) (d a b : VReg) (m : Reg) (s : State) : Out :=
  let w := (intTy t).width
  vec2 (.vsubI t d a b m) (intTy t) d a b m (fun x y => noFl (toBits w ((x : Int) - y))) s
/-- Table 6.2. -/
def execVmulI (t : BitVec 2) (d a b : VReg) (m : Reg) (s : State) : Out :=
  let w := (intTy t).width
  vec2 (.vmulI t d a b m) (intTy t) d a b m (fun x y => noFl (x * y % 2 ^ w)) s
/-- Table 6.2. -/
def execVminI (t : BitVec 2) (d a b : VReg) (m : Reg) (s : State) : Out :=
  let w := (intTy t).width
  vec2 (.vminI t d a b m) (intTy t) d a b m (fun x y => noFl (if toSigned w y < toSigned w x then y else x)) s
/-- Table 6.2. -/
def execVmaxI (t : BitVec 2) (d a b : VReg) (m : Reg) (s : State) : Out :=
  let w := (intTy t).width
  vec2 (.vmaxI t d a b m) (intTy t) d a b m (fun x y => noFl (if toSigned w x < toSigned w y then y else x)) s
/-- Table 6.2, unsigned. -/
def execVminz (t : BitVec 2) (d a b : VReg) (m : Reg) (s : State) : Out :=
  vec2 (.vminz t d a b m) (intTy t) d a b m (fun x y => noFl (if y < x then y else x)) s
/-- Table 6.2, unsigned. -/
def execVmaxz (t : BitVec 2) (d a b : VReg) (m : Reg) (s : State) : Out :=
  vec2 (.vmaxz t d a b m) (intTy t) d a b m (fun x y => noFl (if x < y then y else x)) s
/-- R90, Table 6.2: clamped. -/
def execVaddSat (t : BitVec 2) (d a b : VReg) (m : Reg) (s : State) : Out :=
  let w := (intTy t).width
  vec2 (.vaddSat t d a b m) (intTy t) d a b m (fun x y => intTo w true (toSigned w x + toSigned w y)) s
/-- R90, Table 6.2: clamped. -/
def execVsubSat (t : BitVec 2) (d a b : VReg) (m : Reg) (s : State) : Out :=
  let w := (intTy t).width
  vec2 (.vsubSat t d a b m) (intTy t) d a b m (fun x y => intTo w true (toSigned w x - toSigned w y)) s
/-- Table 6.2. -/
def execVshl (t : BitVec 2) (d a b : VReg) (m : Reg) (s : State) : Out :=
  let w := (intTy t).width
  vec2 (.vshl t d a b m) (intTy t) d a b m (fun x y => noFl (x * 2 ^ elemShift w y % 2 ^ w)) s
/-- Table 6.2. -/
def execVshr (t : BitVec 2) (d a b : VReg) (m : Reg) (s : State) : Out :=
  let w := (intTy t).width
  vec2 (.vshr t d a b m) (intTy t) d a b m (fun x y => noFl (x / 2 ^ elemShift w y)) s
/-- Table 6.2. -/
def execVsra (t : BitVec 2) (d a b : VReg) (m : Reg) (s : State) : Out :=
  let w := (intTy t).width
  vec2 (.vsra t d a b m) (intTy t) d a b m (fun x y => noFl (toBits w (toSigned w x / 2 ^ elemShift w y))) s

/-! ## Compares (R119) -/

/-- R119: bit j of g[d] is the relation of enabled element j. -/
def vecCmp (i : Instr) (ty : ETy) (d : Reg) (a b : VReg) (m : Reg) (f : Nat → Nat → Bool × Fl) (s : State) : Out :=
  vecOp i [] [a, b] (maskSrc m) (some d) s (fun t =>
    let res := onMask (t.mask m) ty.count (fun j =>
      let r := f (elem ty (t.vreg a) j) (elem ty (t.vreg b) j)
      (if r.1 then 2 ^ j else 0, r.2))
    let v := (valsOf res).foldl (fun acc x => acc + x.getD 0) 0
    (t.modMe (·.orFst (flagsOf res))).retire (maskSrc m) d (wrap v) 12)

/-- A relation without flags. -/
def relNoFl (b : Bool) : Bool × Fl := (b, flNone)

/-- R119. -/
def execVceqI (t : BitVec 2) (d : Reg) (a b : VReg) (m : Reg) (s : State) : Out :=
  vecCmp (.vceqI t d a b m) (intTy t) d a b m (fun x y => relNoFl (decide (x = y))) s
/-- R119, signed. -/
def execVcltI (t : BitVec 2) (d : Reg) (a b : VReg) (m : Reg) (s : State) : Out :=
  let w := (intTy t).width
  vecCmp (.vcltI t d a b m) (intTy t) d a b m (fun x y => relNoFl (decide (toSigned w x < toSigned w y))) s
/-- R119, unsigned. -/
def execVcltz (t : BitVec 2) (d : Reg) (a b : VReg) (m : Reg) (s : State) : Out :=
  vecCmp (.vcltz t d a b m) (intTy t) d a b m (fun x y => relNoFl (decide (x < y))) s
/-- R119. -/
def execVceqF (t : BitVec 2) (d : Reg) (a b : VReg) (m : Reg) (s : State) : Out :=
  vecCmp (.vceqF t d a b m) (floatTy t) d a b m ((floatTy t).fmt.rel .eq) s
/-- R119. -/
def execVcltF (t : BitVec 2) (d : Reg) (a b : VReg) (m : Reg) (s : State) : Out :=
  vecCmp (.vcltF t d a b m) (floatTy t) d a b m ((floatTy t).fmt.rel .lt) s
/-- R119. -/
def execVcle (t : BitVec 2) (d : Reg) (a b : VReg) (m : Reg) (s : State) : Out :=
  vecCmp (.vcle t d a b m) (floatTy t) d a b m ((floatTy t).fmt.rel .le) s

/-! ## Reductions (R112, R120) -/

/-- R112, integer: the enabled elements summed, wrapped to w bits. -/
def intSum (w : Nat) (l : List (Option Nat)) : Nat := l.foldl (fun acc x => (acc + x.getD 0) % 2 ^ w) 0

/-- A lane of a float reduction, widened exactly to FP32; a NaN becomes canonical, a signalling one sets nv (R94, R103). -/
def widen (ty : ETy) (x : Nat) : Nat × Fl := toFloat fmtF32 false false (ty.decode x)

/-- R112, float: the tree over the widened lanes, its value rounded once to the element type. -/
def floatSum (ty : ETy) (l : List (Option (Nat × Fl))) : Nat × Fl :=
  let r := sliceSum (valsOf l)
  match r.1 with
  | none => (0, flagsOf l)
  | some v => let q := toFloat ty.fmt false false (fmtF32.decode v); (q.1, flagsOf l ||| r.2 ||| q.2)

/-- R120: the sum goes to every element of vd, whatever the mask. -/
def State.spread (t : State) (ty : ETy) (d : VReg) (m : Reg) (v : Nat × Fl) : State :=
  let u := t.setVreg d true (mergeElems ty [] (List.replicate 32 (some v.1)))
  ((u.modMe (·.orFst v.2)).take (maskSrc m)).advance

/-- R120. -/
def execVredI (t : BitVec 2) (d a : VReg) (m : Reg) (s : State) : Out :=
  vecOp (.vredI t d a m) [d] [a] (maskSrc m) none s (fun u =>
    u.spread (intTy t) d m (noFl (intSum (intTy t).width (onMask (u.mask m) (intTy t).count (elem (intTy t) (u.vreg a))))))
/-- R120. -/
def execVredF (t : BitVec 2) (d a : VReg) (m : Reg) (s : State) : Out :=
  vecOp (.vredF t d a m) [d] [a] (maskSrc m) none s (fun u =>
    u.spread (floatTy t) d m
      (floatSum (floatTy t) (onMask (u.mask m) 32 (fun j => widen (floatTy t) (elem (floatTy t) (u.vreg a) j)))))

/-! ## Float elements (R118) -/

/-- Table 6.3. -/
def execVaddF (t : BitVec 2) (d a b : VReg) (m : Reg) (s : State) : Out :=
  vec2 (.vaddF t d a b m) (floatTy t) d a b m (floatTy t).fmt.add s
/-- Table 6.3. -/
def execVsubF (t : BitVec 2) (d a b : VReg) (m : Reg) (s : State) : Out :=
  vec2 (.vsubF t d a b m) (floatTy t) d a b m (floatTy t).fmt.sub s
/-- Table 6.3. -/
def execVmulF (t : BitVec 2) (d a b : VReg) (m : Reg) (s : State) : Out :=
  vec2 (.vmulF t d a b m) (floatTy t) d a b m (floatTy t).fmt.mul s
/-- Table 6.3. -/
def execVminF (t : BitVec 2) (d a b : VReg) (m : Reg) (s : State) : Out :=
  vec2 (.vminF t d a b m) (floatTy t) d a b m ((floatTy t).fmt.minmax false) s
/-- Table 6.3. -/
def execVmaxF (t : BitVec 2) (d a b : VReg) (m : Reg) (s : State) : Out :=
  vec2 (.vmaxF t d a b m) (floatTy t) d a b m ((floatTy t).fmt.minmax true) s
/-- Table 6.3: vd + va × vb with one rounding; vd is read. -/
def execVfma (t : BitVec 2) (d a b : VReg) (m : Reg) (s : State) : Out :=
  let ty := floatTy t
  vecOp (.vfma t d a b m) [] [d, a, b] (maskSrc m) none s (fun u =>
    u.elemwise ty d m (fun j => ty.fmt.fma (elem ty (u.vreg a) j) (elem ty (u.vreg b) j) (elem ty (u.vreg d) j)))
/-- Table 6.3. -/
def execVabs (t : BitVec 2) (d a : VReg) (m : Reg) (s : State) : Out :=
  vec1 (.vabs t d a m) (floatTy t) d a m ((floatTy t).fmt.signOp false) s
/-- Table 6.3. -/
def execVneg (t : BitVec 2) (d a : VReg) (m : Reg) (s : State) : Out :=
  vec1 (.vneg t d a m) (floatTy t) d a m ((floatTy t).fmt.signOp true) s
/-- R122. -/
def execVexp2 (t : BitVec 2) (d a : VReg) (m : Reg) (s : State) : Out :=
  vec1 (.vexp2 t d a m) (floatTy t) d a m (approxExp2 (floatTy t)) s
/-- R123. -/
def execVlog2 (t : BitVec 2) (d a : VReg) (m : Reg) (s : State) : Out :=
  vec1 (.vlog2 t d a m) (floatTy t) d a m (approxLog2 (floatTy t)) s
/-- R124. -/
def execVrcp (t : BitVec 2) (d a : VReg) (m : Reg) (s : State) : Out :=
  vec1 (.vrcp t d a m) (floatTy t) d a m (approxRcp (floatTy t)) s
/-- R125. -/
def execVrsq (t : BitVec 2) (d a : VReg) (m : Reg) (s : State) : Out :=
  vec1 (.vrsq t d a m) (floatTy t) d a m (approxRsq (floatTy t)) s

/-! ## Lane instructions (R126) -/

/-- R126: every lane takes va where its mask bit is 1, else vb. -/
def execVsel (d a b : VReg) (m : Reg) (s : State) : Out :=
  vecOp (.vsel d a b m) [d] [a, b] (maskSrc m) none s (fun t =>
    let l := (List.range 32).map (fun j => if (t.mask m).testBit j then (t.vreg a).getD j 0 else (t.vreg b).getD j 0)
    ((t.setVreg d true l).take (maskSrc m)).advance)
/-- R126. -/
def execVmov (d a : VReg) (m : Reg) (s : State) : Out := vec1 (.vmov d a m) .i32 d a m noFl s
/-- R126. -/
def execVand (d a b : VReg) (m : Reg) (s : State) : Out := vec2 (.vand d a b m) .i32 d a b m (fun x y => noFl (x &&& y)) s
/-- R126. -/
def execVor (d a b : VReg) (m : Reg) (s : State) : Out := vec2 (.vor d a b m) .i32 d a b m (fun x y => noFl (x ||| y)) s
/-- R126. -/
def execVxor (d a b : VReg) (m : Reg) (s : State) : Out := vec2 (.vxor d a b m) .i32 d a b m (fun x y => noFl (x ^^^ y)) s
/-- R126. -/
def execVnot (d a : VReg) (m : Reg) (s : State) : Out := vec1 (.vnot d a m) .i32 d a m (fun x => noFl (2 ^ 32 - 1 - x)) s
/-- R126: lane j takes va[vb[j] mod 32]. -/
def execVshuf (d a b : VReg) (m : Reg) (s : State) : Out :=
  vecOp (.vshuf d a b m) [d] [a, b] (maskSrc m) none s (fun t =>
    t.elemwise .i32 d m (fun j => noFl (laneAt (t.vreg a) (laneAt (t.vreg b) j % 32))))
/-- R126. -/
def execVbcast (d : VReg) (a m : Reg) (s : State) : Out :=
  let srcs := a :: maskSrc m
  vecOp (.vbcast d a m) [d] [] srcs none s (fun t =>
    let res := onMask (t.mask m) 32 (fun _ => lo32 (t.src a))
    ((t.setVreg d (res.all Option.isSome) (mergeElems .i32 (t.vreg d) res)).take srcs).advance)
/-- R126: one lane, no mask. -/
def execVins (d : VReg) (a : Reg) (lane : BitVec 5) (s : State) : Out :=
  vecOp (.vins d a lane) [d] [] [a] none s (fun t =>
    let l := (List.range 32).map (fun j => if j = lane.toNat then BitVec.ofNat 32 (lo32 (t.src a)) else (t.vreg d).getD j 0)
    ((t.setVreg d false l).take [a]).advance)
/-- R126: zero-extended, no mask. -/
def execVext (d : Reg) (a : VReg) (lane : BitVec 5) (s : State) : Out :=
  vecOp (.vext d a lane) [] [a] [] (some d) s (fun t => t.retire [] d (wrap (laneAt (t.vreg a) lane.toNat)) 12)

/-! ## Conversions (R127) -/

/-- R127: with exactly one `.i64` side, 16 elements are converted, element j of it pairing with lane j of the other. -/
def execVcvt (d a : VReg) (sat rz : BitVec 1) (src m dst : BitVec 4) (s : State) : Out :=
  let ts := ETy.ofCode src.toNat
  let td := ETy.ofCode dst.toNat
  let n := if ts = .i64 ∨ td = .i64 then 16 else 32
  vecOp (.vcvt d a sat rz src m dst) [d] [a] (maskSrc m) none s (fun t =>
    let res := onMask (t.mask m) n (fun j => convert ts td (rz = 1) (sat = 1) (elem ts (t.vreg a) j))
    let u := t.setVreg d (res.all Option.isSome && (n = 32 || td = .i64)) (mergeElems td (t.vreg d) (valsOf res))
    ((u.modMe (·.orFst (flagsOf res))).take (maskSrc m)).advance)

/-! ## Dot products (R128 to R130) -/

/-- Table 6.7 with the defaults of R128: ca, cb and Ebase; `eb` is the default Ebase. -/
def dotScales (t : State) (c : Reg) (eb : Int) : Nat × Nat × Int :=
  if c = 0 then (127, 127, eb)
  else (bits (t.src c) 0 8, bits (t.src c) 8 8, toSigned 16 (bits (t.src c) 16 16))

/-- R129: the sum of the terms, whether one is INVALID, whether a range flag rose. -/
def sumTerms (l : List (Option Term)) : Int × Bool × Bool :=
  l.foldl (fun acc x =>
    match x with
    | none => acc
    | some .invalid => (acc.1, true, acc.2.2)
    | some (.val v r) => (acc.1 + v, acc.2.1, acc.2.2 || r)) (0, false, false)

/-- R129: the integer path; the accumulator stands in lanes 0 and 1 of vd, its mark in lane 2. -/
def dotInt (i : Instr) (d a b : VReg) (m c : Reg) (w : Nat) (eb : Int) (term : Nat → Nat → Nat → Nat → Int → Term) (s : State) : Out :=
  let srcs := maskSrc m ++ maskSrc c
  vecOp i [] [d, a, b] srcs none s (fun t =>
    let sc := dotScales t c eb
    let r := sumTerms (onMask (t.mask m) 32 (fun j =>
      term (laneAt (t.vreg a) j % 2 ^ w) (laneAt (t.vreg b) j % 2 ^ w) sc.1 sc.2.1 sc.2.2))
    let old := t.vreg d
    let acc := toSigned 64 (laneAt old 0 + 2 ^ 32 * laneAt old 1) + r.1
    let big := decide (acc < -(2 ^ 63)) || decide (2 ^ 63 ≤ acc)
    let v := toBits 64 acc
    let mark : Nat := if r.2.1 || laneAt old 2 ≠ 0 then 1 else 0
    let l := (List.range 32).map (fun n =>
      if n = 0 then BitVec.ofNat 32 v else if n = 1 then BitVec.ofNat 32 (v / 2 ^ 32)
      else if n = 2 then BitVec.ofNat 32 mark else old.getD n 0)
    (((t.setVreg d false l).modMe (·.orFst (flIf (r.2.2 || big) flOf))).take srcs).advance)

/-- R130: the FP32 path; the accumulator is lane 0 of vd. -/
def dotFloat (i : Instr) (d a b : VReg) (m c : Reg) (ta tb : ETy) (s : State) : Out :=
  let srcs := maskSrc m ++ maskSrc c
  vecOp i [] [d, a, b] srcs none s (fun t =>
    let sc := dotScales t c 0
    let res := onMask (t.mask m) 32 (fun j => floatProduct ta tb (elem ta (t.vreg a) j) (elem tb (t.vreg b) j) sc.1 sc.2.1)
    let sum := sliceSum (valsOf res)
    let old := t.vreg d
    match sum.1 with
    | none => ((t.modMe (·.orFst (flagsOf res ||| sum.2))).take srcs).advance
    | some p =>
      let r := fmtF32.add (laneAt old 0) p
      let l := (List.range 32).map (fun n => if n = 0 then BitVec.ofNat 32 r.1 else old.getD n 0)
      (((t.setVreg d false l).modMe (·.orFst (flagsOf res ||| sum.2 ||| r.2))).take srcs).advance)

/-- R129. -/
def execVdotL6l6 (d a b : VReg) (m c : Reg) (s : State) : Out := dotInt (.vdotL6l6 d a b m c) d a b m c 6 25 logTerm s
/-- R130. -/
def execVdotL6e4 (d a b : VReg) (m c : Reg) (s : State) : Out := dotFloat (.vdotL6e4 d a b m c) d a b m c .l6 .e4 s
/-- R130. -/
def execVdotE4e4 (d a b : VReg) (m c : Reg) (s : State) : Out := dotFloat (.vdotE4e4 d a b m c) d a b m c .e4 .e4 s
/-- R130. -/
def execVdotE5e5 (d a b : VReg) (m c : Reg) (s : State) : Out := dotFloat (.vdotE5e5 d a b m c) d a b m c .e5 .e5 s
/-- R130. -/
def execVdotBfbf (d a b : VReg) (m c : Reg) (s : State) : Out := dotFloat (.vdotBfbf d a b m c) d a b m c .bf16 .bf16 s
/-- R129. -/
def execVdotI8i8 (d a b : VReg) (m c : Reg) (s : State) : Out := dotInt (.vdotI8i8 d a b m c) d a b m c 8 40 intTerm s

end Sys2Proof.Machine
end

