-- ==== Sys2Proof/Machine/Kregs.lean ====
section
/-!
DEFINITION. The `k.` registers and the instructions that move them (R19, R20, R54, R170, R326 to R330).
-/

namespace Sys2Proof.Machine

open Sys2Proof

/-! ## Registers 0 to 13 (R54) -/

/-- What a number reads as that a core does not have. -/
def noNumber : Word := BitVec.allOnes 64

/-- R54, R170, R198: register n (0 to 13) of slot k of core c. -/
def State.readK (s : State) (c k n : Nat) : Word :=
  let x := s.slot c k
  match n with
  | 0 => wrap (k + (match x.spad with | some (o, _) => o * 2 ^ 32 | none => 0))
  | 1 => wrap c
  | 2 => if isCompute c then wrap (clusterOf c) else noNumber
  | 3 => if c = securityCore then noNumber else wrap (tileOf c)
  | 4 => wrap (dieOf c)
  | 5 => wrap (s.pkg.podNo.getD 0)
  | 6 => x.sw
  | 7 => x.epc
  | 8 => x.cause
  | 9 => x.fault
  | 10 => x.faddr
  | 11 => x.tenant.zeroExtend 64
  | 12 => x.fst
  | _ => (s.core c).owner

/-- R19: whether a value may be written to `k.sw` of a slot of core c. A privileged write of vsize 17 to 31, of vbase + vsize above 16 or of
park 11 to 15, which hardware never records, is taken as written: DESIGN CHOICE, log entry 61. -/
def swOk (c : Nat) (priv : Bool) (old v : Word) : Bool :=
  bits v 46 18 = 0 &&
  (if priv then bit v 2 = bit old 2 && (isCompute c || bit v 1 = bit old 1)
   else isCompute c && setBits v 1 1 0 = setBits old 1 1 0)

/-- Table 19.1: `k.owner` with the bits that read zero at zero, kslot included where prot is 0. -/
def ownerWord (v : Word) : Word := wrap (if bit v 39 then bits v 0 40 else bits v 0 32)

/-- R19, R20, R326: register n (0 to 13) of slot k of core c is written; none where F_ILLEGAL is raised. -/
def State.writeK (s : State) (c k n : Nat) (priv : Bool) (v : Word) : Option State :=
  let put (f : Slot → Slot) : Option State := some (s.modSlot c k f)
  match n with
  | 6 => if swOk c priv (s.slot c k).sw v then put (fun x => { x with sw := v, frameBuf := [] }) else none
  | 7 => put (fun x => { x with epc := v })
  | 8 => put (fun x => { x with cause := v })
  | 9 => put (fun x => { x with fault := v })
  | 10 => put (fun x => { x with faddr := v })
  | 12 => if bits v 5 59 = 0 then put (fun x => { x with fst := v }) else none
  | 13 => some (s.modCore c (fun x => { x with owner := ownerWord v }))
  | _ => none

/-! ## Slot registers (16 to 20) -/

/-- The place of a lane of a window register in its core's vector file (R18, R113). -/
def Slot.laneKey (x : Slot) (reg lane : Nat) : Nat := 32 * (4 * x.vbase + reg) + lane

/-- Table 21.2: `k.sgrd` of a guard record. -/
def guardWord (g : Option GuardRec) : Word :=
  match g with
  | none => 0
  | some r => wrap (2 ^ 63 + r.core * 2 ^ 48 + r.count * 2 ^ 32 + r.off / 8 % 16 * 2 ^ 20 + r.off)

/-- The guard record of a `k.sgrd` value. -/
def guardOf (v : Word) : Option GuardRec := if bit v 63 then some ⟨bits v 48 12, bits v 0 18, bits v 32 16⟩ else none

/-- R327: register n (16 to 20) of slot k of core c at an index. -/
def State.readSlotReg (s : State) (c k n ix : Nat) : Word :=
  let x := s.slot c k
  match n with
  | 16 => x.reg (BitVec.ofNat 4 ix)
  | 17 => (x.full ||| 1).zeroExtend 64
  | 18 =>
    let r := ix % 64
    if r < 4 * x.vsize then (Tab.get (0 : Lane) (s.core c).vf (x.laneKey r (ix / 64 % 32))).zeroExtend 64 else 0
  | 19 => if ix ≤ 13 then s.readK c k ix else 0
  | _ => guardWord x.guardRec

/-- R299: a lane of a vector register is written by itself: an uncorrectable error ends once every lane has been. -/
def Core.laneWritten (x : Core) (r lane : Nat) : Core :=
  if x.badV.contains r then
    let m := Tab.get (0 : BitVec 32) x.svDone r ||| 1#32 <<< lane
    if m = BitVec.allOnes 32 then { x with badV := x.badV.filter (fun n => n != r), svDone := Tab.set 0 x.svDone r 0 }
    else { x with svDone := Tab.set 0 x.svDone r m }
  else x

/-- R327: writes it; none where F_ILLEGAL is raised. `k.sg` leaves the full/empty bit unchanged and ends an error, and so do writes of
`k.sv` to every lane of a register (R299). -/
def State.writeSlotReg (s : State) (c k n ix : Nat) (v : Word) : Option State :=
  match n with
  | 16 => some (s.modSlot c k (fun x => { x.setReg (BitVec.ofNat 4 ix) v with full := x.full }))
  | 17 => some (s.modSlot c k (fun x => { x with full := v.truncate 16 ||| 1 }))
  | 18 =>
    let x := s.slot c k
    let r := ix % 64
    if r < 4 * x.vsize then
      some (s.modCore c (fun y =>
        { y with vf := Tab.set (0 : Lane) y.vf (x.laneKey r (ix / 64 % 32)) (v.truncate 32) }.laneWritten (4 * x.vbase + r) (ix / 64 % 32)))
    else some s
  | 19 => if ix ≤ 13 then s.writeK c k ix true v else some s
  | _ => some (s.modSlot c k (fun x => { x with guardRec := guardOf v }))

/-! ## Core registers (21 to 26 and 41) -/

/-- Table 16.6: the record of a window. -/
def WinCfg.record (w : WinCfg) : Word := wrap ((w.w - 1) * 2 ^ 48 + (w.k - 1) * 2 ^ 44 + (w.n - 1) * 2 ^ 32 + w.base)

/-- R327: register n of core c at an index. -/
def State.readCoreReg (s : State) (c n ix : Nat) : Word :=
  let x := s.core c
  match n with
  | 21 => x.vmap.zeroExtend 64
  | 22 => wrap (x.poolSize * 2 ^ 32 + x.poolBase)
  | 23 => x.latch.zeroExtend 64
  | 24 =>
    let q := (s.chainOut c (ix % 16)).filter (fun e => decide (e.1 ≤ s.now))
    if bit (wrap ix) 6 then wrap q.length else (q.getD (ix / 16 % 4) (0, 0)).2
  | 25 => wrap (x.barGen % 2 ^ 32 + x.barArr * 2 ^ 32)
  | 26 => x.wten.zeroExtend 64
  | _ =>
    if ix % 2 = 0 then (match x.win with | none => 0 | some w => w.record)
    else wrap (x.winErr * 2 ^ 32 + x.winTenant.toNat * 2 ^ 16 + x.winFlags.toNat * 2 ^ 11 + x.winPtr)

/-- A chain queue with entry e replaced, or brought to n entries with zeros. -/
def chainEdit (now : Nat) (q : List (Nat × Word)) (count : Bool) (e : Nat) (v : Word) : List (Nat × Word) :=
  let pad (n : Nat) : List (Nat × Word) := q ++ List.replicate (n - q.length) (now, 0)
  if count then (pad (Nat.min 4 (bits v 0 3))).take (Nat.min 4 (bits v 0 3)) else (pad (e + 1)).set e (now, v)

/-- R327: writes it. A record of a window that Table 16.6 does not allow is not taken. -/
def State.writeCoreReg (s : State) (c n ix : Nat) (v : Word) : State :=
  match n with
  | 21 => s.modCore c (fun x => { x with vmap := v.truncate 16 })
  | 22 => s.modCore c (fun x => { x with poolBase := bits v 0 18, poolSize := bits v 32 18 })
  | 23 => s.modCore c (fun x => { x with latch := v.truncate 16 })
  | 24 => s.setChain c (ix % 16) (chainEdit s.now (s.chainOut c (ix % 16)) (bit (wrap ix) 6) (ix / 16 % 4) v)
  | 25 => s.modCore c (fun x => { x with barGen := bits v 0 32, barArr := bits v 32 5 })
  | 26 => s.modCore c (fun x => { x with wten := v.truncate 8 })
  | _ =>
    if ix % 2 = 0 then
      s.modCore c (fun x => { x with win := if v = 0 then none else match windowOf v with | some w => some w | none => x.win })
    else
      s.modCore c (fun x => { x with winErr := bits v 32 32, winTenant := BitVec.ofNat 8 (bits v 16 8),
                                     winFlags := BitVec.ofNat 5 (bits v 11 5), winPtr := bits v 0 10 })

/-! ## Cluster, level and die registers (28 to 40) -/

/-- The barrier that `k.tgt` names (R151): level, instance, identifier; none outside Table 7.3. -/
def barTarget (c ix : Nat) : Option (Nat × Nat × Nat) :=
  let lv := ix / 256 % 8
  let id := ix % 64
  if 1 ≤ lv ∧ lv ≤ 5 ∧ id < barIds lv then some (lv, barInst lv c, id) else none

/-- R160: the field of a tenant's budget. -/
def TenantDie.budget (t : TenantDie) (f : Nat) : Word :=
  match f with
  | 0 => BitVec.ofInt 64 t.bal
  | 1 => wrap t.rf
  | 2 => wrap t.cap
  | _ => wrap t.ln

/-- R329: a budget field written; none outside its range. -/
def TenantDie.setBudget (t : TenantDie) (f : Nat) (v : Word) : Option TenantDie :=
  let x := v.toInt
  match f with
  | 0 => if -(2 ^ 31) ≤ x ∧ x ≤ 2 ^ 31 - 1 then some { t with bal := x } else none
  | 1 => if v.toNat ≤ 65535 then some { t with rf := v.toNat } else none
  | 2 => if v.toNat ≤ 2 ^ 30 then some { t with cap := v.toNat } else none
  | _ => if v.toNat ≤ 65535 then some { t with ln := v.toNat } else none

/-- R327: register n (28 to 40) at the target core c and an index. -/
def State.readUnitReg (s : State) (c n ix : Nat) : Word :=
  let d := dieOf c
  let t := s.tenantDie d (ix % 256)
  match n with
  | 28 => s.capEntry (clusterOf c) (ix % 64)
  | 29 => (s.cluster (clusterOf c)).sserv.zeroExtend 64
  | 30 => (match barTarget c ix with | none => 0 | some (l, i, b) => wrap (s.bar l i b).count)
  | 31 => t.ptab
  | 32 => t.s2b
  | 33 => t.s2l
  | 34 => t.scm
  | 35 => t.budget (ix / 256 % 4)
  | 36 => wrap t.quota
  | 37 =>
    let e := s.evq (ix / 256 % 256) (ix % 256)
    (match ix / 2 ^ 16 % 4 with
     | 0 => wrap ((if e.valid then 2 ^ 63 else 0) + e.base + e.s)
     | 1 => wrap e.tail
     | 2 => wrap e.lost
     | _ => 0)
  | 38 => let q := s.xq d (ix % 4096); wrap ((if q.assigned then 256 else 0) + q.xten.toNat)
  | 39 => wrap (s.die d).wmax
  | _ => wrap (s.die d).dlate

/-- The bits of a capability entry that Table 14.1 gives a meaning. -/
def capMask (v : Word) : Word :=
  wrap (bits v 63 1 * 2 ^ 63 + bits v 48 4 * 2 ^ 48 + bits v 40 8 * 2 ^ 40 + bits v 0 32)

/-- R327: writes it; none where F_ILLEGAL is raised (R329, R357). -/
def State.writeUnitReg (s : State) (c n ix : Nat) (v : Word) : Option State :=
  let d := dieOf c
  let x := ix % 256
  let ten (f : TenantDie → TenantDie) : Option State := some (s.modTenant d x f)
  match n with
  | 28 => some (s.modCluster (clusterOf c) (fun y => { y with caps := Tab.set 0 y.caps (ix % 64) (capMask v) }))
  | 29 => some (s.modCluster (clusterOf c) (fun y => { y with sserv := v.truncate 3 }))
  | 30 =>
    (match barTarget c ix with
     | none => some s
     | some (l, i, b) => some (s.setBar l i b { s.bar l i b with count := v.toNat }))
  | 31 => ten (fun t => { t with ptab := wrap (bits v 12 40 * 4096 + bits v 0 1) })
  | 32 => ten (fun t => { t with s2b := wrap (bits v 12 40 * 4096) })
  | 33 => ten (fun t => { t with s2l := v })
  | 34 => ten (fun t => { t with scm := v })
  | 35 => ((s.tenantDie d x).setBudget (ix / 256 % 4) v).map (fun t => s.modTenant d x (fun _ => t))
  | 36 => ten (fun t => { t with quota := v.toNat })
  | 37 =>
    let tenant := ix / 256 % 256
    (match ix / 2 ^ 16 % 4 with
     | 0 => if bit v 63 then some (s.enableEvq tenant x v) else some (s.modEvq tenant x (fun e => { e with valid := false, base := bits v 12 40 * 4096, s := bits v 0 5 }))
     | 1 => some (s.modEvq tenant x (fun e => { e with tail := v.toNat }))
     | 2 => some (s.modEvq tenant x (fun e => { e with lost := bits v 0 32 }))
     | _ => some s)
  | 38 => some (s.modXq d (ix % 4096) (fun q => { q with assigned := bit v 8, xten := v.truncate 8 }))
  | 39 => if bits v 32 32 = 0 ∧ v ≠ 0 then some (s.modDie d (fun y => { y with wmax := v.toNat })) else none
  | _ => if bits v 32 32 = 0 then some (s.modDie d (fun y => { y with dlate := v.toNat })) else none

/-! ## Registers 14 to 41 (R327 to R330) -/

/-- R329: whether the slot whose turn it is reaches register n at its target. -/
def State.reachesReg (s : State) (n : Nat) : Bool :=
  let t := s.me.tgtCore
  if 30 ≤ n ∧ n ≤ 40 then reachesDie s.curCore t && !(n = 30 && s.me.tgtIndex / 256 % 8 = 5 && s.curCore ≠ securityCore)
  else reachesCore s.curCore t

/-- Table 21.2: `k.sctl` as it reads. -/
def State.readSctl (s : State) (c k : Nat) : Word :=
  let x := s.slot c k
  let st := match x.st with | .free => 0 | .ready => 1 | .parked => 2 | .stopped => 3
  wrap (st + 4 * x.park + (if x.atAnchor then 64 else 0) + 256 * bits x.cause 0 8)

/-- R310: whether the target core belongs to a protected context. -/
def State.isProt (s : State) (c : Nat) : Bool := bit (s.core c).owner 39

/-- R327 to R330: register n (14 to 41) as the slot whose turn it is reads it; the target is in reach. -/
def State.readPriv (s : State) (n : Nat) : Word :=
  let x := s.me
  let c := x.tgtCore
  let k := x.tgtSlot
  let ix := x.tgtIndex
  if n = 14 then x.tgt
  else if n = 15 then s.readSctl c k
  else if n ≤ 20 then (if (s.slot c k).st ≠ .stopped || s.isProt c then 0 else s.readSlotReg c k n ix)
  else if n = 27 then
    wrap ((if (s.core c).pre ≠ .off ∧ s.quiescent (s.core c).preGroup then 1 else 0) + (if (s.core c).preExpired then 2 else 0))
  else if n ≤ 26 ∨ n = 41 then (if s.isProt c && n ≠ 26 then 0 else s.readCoreReg c n ix)
  else s.readUnitReg c n ix

/-- R329: whether a core has a READY or PARKED slot. -/
def State.running (s : State) (c : Nat) : Bool := (s.slotsOn c).any (fun p => p.2.st = .ready || p.2.st = .parked)

/-- R330: what a write of `k.pre` does. -/
def State.writePre (s : State) (c : Nat) (v : Word) : State :=
  match bits v 0 2 with
  | 1 => s.preempt c (bit v 2) .immediate
  | 2 => s.preempt c (bit v 2) (.drain (s.now + bits v 32 32))
  | 3 => s.release c (bit v 2)
  | _ => s

/-- R327 to R330: register n (14 to 41) written by the slot whose turn it is; none where F_ILLEGAL is raised. -/
def State.writePriv (s : State) (n : Nat) (v : Word) : Option State :=
  let x := s.me
  let c := x.tgtCore
  let k := x.tgtSlot
  let ix := x.tgtIndex
  if n = 14 then
    (if bits v 12 4 ≠ 0 || bits v 20 12 ≠ 0 then none else some (s.modMe (fun y => { y with tgt := v })))
  else if n = 15 then some (if v = 1 then s.resumeSlot c k else if v = 2 then s.dismissSlot c k else s)
  else if n ≤ 20 then (if (s.slot c k).st ≠ .stopped || s.isProt c then some s else s.writeSlotReg c k n ix v)
  else if n = 27 then some (s.writePre c v)
  else if n ≤ 26 ∨ n = 41 then
    some (if n ≠ 26 && (s.isProt c || s.running c) then s else s.writeCoreReg c n ix v)
  else s.writeUnitReg c n ix v

/-! ## `movk`, `kmov` (R326) -/

/-- R298: the fault of a g or v register of the target slot that holds an uncorrectable error, which a read never passes on. -/
def State.badTarget (s : State) (n : Nat) : Option Word :=
  let c := s.me.tgtCore
  let x := s.slot c s.me.tgtSlot
  let ix := s.me.tgtIndex
  if x.st ≠ .stopped || s.isProt c then none
  else if n = 16 && x.badG.getLsbD (ix % 16) then some (wrap (256 + ix % 16))
  else if n = 18 && decide (ix % 64 < 4 * x.vsize) && (s.core c).badV.contains (4 * x.vbase + ix % 64) then some (wrap (512 + ix % 64))
  else none

/-- R326: reads a register into g[d]. -/
def execMovk (d : Reg) (k : BitVec 9) (s : State) : Out :=
  let n := k.toNat
  s.issue ⟨encode (.movk d k), if n ≤ 13 then .user else .privileged, false, [], [], [], some d⟩ (fun t =>
    if n ≤ 13 then t.retire [] d (t.readK t.curCore t.curSlot n) 2
    else if n ≠ 14 && !t.reachesReg n then t.fault .target 0 (wrap t.me.tgtCore)
    else
      match t.badTarget n with
      | some f => t.fault .data 0 f
      | none => t.retire [] d (t.readPriv n) 2)

/-- R326: where a register may be written. -/
def kmovLevel (n : Nat) : Level :=
  if n = 13 then .security else if (7 ≤ n ∧ n ≤ 10) ∨ 14 ≤ n then .privileged else .user

/-- R54, R326: the registers that no one writes. -/
def kReadOnly (n : Nat) : Bool := decide (n ≤ 5) || n = 11

/-- R326: writes g[a] into a register. No frame holds the word (R57), and `k.sw` keeps what is written: the slot goes on at the next word. -/
def execKmov (a : Reg) (k : BitVec 9) (s : State) : Out :=
  let n := k.toNat
  let word : BitVec 32 := encode (.kmov a k)
  if kReadOnly n then .next (s.fault .illegal 0 (word.zeroExtend 64))
  else
    s.issue ⟨word, kmovLevel n, false, [], [], [a], none⟩ (fun t =>
      let v := t.src a
      let ill := t.fault .illegal 0 (word.zeroExtend 64)
      if n ≤ 13 then
        match (t.take [a]).writeK t.curCore t.curSlot n t.me.priv v with
        | some u => u.modMe (fun x => { x with pc := pc57 (x.pc + 4) })
        | none => ill
      else if n ≠ 14 && !t.reachesReg n then t.fault .target 0 (wrap t.me.tgtCore)
      else if n = 19 && t.me.tgtIndex = 13 && t.curCore ≠ securityCore &&
          (t.slot t.me.tgtCore t.me.tgtSlot).st = .stopped && !t.isProt t.me.tgtCore then t.fault .priv 0 (word.zeroExtend 64)
      else
        match (t.take [a]).writePriv n v with
        | some u => u.advance
        | none => ill)

end Sys2Proof.Machine
end

