-- ==== Sys2Proof/Machine/Capsule.lean ====
section
/-!
DEFINITION. Capsules, their bodies and anchor maps (R313 to R317), references and rebuilds (R319, R335, R336), the memory of hosts as an
interface reaches it (R373), and the firmware's commands INSTALL, BIND, REBUILD and LAUNCH (R324, R375).
-/

namespace Sys2Proof.Machine

open Sys2Proof

/-! ## Commands in progress (R374, R375) -/

/-- Queue interface q. -/
def State.qif (s : State) (q : Nat) : QIf := Tab.get QIf.reset s.pkg.qifs q
/-- Changes queue interface q. -/
def State.modQif (s : State) (q : Nat) (f : QIf → QIf) : State :=
  s.modPkg (fun p => { p with qifs := Tab.set QIf.reset p.qifs q (f (Tab.get QIf.reset p.qifs q)) })
/-- The command code. -/
def Cmd.code (c : Cmd) : Nat := leAt c.bytes 0 1
/-- The tag. -/
def Cmd.tag (c : Cmd) : Nat := leAt c.bytes 4 4
/-- n bytes of the arguments from byte i. -/
def Cmd.arg (c : Cmd) (i n : Nat) : Nat := leAt c.bytes i n

/-- The status codes of Table 20.5. -/
inductive Status where
  | ok | badCommand | badCapsule | noCapsule | badType | busyContexts | notAtAnchor | keySlotsFull | staleImage | tagFail
  | noResources | denied | runningContexts | ldReset
  deriving DecidableEq, Repr

/-- Table 20.5. -/
def Status.num : Status → Nat
  | .ok => 0 | .badCommand => 1 | .badCapsule => 2 | .noCapsule => 3 | .badType => 4 | .busyContexts => 5 | .notAtAnchor => 6
  | .keySlotsFull => 7 | .staleImage => 8 | .tagFail => 9 | .noResources => 10 | .denied => 11 | .runningContexts => 12 | .ldReset => 13

/-- The command ends with a status and a result. -/
def State.finish (s : State) (q : Nat) (c : Cmd) (st : Status) (result : Word) : State :=
  (s.complete q c.tag st.num result).modQif q (fun x => { x with cmds := x.cmds.erase c })
/-- The command goes on at another stage. -/
def State.stageCmd (s : State) (q : Nat) (c : Cmd) (n : Nat) : State :=
  s.modQif q (fun x => { x with cmds := x.cmds.map (fun d => if d = c then { c with stage := n } else d) })

/-- Whether commands of an interface may start: none while an UPDATE runs (R392), another UPDATE included, nor behind a LAUNCH that waits for its record's
acceptance (R159). -/
def State.mayStart (s : State) (q : Nat) : Bool :=
  !s.pkg.updating && !(s.pkg.recs.any (fun f => f.host.any (fun h => h.1 = q)))

/-- R374: the command of an interface with a code that runs, else the one that is next to start if it has that code. -/
def State.findCmd (s : State) (q code : Nat) : Option Cmd :=
  let l := (s.qif q).cmds
  match l.find? (fun c => c.code = code && decide (0 < c.stage)) with
  | some c => some c
  | none =>
    match l.find? (fun c => c.stage = 0) with
    | some c => if c.code = code && s.mayStart q then some c else none
    | none => none

/-- The tenant of an interface (Table 26.2): the index within its logical device leads to one of that device's tenants; none beyond
them (R372). -/
def State.qifTenant (s : State) (q : Nat) : Option (BitVec 8) :=
  let x := s.qif q
  (Tab.get LDev.reset s.pkg.lds x.ld).tenants[x.tenant.toNat]?

/-- R391: ROM recovery answers only UPDATE, ATTEST and QUERY. -/
def recoveryCode (code : Nat) : Bool := code = 7 || code = 8 || code = 11

/-- A command that is refused ends with a status and no result; a LAUNCH leaves its ring (R159). -/
def State.refuse (s : State) (q : Nat) (c : Cmd) (st : Status) : State :=
  (if c.code = 3 then s.leaveRing q else s).finish q c st 0

/-- A command of an interface takes its next step, with the tenant of the interface. Through an interface whose index names no tenant of its
device a host reaches nothing: DENIED (DESIGN CHOICE, log entry 71); ROM recovery, where no hypervisor has set up a device, asks for none. -/
def command (q code : Nat) (s : State) (body : Cmd → BitVec 8 → State → State) : Out :=
  match s.findCmd q code with
  | none => .next s
  | some c =>
    if s.pkg.boot = .recovery && recoveryCode code = false then .next (s.refuse q c .badCommand)
    else
      match s.qifTenant q with
      | none => .next (if s.pkg.boot = .recovery then body c 0 s else s.refuse q c .denied)
      | some x => .next (body c x s)

/-! ## Host memory (R373) -/

/-- The memory key of an address that an interface fetches or writes: it is tagged with the interface's PASID, and leads to the memory of the
host to which its logical device is bound. -/
def State.hostKey (s : State) (q a : Nat) : Nat :=
  let x := s.qif q
  2 ^ 51 + Config.hostPage (Tab.get 0 s.pkg.ldHosts x.ld) x.pasid (a / 4096) % 2 ^ 38 * 4096 + a % 4096
/-- n bytes of host memory as an interface fetches them: of a word that a protected context has enciphered, ciphertext (R305). -/
def State.hostRead (s : State) (q a n : Nat) : List Byte :=
  (List.range n).map (fun i => BitVec.ofNat 8 (s.memLoad 0 (s.hostKey q (a + i)) 1).toNat)
/-- Bytes that an interface writes to host memory. -/
def State.hostWrite (s : State) (q a : Nat) (l : List Byte) : State := s.writeRun 0 (fun i => s.hostKey q (a + i)) l

/-- R375: the installed capsule that a handle names for a tenant. -/
def State.capsuleOf (s : State) (h : Nat) (tenant : BitVec 8) : Option Capsule :=
  match s.capsule? h with
  | some cap => if cap.tenant = tenant && cap.st ≠ .deleted then some cap else none
  | none => none

/-! ## Bodies (R313, R314, R316) -/

/-- The generation `gq41` as four ASCII bytes. -/
def generationWord : Nat := 0x67 + 0x71 * 2 ^ 8 + 0x34 * 2 ^ 16 + 0x31 * 2 ^ 24

/-- R314: the island of a part that is taken verbatim: one of the device's generation. -/
def AcoonPart.verbatim (p : AcoonPart) : Option Island := p.island.filter (fun i => i.gen = generationWord)

/-- Table 20.2: whether a capsule's islands are all of the device's generation; one with the Acoon form only counts as such. -/
def Capsule.ownGeneration (x : Capsule) : Bool := x.parts.all (fun p => p.island.all (fun i => i.gen = generationWord))

/-- R314: an Acoon form marks an anchor at the target of each of its loop back-edges. -/
def Capsule.anchored (x : Capsule) : Bool :=
  x.parts.all (fun p => p.backEdges.all (fun e => e.any (fun n => decide (n < p.marks.length))))

/-- Table 20.1: the native registers in which a value can live. -/
def liveRegs : List LiveReg :=
  (List.range' 1 15).map (fun n => .g (BitVec.ofNat 4 n)) ++ (List.range 64).map (fun n => .v (BitVec.ofNat 6 n))

/-- The registers in which a translation can keep a value: the v registers of its kernel's window of n granules, or g1 to g15. -/
def regsOfKind (n : Nat) (v : Bool) : List LiveReg :=
  if v then (List.range (4 * Nat.min n 16)).map (fun r => .v (BitVec.ofNat 6 r)) else (List.range' 1 15).map (fun r => .g (BitVec.ofNat 4 r))

/-- The granules of the window of a part's kernel. -/
def Capsule.windowOf (x : Capsule) (p : AcoonPart) : Nat := ((x.kernels[p.kernel]?).map (·.vsize)).getD 0

/-- Table 20.1: whether an anchor map can hold the anchors of a capsule: their numbers, the values that live at each, and the registers that an island
names for them. A capsule for which it cannot is none (DESIGN CHOICE, log entry 80). -/
def Capsule.mapFits (x : Capsule) : Bool :=
  decide ((x.parts.map (fun p => p.marks.length)).foldl (· + ·) 0 ≤ 65536) &&
  x.parts.all (fun p => p.marks.all (fun m => decide (m.length ≤ liveRegs.length) && m.eraseDups.length = m.length &&
    (p.verbatim.isSome || [false, true].all (fun k => decide ((m.filter (fun n => Config.valueInV p.form n = k)).length ≤ (regsOfKind (x.windowOf p) k).length)))) &&
    p.island.all (fun i => i.anchors.all (fun a =>
      a.2.2.all (fun l => liveRegs.contains l.2) && (a.2.2.map (·.2)).eraseDups.length = a.2.2.length)))

/-- R314: the native words of a part of a capsule in a body version: an island's words as they are, or a translation with an `anchor` word
wherever the form marks an anchor. -/
def AcoonPart.words (p : AcoonPart) (v : Nat) : List (BitVec 32) :=
  match p.verbatim with
  | some i => i.words
  | none =>
    Config.translated p.form v 0 ++ (List.range p.marks.length).flatMap (fun n => encode .anchor :: Config.translated p.form v (n + 1))

/-- The byte offset of an entry point in its part. -/
def AcoonPart.entryOff (p : AcoonPart) (v n : Nat) : Nat :=
  match p.verbatim with
  | some i => ((i.entries.find? (fun e => e.1 = n)).map (·.2)).getD 0
  | none => 4 * (Config.entryPlace p.form v n % Nat.max 1 (p.words v).length)

/-- R315: values with a register for each, all different: of the registers in which a value can live, the one that is wanted, or the next that is
not used yet. A value lives in the same kind of register in every body (DESIGN CHOICE, log entry 85). -/
def assignRegs (kind : Nat → List LiveReg) (want : Nat → Nat) : List Nat → List LiveReg → List (Nat × LiveReg)
  | [], _ => []
  | x :: t, used =>
    let l := (kind x).filter (fun q => !used.contains q)
    let r := (l[want x % l.length]?).getD (.g 0)
    (x, r) :: assignRegs kind want t (r :: used)

/-- R315: byte offset and live registers of anchor n of a part: those of the island's `.anchor` line, absent where it has none; or the place of
the translation's `anchor` word, with a register for each value that is live there. `win` are the granules of the kernel's window. -/
def AcoonPart.anchor (p : AcoonPart) (win v n : Nat) : Option Nat × List (Nat × LiveReg) :=
  match p.verbatim with
  | some i =>
    (match i.anchors.find? (fun a => a.1 = n) with
     | some a => (some a.2.1, a.2.2)
     | none => (none, []))
  | none =>
    (some (4 * ((List.range (n + 1)).foldl (fun a k => a + (Config.translated p.form v k).length) n)),
     assignRegs (fun x => regsOfKind win (Config.valueInV p.form x)) (Config.valueReg p.form v n) (p.marks.getD n []) [])

/-- The parts of a capsule as a body lays them out, from a word and an anchor number on: each with the word at which it starts and the number
of its first anchor. -/
def layOut (h v : Nat) : Nat → Nat → Nat → List AcoonPart → List (AcoonPart × Nat × Nat)
  | _, _, _, [] => []
  | i, w, n, p :: t =>
    let at_ := w + (Config.bodyGap h v i).length
    (p, at_, n) :: layOut h v (i + 1) (at_ + (p.words v).length) (n + p.marks.length) t

/-- R314, R315: the body of a capsule in a version: the native words of its parts, its entry points, and an anchor map in which every anchor of
the Acoon form appears once, under the number that it has there. -/
def Capsule.makeBody (x : Capsule) (h v : Nat) : Body :=
  let l := layOut h v 0 0 0 x.parts
  let at_ := Config.bodyAt h v
  { base := wrap (at_.1 % 2 ^ 56 / 2 ^ 16 * 2 ^ 16)
    pa := at_.2 % hbmBytes / 2 ^ 16 * 2 ^ 16
    words := (List.range x.parts.length).flatMap (fun i =>
      Config.bodyGap h v i ++ ((x.parts[i]?).map (fun p => p.words v)).getD [])
    entries := (List.range x.entryKernels.length).map (fun n =>
      ⟨x.entryKernels.getD n 0, ((l.find? (fun q => q.1.entries.contains n)).map (fun q => 4 * q.2.1 + q.1.entryOff v n)).getD 0⟩)
    anchors := l.flatMap (fun q => (List.range q.1.marks.length).map (fun n =>
      let a := q.1.anchor (x.windowOf q.1) v n
      ⟨q.2.2 + n, q.1.kernel, a.1.map (fun o => 4 * q.2.1 + o), a.2⟩)) }

/-- R313: the words of a body stand in its pages, which the tenant's tables map executable and not readable. -/
def State.putBody (s : State) (x : BitVec 8) (b : Body) : State :=
  let gpa := s.guestSpot x b.pa (4 * b.words.length) (2 ^ 16)
  let t := s.mapRange x b.base.toNat gpa (4 * b.words.length) 0x30
  t.writeRun 0 (fun i => (t.tenantGuest x (gpa + i)).getD (gpa + i)) (b.words.flatMap (fun w => leBytes 4 w.toNat))

/-- R322: the pages of a body are released: nothing leads to them any longer. -/
def State.dropBody (s : State) (x : BitVec 8) (b : Body) : State := s.unmapRange x b.base.toNat (4 * b.words.length)

/-- A handle that no capsule has. -/
def State.newHandle (s : State) : Nat :=
  let f := Config.freeNat s.free % 2 ^ 32
  if f = 0 || (s.capsule? f).isSome then 1 + s.pkg.caps.foldl (fun a p => Nat.max a p.1) 0 else f

/-- R313, R316, R319: a capsule as it is installed: VALID with body version 1, or VOID without a body where an island is of another
generation; every reference unbound. -/
def Capsule.installed (x : Capsule) (tenant : BitVec 8) (h : Nat) (object : List Byte) : Capsule :=
  let v := if x.ownGeneration then 1 else 0
  { x with
    tenant := tenant, st := if x.ownGeneration then .valid else .void, version := v
    body := if x.ownGeneration then x.makeBody h v else ⟨0, 0, [], [], []⟩
    oldMaps := [], refs := x.refs.map (fun r => ⟨r.decl, 15, 0, 0⟩), object := object }

/-- R313, R314, R316, R375: INSTALL. An object whose kernel headers lie outside the limits of Table 1.3 is installed as it reads (DESIGN CHOICE, log
entry 80). -/
def execInstallCapsule (q : Nat) (s : State) : Out :=
  command q 0x01 s (fun c tenant t =>
    let bytes := t.hostRead q (c.arg 8 8) (c.arg 16 4)
    match Config.parseCapsule bytes with
    | none => t.finish q c .badCapsule 0
    | some x =>
      if x.anchored = false || x.mapFits = false then t.finish q c .badCapsule 0
      else
        let h := t.newHandle
        let cap := x.installed tenant h bytes
        let u := (t.nextFree).modPkg (fun p => { p with caps := Tab.put p.caps h cap })
        (u.putBody tenant cap.body).finish q c .ok (wrap (h + cap.version * 2 ^ 32)))

/-- R317: the place at which a waiting launch or fire of a capsule enters its present body. -/
def State.reAim (s : State) (h : Nat) (cap : Capsule) (a : Arrival) : Arrival :=
  if a.kern.handle ≠ h then a
  else
    let n := match a.record, a.task.fire with
      | some r, _ => some r.entry
      | none, some f => some (s.xq f.die f.q).entry
      | none, none => none
    match n.bind cap.entry with
    | some (pc, _) => { a with pc := pc, kern := { a.kern with version := cap.version } }
    | none => a

/-- R316: the translator finishes: a new body and map, the body version one higher; the old body's pages are released (DESIGN CHOICE, log entry 75), and
what waited for the capsule goes on. -/
def execRebuildFinish (handle : Nat) (s : State) : Out :=
  match s.capsule? handle with
  | none => .next s
  | some cap =>
    if cap.st ≠ .rebuilding then .next s
    else
      let v := (cap.version + 1) % 2 ^ 32
      let new : Capsule :=
        { cap with st := .valid, version := v, body := cap.makeBody handle v, oldMaps := Tab.put cap.oldMaps cap.version cap.body.anchors }
      let t := ((s.modCapsule handle (fun _ => new)).dropBody cap.tenant cap.body).putBody cap.tenant new.body
      let t := { t with cores := Tab.mapAll Core.reset t.cores (fun _ x => { x with links := x.links.map (s.reAim handle new) }) }
      .next (t.slots.foldl (fun u p =>
        match p.2.st, p.2.pend with
        | .parked, .rbld h => if h = handle then u.goOn (p.1 / 16) (p.1 % 16) else u
        | _, _ => u) t)

/-- R336: triggers a rebuild and waits for VALID. -/
def execRbld (a : Reg) (s : State) : Out :=
  s.issue ⟨encode (.rbld a), .user, false, [], [], [a], none⟩ (fun t =>
    let h := (t.src a).toNat
    match t.capsuleOf h t.me.tenant with
    | none => (t.take [a]).advance
    | some cap => if cap.st = .valid then (t.take [a]).advance else (t.triggerRebuild h).parkOn (t.pops [a]) 10 (.rbld h))

/-- R316, R375: REBUILD; its result is the new body version. -/
def execRebuildCmd (q : Nat) (s : State) : Out :=
  command q 0x09 s (fun c tenant t =>
    let h := c.arg 8 4
    match t.capsuleOf h tenant with
    | none => t.finish q c .noCapsule 0
    | some cap =>
      if cap.st = .valid then t.finish q c .ok (wrap cap.version)
      else (t.triggerRebuild h).stageCmd q c 1)

/-! ## References (R319, R335) -/

/-- The entry of a slot's capsule's reference table. -/
def State.refOf (s : State) (x : Slot) (i : Word) : Option RefEnt :=
  match x.kern.bind (fun r => s.capsule? r.handle) with
  | none => none
  | some cap => cap.refs[i.toNat]?

/-- R335: reads base or shape of an entry of type c; the slot parks with park 3 for the answer. -/
def refldOp (i : Instr) (shape : Bool) (d a c : Reg) (s : State) : Out :=
  s.issue ⟨encode i, .user, false, [], [], [a], some d⟩ (fun t => t.parkOn (t.pops [a]) 3 (.asked (.refld shape d c (t.src a))))

/-- R319, R335: the reference is read: the value, or F_REFTYPE. -/
def State.readRef (s : State) (c k : Nat) (shape : Bool) (d ty : Reg) (i : Word) : State :=
  match s.refOf (s.slot c k) i with
  | none => s.takeFault c k .reftype 0 15
  | some e => if e.ty ≠ ty.toNat then s.takeFault c k .reftype 0 (wrap e.ty) else s.answer c k d (if shape then e.shape else e.base)

/-- R335. -/
def execRefldBase (d a c : Reg) (s : State) : Out := refldOp (.refldBase d a c) false d a c s
/-- R335. -/
def execRefldShape (d a c : Reg) (s : State) : Out := refldOp (.refldShape d a c) true d a c s

/-- R319, R375: BIND sets base and shape for the declared type. -/
def execBindRef (q : Nat) (s : State) : Out :=
  command q 0x02 s (fun c tenant t =>
    let h := c.arg 8 4
    let i := c.arg 12 2
    match t.capsuleOf h tenant with
    | none => t.finish q c .noCapsule 0
    | some cap =>
      match cap.refs[i]? with
      | none => t.finish q c .badCommand 0
      | some e =>
        if e.decl ≠ c.arg 14 1 then t.finish q c .badType 0
        else
          (t.modCapsule h (fun x =>
            { x with refs := x.refs.set i { e with ty := e.decl, base := wrap (c.arg 16 8), shape := wrap (c.arg 24 8) } })).finish q c .ok 0)

/-! ## LAUNCH (R156, R158, R375) -/

/-- R158, R375: a record is built from the command's fields; the command completes when its die accepts it, and stays in its ring until
then (R159). -/
def execLaunchTask (q : Nat) (s : State) : Out :=
  command q 0x03 s (fun c tenant t =>
    let h := c.arg 8 4
    let ctl := wrap (c.arg 16 8)
    let ctx := if c.arg 40 4 = 0 then Config.tenantCtx tenant else c.arg 40 4
    match t.capsuleOf h tenant with
    | none => t.refuse q c .noCapsule
    | some cap =>
      match cap.entryKernels[c.arg 12 2]? with
      | none => t.refuse q c .badCommand
      | some kernel =>
        if ctlOk ctl = false then t.refuse q c .badCommand
        else if c.arg 40 4 ≠ 0 ∧ Config.ctxTenant ctx ≠ tenant then t.refuse q c .denied
        else
          let block := t.hostRead q (c.arg 32 8) 64
          let regs := (List.range 8).map (fun i => if c.arg 32 8 = 0 then 0 else wrap (leAt block (8 * i) 8))
          let seq := Tab.get 0 t.pkg.hostSeq q
          let recd : TaskRec :=
            { pc := ((cap.entry (c.arg 12 2)).map (·.1)).getD 0, handle := h, kernel := kernel, tenant := tenant, ctl := ctl
              deadline := wrap (c.arg 24 8), regs := regs, full := BitVec.ofNat 8 (c.arg 14 1), key := ⟨t.midpoint 4, 3072 + q, seq⟩
              ctx := ctx, entry := c.arg 12 2, fire := none }
          let u := t.modPkg (fun p =>
            { p with hostSeq := Tab.set 0 p.hostSeq q (seq + 1)
                     recs := p.recs ++ [⟨ctlDie ctl 4, recd, none, some (q, c.tag), false, false⟩] })
          (u.modQif q (fun x => { x with cmds := x.cmds.erase c })).triggerRebuild h)

/-! ## The cores of a context (R303, R339) -/

/-- The cores of a context. -/
def State.coresOf (s : State) (ctx : Nat) : List Nat := (List.range 3072).filter (fun c => bits (s.core c).owner 0 32 = ctx)
/-- Whether a memory key lies in the local memory of one of some cores. -/
def inCores (g : List Nat) (key : Nat) : Bool := decide (2 ^ 56 ≤ key) && g.contains ((key - 2 ^ 56) / 2 ^ 18)

/-- R89, R344: a FREE slot of core c with all its state zero; its claims stay counted, and a store of an ended thread stays on its way; one to
the core's own memory has reached it before that memory is cleared. -/
def Slot.blank (x : Slot) (c : Nat) : Slot :=
  { Slot.reset with claims := x.claims, buf := x.buf.filter (fun e => e.loc.place ≠ .lmem c), out := x.out }

/-- R339, R344: a core's owner changes in more than kslot: its local memory, vector file, chain queues, latches, core barrier and FREE slots are
cleared before the new value applies. -/
def State.scrubCore (s : State) (c : Nat) (owner : Word) : State :=
  let held := (s.slotsOn c).foldl (fun m p => if p.2.st = .free ∧ p.2.kern.isSome then m ||| granules p.2.vbase p.2.vsize else m) (0 : BitVec 16)
  let t := (s.modCore c (fun x =>
    { x with owner := 0, vmap := x.vmap &&& ~~~held, vf := [], badV := [], svDone := [], chq := [], latch := 0, barGen := 0
             barArr := 0 })).zeroLocal c 0 (2 ^ 18)
  let t := (t.mapSlots (fun n _ x => if n = c ∧ x.st = .free then x.blank c else x)).endHolds c
  t.modCore c (fun x => { x with owner := owner })

end Sys2Proof.Machine
end

