-- ==== Sys2Proof/Machine/Control.lean ====
section
/-!
DEFINITION. Control transfer (R78 to R83) and the repeat frame's opening (R56).
-/

namespace Sys2Proof.Machine

open Sys2Proof

/-- The tests of g[a] against zero (Table 3.2). -/
def condHolds (cond : BitVec 3) (v : Word) : Bool :=
  match cond.toNat with
  | 0 => decide (v = 0)
  | 1 => decide (v ≠ 0)
  | 2 => decide (v.toInt < 0)
  | 3 => decide (0 ≤ v.toInt)
  | 4 => decide (v.toInt ≤ 0)
  | 5 => decide (0 < v.toInt)
  | _ => true

/-- R33: the target of a branch at pc. -/
def branchTarget (pc : Word) (off : BitVec 19) : Word := pc + off.signExtend 64 * 4

/-- The slot's next word is at t, as the program counter holds it (R16). -/
def State.jumpTo (s : State) (t : Word) : State := s.modMe (fun x => { x with pc := pc57 t })

/-- R79: an empty g[a] parks the branch. -/
def execBr (a : Reg) (cond : BitVec 3) (off : BitVec 19) (s : State) : Out :=
  s.issue ⟨encode (.br a cond off), .user, false, [], [], [a], none⟩ (fun t =>
    if condHolds cond (t.src a) then (t.take [a]).jumpTo (branchTarget t.me.pc off) else (t.take [a]).advance)

/-- R79: reads no register. -/
def execJmp (off : BitVec 19) (s : State) : Out :=
  s.issue ⟨encode (.jmp off), .user, false, [], [], [], none⟩ (fun t => t.jumpTo (branchTarget t.me.pc off))

/-- R80: the link register is written, one cycle after issue (Table 2.4 says "resolved at issue" of calls and gives the link no
cycle: DESIGN CHOICE, log entry 76), then the jump. -/
def execCall (a : Reg) (off : BitVec 19) (s : State) : Out :=
  s.issue ⟨encode (.call a off), .user, false, [], [], [], some a⟩ (fun t =>
    (t.put a (t.me.pc + 4) (t.now + 1)).jumpTo (branchTarget t.me.pc off))

/-- R81: the faults of a jump through a register, else the transfer `go`. -/
def State.jumpCheck (s : State) (t : Word) (go : State) : State :=
  if t.toNat % 4 ≠ 0 then s.fault .align t
  else if canonical t = false then s.fault .addr t
  else go

/-- R81: g[a] is read before g[d] is written; the link is written one cycle after issue (DESIGN CHOICE, log entry 76). -/
def execCallr (d a : Reg) (s : State) : Out :=
  s.issue ⟨encode (.callr d a), .user, false, [], [], [a], some d⟩ (fun t =>
    t.jumpCheck (t.src a) (((t.take [a]).put d (t.me.pc + 4) (t.now + 1)).jumpTo (t.src a)))

/-- R81. -/
def execRet (a : Reg) (s : State) : Out :=
  s.issue ⟨encode (.ret a), .user, false, [], [], [a], none⟩ (fun t =>
    t.jumpCheck (t.src a) ((t.take [a]).jumpTo (t.src a)))

/-- R83: the unconditional form (cond 110) reads no register. -/
def execSkip (a : Reg) (cond n : BitVec 3) (s : State) : Out :=
  let srcs := if cond = 6 then [] else [a]
  s.issue ⟨encode (.skip a cond n), .user, false, [], [], srcs, none⟩ (fun t =>
    if condHolds cond (t.src a) then (t.take srcs).jumpTo (t.me.pc + wrap (4 * (n.toNat + 1)))
    else (t.take srcs).advance)

/-- R56: the frame fields of `k.sw` take the operands; replay and position start at 0. -/
def execRepf (n t sd sa sb : BitVec 4) (s : State) : Out :=
  s.issue ⟨encode (.repf n t sd sa sb), .user, false, [], [], [], none⟩ (fun u =>
    u.modMe (fun x =>
      { x with
        pc := pc57 (x.pc + 4)
        sw := setBits x.sw 3 29
          (1 + n.toNat * 2 ^ 9 + t.toNat * 2 ^ 13 + sd.toNat * 2 ^ 17 + sa.toNat * 2 ^ 21 + sb.toNat * 2 ^ 25) }))

end Sys2Proof.Machine
end

