-- ==== Sys2Proof/Machine/CopyUnit.lean ====
section
/-!
DEFINITION. The work of a copy job (R257, R258, R276), and how jobs start, wait, fail and complete (R244, R247, R253 to R256, R279,
R294).
-/

namespace Sys2Proof.Machine

open Sys2Proof

/-! ## Fields of a copy descriptor (Tables 16.3 and 16.4) -/

/-- The element size of copy, gather and scatter. -/
def Job.esize (j : Job) : Nat := 2 ^ bits (dwAt j.dws 0) 18 2
/-- The dimensions of a copy. -/
def Job.ndim (j : Job) : Nat := bits (dwAt j.dws 0) 14 4 + 1
/-- The element count of pack, unpack and convert. -/
def Job.count (j : Job) : Nat := bits (dwAt j.dws 3) 0 32
/-- The kind word. -/
def Job.kindWord (j : Job) : Word := dwAt j.dws 5
/-- The list entries of gather and scatter. -/
def Job.entries (j : Job) : Nat := bits j.kindWord 32 24 + 1

/-- The dimensions of a copy, from its list: count, source stride, destination stride. -/
def Job.dims (j : Job) : List (Nat × Int × Int) :=
  (List.range j.ndim).map (fun i =>
    let a := dwAt j.recWords (2 * i)
    let b := dwAt j.recWords (2 * i + 1)
    (bits a 0 24 + 1, toSigned 40 (bits a 24 40), toSigned 40 (bits b 24 40)))

/-- R276: the source and destination offsets of element e of a copy; dimension 0 is innermost. -/
def copyOffset : List (Nat × Int × Int) → Nat → Int × Int
  | [], _ => (0, 0)
  | (n, a, b) :: t, e =>
    let r := copyOffset t (e / n)
    (r.1 + (e % n : Nat) * a, r.2 + (e % n : Nat) * b)

/-! ## The kinds (R257, R258) -/

/-- One element is read and written. -/
def Work.move (w : Work) (j : Job) (src dst : Word) (n : Nat) : Run Unit :=
  (w.read j src n).bind (fun u v => u.write j dst n v)

/-- The addresses of element e of a copy (kind 0), source first. -/
def Job.copySpot (j : Job) (e : Nat) : Word × Word :=
  let o := copyOffset j.dims e
  (dwAt j.dws 1 + BitVec.ofInt 64 o.1, dwAt j.dws 2 + BitVec.ofInt 64 o.2)

/-- Kind 0. An ill-formed dimension entry ends the job before any element moves (R276). -/
def Job.badDim (j : Job) : Option Nat := (List.range j.ndim).find? (fun i => bits (dwAt j.recWords (2 * i + 1)) 0 24 ≠ 0)

/-- The elements of a row of gather and scatter. -/
def Job.rowElems (j : Job) : Nat := bits j.kindWord 0 32 / j.esize

/-- The index of list position p of gather and scatter. -/
def Job.index (j : Job) (p : Nat) : Int := toSigned 32 (dwAt j.recWords p).toNat

/-- Kinds 1 and 2: the addresses of element i of row p, source first. -/
def Job.rowSpot (j : Job) (p i : Nat) : Word × Word :=
  let far := wrap ((j.index p).toNat * bits (dwAt j.dws 4) 32 32)
  let near := wrap (p * bits j.kindWord 0 32)
  let o := wrap (i * j.esize)
  (dwAt j.dws 1 + (if j.fn = 1 then far else near) + o, dwAt j.dws 2 + (if j.fn = 1 then near else far) + o)

/-- R257: whether the index of list position p is out of bounds. -/
def Job.indexBad (j : Job) (p : Nat) : Bool := decide (j.index p < 0) || decide ((bits (dwAt j.dws 4) 0 32 : Int) ≤ j.index p)

/-- Kinds 1 and 2: rows move in list order; an index out of bounds ends the job with INDEX_BAD and its position. -/
def Work.rowElem (w : Work) (j : Job) (e : Nat) : Run Unit :=
  let p := e / j.rowElems
  if j.indexBad p then .fail w 5 (p % 2 ^ 16) 0
  else w.move j (j.rowSpot p (e % j.rowElems)).1 (j.rowSpot p (e % j.rowElems)).2 j.esize

/-- The three bytes of a group that has been packed in part, as they stand in memory. -/
def Work.groupNow (w : Work) (j : Job) (va : Word) : Run Nat :=
  (runList (fun u i => (u.loc j (va + wrap i) false true).bind (fun v l => .ok v (v.s.memLoad j.ckey l.key 1).toNat)) (List.range 3) w).bind
    (fun u l => .ok u (l.foldr (fun b a => b + 256 * a) 0))

/-- Kind 3: groups of four containers become three bytes, element by element (R258); a short group is filled with 0x10. -/
def Work.packGroup (w : Work) (j : Job) (g : Nat) : Run Unit :=
  let dst := dwAt j.dws 2 + wrap (3 * g)
  (runList (fun u i =>
    (if 4 * g + i < j.count then u.read j (dwAt j.dws 1 + wrap (4 * g + i)) 1 else .ok u 0x10).bind (fun v x =>
      (v.groupNow j dst).bind (fun y old =>
        y.write j dst 3 (setBits (wrap old) (6 * i) 6 (x % 64)).toNat))) (List.range 4) w).bind (fun u _ => .ok u ())

/-- Kind 4: the bytes of a container, 1 or 4. -/
def Job.unpackBytes (j : Job) : Nat := if bit j.kindWord 0 then 4 else 1

/-- Kind 4: each code in a container of 1 or 4 bytes, every other bit zero. -/
def Work.unpackElem (w : Work) (j : Job) (i : Nat) : Run Unit :=
  (w.read j (dwAt j.dws 1 + wrap (3 * (i / 4))) 3).bind (fun v x =>
    v.write j (dwAt j.dws 2 + wrap (j.unpackBytes * i)) j.unpackBytes (x / 2 ^ (6 * (i % 4)) % 64))

/-- The bytes of an element of a type in memory; a log6 code stands in a container of one byte. -/
def ETy.bytes (t : ETy) : Nat := if t = .l6 then 1 else t.width / 8

/-- A value times 2^k. -/
def Num.scale (x : Num) (k : Int) : Num :=
  match x with
  | .fin neg m e => .fin neg m (e + k)
  | y => y

/-- R257: an element converted under a block scale, which is exact, before the one rounding; `sub`: the scale divides. Scale 255 converts
as a NaN does (R103), as a signalling one where the element is one (R110). An integer that goes to an integer type is rounded and then kept or clamped as R90 says. -/
def scaledConvert (src dst : ETy) (rz sat sub : Bool) (c x : Nat) : Nat × Fl :=
  if c = 255 then dst.encode rz sat (match src.decode x with | .nan sig => .nan sig | _ => .nan false)
  else
    let k : Int := if sub then 127 - (c : Int) else (c : Int) - 127
    let v := (src.decode x).scale k
    match v with
    | .fin neg m e =>
      if src.isInt && dst.isInt then
        let r := roundAt rz m e 0
        let q := intTo dst.width sat (if neg then -(r.1 : Int) else (r.1 : Int))
        (q.1, q.2 ||| flIf r.2 flNx)
      else dst.encode rz sat v
    | _ => dst.encode rz sat v

/-- Kind 5: the type converted from. -/
def Job.srcType (j : Job) : ETy := ETy.ofCode (bits j.kindWord 56 4)
/-- Kind 5: the type converted to. -/
def Job.dstType (j : Job) : ETy := ETy.ofCode (bits j.kindWord 60 4)

/-- Kind 5. -/
def Work.convertElem (w : Work) (j : Job) (i : Nat) : Run Unit :=
  let kw := j.kindWord
  let smode := bits kw 52 2
  (w.read j (dwAt j.dws 1 + wrap (i * j.srcType.bytes)) j.srcType.bytes).bind (fun v x =>
    let r := if smode = 0 then convert j.srcType j.dstType (bit kw 55) (bit kw 54) x
             else scaledConvert j.srcType j.dstType (bit kw 55) (bit kw 54) (decide (smode = 2)) (j.scaleA.getD (i / 32) 127).toNat x
    ({ v with fl := v.fl ||| jflOf r.2 } : Work).write j (dwAt j.dws 2 + wrap (i * j.dstType.bytes)) j.dstType.bytes r.1)

/-- R257, R258: the parts of a copy job's work, in iteration order. -/
def Job.copyParts (j : Job) : Nat :=
  match j.fn with
  | 0 => if j.badDim.isSome then 0 else j.dims.foldl (fun a d => a * d.1) 1
  | 1 => j.entries * j.rowElems
  | 2 => j.entries * j.rowElems
  | 3 => ceilDiv j.count 4
  | _ => j.count

/-- R257: part i of a copy job's work. -/
def Work.copyPart (w : Work) (j : Job) (i : Nat) : Run Unit :=
  match j.fn with
  | 0 => w.move j (j.copySpot i).1 (j.copySpot i).2 j.esize
  | 1 => w.rowElem j i
  | 2 => w.rowElem j i
  | 3 => w.packGroup j i
  | 4 => w.unpackElem j i
  | _ => w.convertElem j i

/-! ## The work of a job, part by part (R211, R258) -/

/-- How many parts a job's work has. -/
def Job.parts (j : Job) (cluster : Nat) (copy : Bool) : Nat := if copy then j.copyParts else j.matrixParts cluster

/-- Kinds 1 and 2: where part i writes: nowhere from the list position on that ends the job. -/
def Job.rowDest (j : Job) (i : Nat) : List (Word × Nat) :=
  if (List.range (i / j.rowElems + 1)).any j.indexBad then [] else [((j.rowSpot (i / j.rowElems) (i % j.rowElems)).2, j.esize)]

/-- Where part i of a job's work writes, if it does. -/
def Job.dest (j : Job) (cluster : Nat) (copy : Bool) (i : Nat) : List (Word × Nat) :=
  if copy then
    match j.fn with
    | 0 => [((j.copySpot i).2, j.esize)]
    | 1 => j.rowDest i
    | 2 => j.rowDest i
    | 3 => [(dwAt j.dws 2 + wrap (3 * i), 3)]
    | 4 => [(dwAt j.dws 2 + wrap (j.unpackBytes * i), j.unpackBytes)]
    | _ => [(dwAt j.dws 2 + wrap (i * j.dstType.bytes), j.dstType.bytes)]
  else
    let n := (j.rows cluster).length
    if i < n then []
    else
      let row := ((j.rows cluster).getD ((i - n) / j.n) (0, 0, 0, 0)).1
      [(dwAt j.dws 7 + wrap row * dwAt j.dws 8 + wrap ((i - n) % j.n * (outType j.wfmt).2), (outType j.wfmt).2)]

/-- Part i of a job's work, which knows where the later ones would write. A word to which a job has written that ends with an error before the
other writes to it keeps its full/empty bit (DESIGN CHOICE, log entry 77). -/
def Work.part (w : Work) (j : Job) (cluster : Nat) (copy : Bool) (i : Nat) : Run Unit :=
  let u := { w with lastTo := fun va => (List.range' (i + 1) (j.parts cluster copy - (i + 1))).all (fun n =>
    (j.dest cluster copy n).all (fun q => !overlap q.1.toNat q.2 (va.toNat / 8 * 8) 8)) }
  if copy then u.copyPart j i else u.matrixPart j cluster i

/-- Code and detail of a job whose parts are all done. -/
def Job.codeAtEnd (j : Job) (cluster : Nat) (copy : Bool) : Nat × Nat :=
  if copy then
    match (if j.fn = 0 then j.badDim else none) with
    | some i => (1, i)
    | none => (0, 0)
  else j.matrixEnd cluster

/-- R276: the list that a copy job reads when it starts. -/
def Work.readList (w : Work) (j : Job) : Run (List Word) :=
  match j.fn with
  | 0 => w.readDws j (dwAt j.dws 3) (2 * j.ndim)
  | 1 => entriesOf
  | 2 => entriesOf
  | _ => .ok w []
where
  /-- The index list. -/
  entriesOf : Run (List Word) :=
    (runList (fun u i => u.read j (dwAt j.dws 3 + wrap (4 * i)) 4) (List.range j.entries) w).bind (fun u l => .ok u (l.map wrap))

/-! ## Starting (R244, R247) -/

/-- A job ends or changes: the job with this sequence number is replaced. -/
def State.setJob (s : State) (cluster : Nat) (copy : Bool) (j : Job) : State :=
  s.modUnit cluster copy (fun u => { u with jobs := u.jobs.map (fun x => if x.seq = j.seq then j else x) })

/-- Whether a job has ended and waits only for its completion. -/
def JobStage.over : JobStage → Bool
  | .ended _ _ _ _ => true
  | _ => false

/-- Whether a job has not started. -/
def JobStage.unstarted : JobStage → Bool
  | .queued => true
  | .waiting _ => true
  | _ => false

/-- R244: the next job of a target to start, if those before it let it: they have ended, but for one matrix job, the one right before
it, that still writes out from the other tile. -/
def State.nextJob (s : State) (cluster : Nat) (copy : Bool) : Option Job :=
  let l := (s.unit cluster copy).jobs
  match l.find? (fun j => j.stage.unstarted) with
  | none => none
  | some j =>
    let before := (l.takeWhile (fun x => !x.stage.unstarted)).filter (fun x => !x.stage.over)
    if before.isEmpty || (!copy && before.length = 1 && before.all (fun x =>
        x.stage = .running && x.writingOut cluster && x.tile ≠ j.tile && x.seq + 1 = j.seq)) then some j
    else none

/-- R252: a running image transfer holds the tile that a job names: the job starts after it. -/
def State.tileHeld (s : State) (cluster : Nat) (copy : Bool) (j : Job) : Bool :=
  !copy && (s.cluster cluster).accLock.any (fun p => p.1 = j.tile)

/-- R294: the job's work ends; a DATA_ERROR clears its tile. -/
def State.endWork (s : State) (cluster : Nat) (copy : Bool) (j : Job) (code detail : Nat) (fl : JobFl) (faddr : Word) : State :=
  let t := if code = 6 && !copy then s.clearTile cluster j.tile else s
  t.setJob cluster copy { j with stage := .ended code detail fl faddr, pageWait := false, bs := [] }

/-- What starting a job does: it reads its shape record or list, and runs. One whose read waits has started nevertheless. -/
def State.beginJob (s : State) (cluster : Nat) (copy : Bool) (j : Job) : State :=
  let w : Work := ⟨s, j.fl, 0, fun _ => true, none, []⟩
  match (if copy then w.readList j else w.readShape j) with
  | .ok u l => u.s.setJob cluster copy { j with recWords := l, pos := 0, fl := u.fl, last := 0, stage := .running, pageWait := false }
  | .wait => s.setJob cluster copy { j with stage := .opening, pageWait := true }
  | .hold => s.setJob cluster copy { j with stage := .opening }
  | .fail u c d a => u.s.endWork cluster copy j c d u.fl a

/-- A job that has started and waits for its shape record or list. -/
def State.openingJob (s : State) (cluster : Nat) (copy : Bool) : Option Job :=
  (s.unit cluster copy).jobs.find? (fun j => decide (j.stage = .opening))

/-- The engines of a ring group. -/
def ringClusters (cluster mask : Nat) : List Nat :=
  ((List.range 4).filter (fun i => mask.testBit i)).map (fun i => cluster / 4 * 4 + i)

/-- R247: the jobs with which the engines of a group wait at their heads; none unless every engine does, with the same tag and mask. -/
def State.ringGroup (s : State) (cluster : Nat) (j : Job) : Option (List (Nat × Job)) :=
  (ringClusters cluster j.rmask).foldr (fun c acc =>
    match acc, s.nextJob c false with
    | some l, some x =>
      (match x.stage with
       | .waiting _ => if x.rtag = j.rtag && x.rmask = j.rmask then some ((c, x) :: l) else none
       | _ => none)
    | _, _ => none) (some [])

/-- R247: what the partners of a group must share. -/
def ringFits (a b : Job) : Bool :=
  dwAt a.dws 3 = dwAt b.dws 3 && bits (dwAt a.dws 4) 0 32 = bits (dwAt b.dws 4) 0 32 && a.k = b.k && a.n = b.n && a.fn = b.fn

/-- R244, R247, R252: the next job of a target starts unless an image transfer holds its tile, or one that has started goes on reading its
shape record or list. A job with a ring group waits at its head until its group is complete; partners that differ all end with
RING_MISMATCH, those that agree start together, once no transfer holds a tile of theirs. -/
def execJobStart (cluster : Nat) (copy : Bool) (s : State) : Out :=
  match s.openingJob cluster copy, s.nextJob cluster copy with
  | some j, _ => .next (if j.pageWait then s else s.beginJob cluster copy j)
  | none, none => .next s
  | none, some j =>
    if copy || j.rmask = 0 then .next (if s.tileHeld cluster copy j then s else s.beginJob cluster copy j)
    else
      let t := match j.stage with
        | .queued => s.setJob cluster false { j with stage := .waiting s.now }
        | _ => s
      match t.ringGroup cluster j with
      | none => .next t
      | some l =>
        let ring := l.map (fun p => (⟨p.1, p.2.seq, p.2.core, p.2.tenant, p.2.owner, p.2.ckey⟩ : RingEngine))
        if l.all (fun p => ringFits p.2 j) then
          .next (if l.any (fun p => t.tileHeld p.1 false p.2) then t
            else l.foldl (fun u p => u.beginJob p.1 false { p.2 with ring := ring }) t)
        else .next (l.foldl (fun u p => u.setJob p.1 false { p.2 with stage := .ended 4 0 p.2.fl 0 }) t)

/-- R247: the first job of a group that is not complete 1,250,000 clk after it reached the head ends with RING_TIMEOUT. A complete group
that waits for a tile is complete. -/
def execRingTimeout (cluster : Nat) (s : State) : Out :=
  match s.nextJob cluster false with
  | none => .next s
  | some j =>
    match j.stage with
    | .waiting t =>
      if t + 1250000 ≤ s.now && (s.ringGroup cluster j).isNone then .next (s.setJob cluster false { j with stage := .ended 3 0 j.fl 0 })
      else .next s
    | _ => .next s

/-- R255: the service core has brought a page in: the waiting accesses of the target's jobs go on. -/
def execJobPageIn (cluster : Nat) (copy : Bool) (s : State) : Out :=
  .next (s.modUnit cluster copy (fun u => { u with jobs := u.jobs.map (fun j => { j with pageWait := false }) }))

/-! ## Ending (R253, R255, R294) -/

/-- The job of a target that runs. -/
def State.runningJob (s : State) (cluster : Nat) (copy : Bool) : Option Job :=
  (s.unit cluster copy).jobs.find? (fun j => decide (j.stage = .running))

/-- What a stretch of a job's work ends with: it has come to a part; the part waits for a page or a stopped core; the job ends. -/
inductive Stretch where
  | at_ (w : Work) (pos : Nat)
  | waits (w : Work) (pos : Nat) (page : Bool)
  | ends (w : Work) (code detail : Nat) (faddr : Word)

/-- The next n parts of a job's work. What earlier parts have done stays where a later one waits. -/
def runParts (j : Job) (cluster : Nat) (copy : Bool) : Nat → Nat → Work → Stretch
  | 0, i, w => .at_ w i
  | n + 1, i, w =>
    match w.part j cluster copy i with
    | .ok u _ => runParts j cluster copy n (i + 1) u
    | .wait => .waits w i true
    | .hold => .waits w i false
    | .fail u c d a => .ends u c d a

/-- The parts that follow and write the same aligned word: a job's write of a word is not torn (R211); at most n. -/
def runWord (j : Job) (cluster : Nat) (copy : Bool) : Nat → Nat → Work → Work × Nat
  | 0, i, w => (w, i)
  | n + 1, i, w =>
    if j.parts cluster copy ≤ i then (w, i)
    else
      match w.part j cluster copy i with
      | .ok u _ => if u.last.toNat / 8 = w.last.toNat / 8 then runWord j cluster copy n (i + 1) u else (w, i)
      | _ => (w, i)

/-- The job as its work stands. -/
def keepWork (cluster : Nat) (copy : Bool) (j : Job) (r : Stretch) : State :=
  match r with
  | .at_ u i => u.s.setJob cluster copy { j with pos := i, fl := u.fl, last := u.last, bs := u.bs }
  | .waits u i page => u.s.setJob cluster copy { j with pos := i, fl := u.fl, last := u.last, bs := u.bs, pageWait := page }
  | .ends u c d a => u.s.endWork cluster copy j c d u.fl a

/-- R211, R258: a running job does its next part, or what it writes in one word. -/
def State.jobStep (s : State) (cluster : Nat) (copy : Bool) (j : Job) : State :=
  if j.parts cluster copy ≤ j.pos then s
  else
    match runParts j cluster copy 1 j.pos ⟨s, j.fl, j.last, fun _ => true, none, j.bs⟩ with
    | .at_ u i =>
      let r := runWord j cluster copy 7 i u
      keepWork cluster copy j (.at_ r.1 r.2)
    | r => keepWork cluster copy j r

/-- The rest of a job's work, and its end; `cut` as in `Work`. -/
def State.workJob (s : State) (cluster : Nat) (copy : Bool) (j : Job) (cut : Option (Nat × Nat)) : State :=
  match runParts j cluster copy (j.parts cluster copy - j.pos) j.pos ⟨s, j.fl, j.last, fun _ => true, cut, j.bs⟩ with
  | .at_ u _ =>
    let e := j.codeAtEnd cluster copy
    (match cut with
     | some (_, d) => u.s.endWork cluster copy j 6 d u.fl u.last
     | none => u.s.endWork cluster copy j e.1 e.2 u.fl 0)
  | r => keepWork cluster copy j r

/-- R211: a running job of a target goes on by a part; `seq` is its acceptance. -/
def State.jobPart (s : State) (cluster : Nat) (copy : Bool) (seq : Nat) : State :=
  match (s.unit cluster copy).jobs.find? (fun j => decide (j.stage = .running) && j.seq = seq && !j.pageWait) with
  | some j => s.jobStep cluster copy j
  | none => s

/-- R253: the work of the oldest running job ends. -/
def execJobWorkEnd (cluster : Nat) (copy : Bool) (s : State) : Out :=
  match s.runningJob cluster copy with
  | none => .next s
  | some j => if j.pageWait then .next s else .next (s.workJob cluster copy j none)

/-- R249, R250, R257: whether a job of the copy unit takes scales from the scale store. -/
def Job.takesScales (j : Job) : Bool := j.fn = 5 && bits j.kindWord 52 2 ≠ 0

/-- R294: whether an error of a job can have this location: its tile, an operand latch, the scale store, the copy buffer. -/
def errorPlace (copy : Bool) (j : Job) (detail : Nat) : Bool :=
  if copy then detail = 4 || (detail = 3 && j.takesScales) else detail = j.tile || detail = 2 || detail = 3

/-- Whether a stretch to the end of a job's work, cut by an error, ends the job with DATA_ERROR, and not before with another status. -/
def Stretch.dataError : Stretch → Bool
  | .at_ _ _ => true
  | .waits _ _ _ => false
  | .ends _ c _ _ => c = 6

/-- R294: a soft error inside the unit ends the running job after its first `last` writes. A corrupt entry of the scale store reads back
as 255. A job that waits, or ends, before those writes has met no error. -/
def execEngineSoftError (cluster : Nat) (copy : Bool) (detail last : Nat) (s : State) : Out :=
  match s.runningJob cluster copy with
  | none => .next s
  | some j =>
    if j.pageWait || errorPlace copy j detail = false then .next s
    else
      let t := s.workJob cluster copy j (some (last, detail))
      if detail = 3 && (runParts j cluster copy (j.parts cluster copy - j.pos) j.pos
          ⟨s, j.fl, j.last, fun _ => true, some (last, detail), j.bs⟩).dataError then
        .next ((t.nextFree).modCluster cluster (fun x =>
          { x with scale := Tab.set (127 : Byte) x.scale (Config.freeNat s.free % 65536) 255 }))
      else .next t

/-! ## Completion (R254 to R256, R279) -/

/-- Table 14.5. -/
def statusWord (id detail : Nat) (fl : JobFl) (code : Nat) : Word :=
  wrap (id % 2 ^ 32 * 2 ^ 32 + detail % 2 ^ 16 * 2 ^ 16 + fl.toNat % 128 * 2 ^ 8 + code)

/-- Whether an answer of a target is on its way to the submitter of one of its jobs: no later fill of the target precedes it (R277). -/
def State.unanswered (s : State) (cluster : Nat) (copy : Bool) (j : Job) : Bool :=
  let x := s.slot j.core j.slot
  x.claims = j.claim &&
  match x.pend with
  | .jobAns _ cp cl _ => cp = copy && cl = cluster
  | _ => false

/-- R279, R281: the slots that wait for a job that is complete go on. -/
def State.wakeJwait (s : State) : State :=
  s.slots.foldl (fun t p =>
    let x := t.slot (p.1 / 16) (p.1 % 16)
    match x.st, x.pend with
    | .parked, .jwait id => if s.jobStatus x.tenant id = 0 then t else t.goOn (p.1 / 16) (p.1 % 16)
    | _, _ => t) s

/-- R254: the status words, the completion fill and the record of a job; status doublewords in a guard granule set its guard flag (R198). A fill whose claim has ended is discarded; a descriptor in a
retired core is gone, and so is one in a package that has left the pod (R355). -/
def State.reportJob (s : State) (cluster : Nat) (copy : Bool) (j : Job) (code detail : Nat) (fl : JobFl) (faddr : Word) : State :=
  let gone := (s.lostPlace j.line2 0).isSome
  let guard : JobFl := if !gone && (s.guardKey (j.line2.key + 48) || s.guardKey (j.line2.key + 56)) then jflGuard else 0
  let st := statusWord (jobId cluster copy j.seq) detail (fl ||| guard) code
  let put (t : State) (o : Nat) (v : Word) : State :=
    let u := t.agentWrite none j.ckey (j.line2.key + o) 8 v
    if j.line2.ty = .sync || (match j.line2.place with | .lmem _ => true | _ => false) then u.setWordFull (j.line2.key + o) true else u
  let t := if gone then s else put (put s 48 st) 56 faddr
  let x := t.slot j.core j.slot
  let t := if j.creg ≠ 0 && x.st ≠ .free && x.claims = j.claim then t.fill j.core j.slot j.creg st else t
  if j.mayPost then
    t.postEvent (clusterDie cluster) j.ckey j.tenant (bits (dwAt j.dws 0) 40 8) (bits (dwAt j.dws 0) 48 16) 1
  else t

/-- R279: the oldest job of a target, once its work has ended, completes. -/
def execJobComplete (cluster : Nat) (copy : Bool) (s : State) : Out :=
  match (s.unit cluster copy).jobs with
  | [] => .next s
  | j :: rest =>
    match j.stage with
    | .ended code detail fl faddr =>
      if s.unanswered cluster copy j || j.pageWait || s.reachable j.line2 = false then .next s
      else if j.line2.rp then .next (s.setJob cluster copy { j with pageWait := true })
      else
        .next (((s.reportJob cluster copy j code detail fl faddr).modUnit cluster copy (fun u =>
          { u with jobs := rest, through_ := j.seq })).wakeJwait)
    | _ => .next s

end Sys2Proof.Machine
end

