-- ==== Sys2Proof/Machine/Seal.lean ====
section
/-!
DEFINITION. Sealing and opening of save images (R311, R312, R337, R338) and the security-core instructions (R306, R339).
-/

namespace Sys2Proof.Machine

open Sys2Proof

/-! ## Segment headers (Table 19.2) -/

/-- Table 20.5: the outcome codes of `seal` and `unseal`. -/
def sealOk : Word := 0
/-- STALE_IMAGE. -/
def sealStale : Word := 8
/-- TAG_FAIL. -/
def sealTagFail : Word := 9
/-- DENIED. -/
def sealDenied : Word := 11

/-- A segment header. `segw` is the whole word of bytes 12 to 15. -/
structure SegHdr where
  ctr : Word
  ctx : Nat
  segw : Nat
  kind : Nat
  core : Nat
  slot : Nat
  zero : Nat
  off : Nat
  len : Nat
  deriving DecidableEq, Repr

/-- The header in 32 bytes. -/
def SegHdr.ofBytes (b : List Byte) : SegHdr :=
  { ctr := wrap (leAt b 0 8), ctx := leAt b 8 4, segw := leAt b 12 4, kind := leAt b 16 2, core := leAt b 18 2, slot := leAt b 20 1,
    zero := leAt b 21 3, off := leAt b 24 4, len := leAt b 28 4 }

/-- Its 32 bytes. -/
def SegHdr.toBytes (h : SegHdr) : List Byte :=
  leBytes 8 h.ctr.toNat ++ leBytes 4 h.ctx ++ leBytes 4 h.segw ++ leBytes 2 h.kind ++ leBytes 2 h.core ++ leBytes 1 h.slot ++
  leBytes 3 h.zero ++ leBytes 4 h.off ++ leBytes 4 h.len

/-- Bit 31 of bytes 12 to 15. -/
def SegHdr.final (h : SegHdr) : Bool := decide (h.segw / 2 ^ 31 % 2 = 1)
/-- Bit 30 of bytes 12 to 15 of a request (R337). -/
def SegHdr.opens (h : SegHdr) : Bool := decide (h.segw / 2 ^ 30 % 2 = 1)

/-- Table 19.2: len. -/
def SegHdr.lenOk (h : SegHdr) : Bool := h.len % 64 = 0 && decide (64 ≤ h.len) && decide (h.len ≤ 262144)

/-- Table 19.2, Table 21.3: whether the fields of a request are right for a slot whose window has `nv` registers. -/
def SegHdr.ok (h : SegHdr) (nv : Nat) : Bool :=
  h.lenOk && h.zero = 0 && decide (h.core < 3072) && decide (h.slot < 16) &&
  (match h.kind with
   | 0 => decide (h.len = 256)
   | 1 => h.len % 128 = 0 && decide (h.off + h.len / 128 ≤ nv)
   | 2 => h.slot = 0 && h.off % 64 = 0 && decide (h.off + h.len ≤ 2 ^ 18)
   | 3 => h.slot = 0 && decide (h.len = 4672)
   | _ => false)

/-- R311: the nonce: ctr, then the segment number with its final bit as the header carries them. -/
def SegHdr.nonce (h : SegHdr) : List Byte := leBytes 8 h.ctr.toNat ++ leBytes 4 h.segw

/-- R311: plaintext to ciphertext and back. -/
def gcm (key : Nat) (nonce text : List Byte) : List Byte :=
  (List.range text.length).map (fun i => text.getD i 0 ^^^ Config.keystream key nonce i)

/-- R311: the tag of a header and a ciphertext. -/
def segTag (key : Nat) (h : SegHdr) (ct : List Byte) : List Byte :=
  (List.range 16).map (Config.gcmTag key h.nonce h.toBytes ct)

/-! ## Payloads (Table 21.3) -/

/-- Kind 0: the slot state of Table 2.1 without window and scratchpad. -/
def State.payload0 (s : State) (c k : Nat) : List Byte :=
  let x := s.slot c k
  bytesOf ((List.range 16).map (fun n => x.reg (BitVec.ofNat 4 n)) ++
    [(x.full ||| 1).zeroExtend 64, x.epc, x.sw, x.fst, x.cause, x.fault, x.faddr, x.tenant.zeroExtend 64, guardWord x.guardRec,
     s.readK c k 0]) ++ List.replicate 48 0

/-- Kind 1: n window registers from `off` on. -/
def State.payload1 (s : State) (c k off n : Nat) : List Byte :=
  let x := s.slot c k
  (List.range (32 * n)).flatMap (fun j =>
    leBytes 4 (Tab.get (0 : Lane) (s.core c).vf (x.laneKey (off + j / 32) (j % 32))).toNat)

/-- Kind 2: local memory, as the context reads it. -/
def State.payload2 (s : State) (c off len : Nat) : List Byte :=
  bytesOf ((List.range (len / 8)).map (fun i => s.wordAs (s.cipherKey c) (lmemKey c (off + 8 * i))))

/-- Kind 3: the state of a core (R136). -/
def State.payload3 (s : State) (c : Nat) : List Byte :=
  let q (k : Nat) : List Word := (List.range 4).map (fun e => ((s.chainOut c k).getD e (0, 0)).2)
  bytesOf ([21, 22, 23, 25].map (fun n => s.readCoreReg c n 0) ++ (List.range 16).flatMap q) ++
  (List.range 16).map (fun k => BitVec.ofNat 8 (s.chainOut c k).length) ++
  bytesOf [s.readCoreReg c 41 0, s.readCoreReg c 41 1] ++
  (List.range 4096).map (fun i => BitVec.ofNat 8 ((List.range 8).foldl (fun a b =>
    a + (if s.wordFull (lmemKey c (64 * i + 8 * b)) then 2 ^ b else 0)) 0))

/-- The payload that a header names. -/
def State.payload (s : State) (h : SegHdr) : List Byte :=
  match h.kind with
  | 0 => s.payload0 h.core h.slot
  | 1 => s.payload1 h.core h.slot h.off (h.len / 128)
  | 2 => s.payload2 h.core h.off h.len
  | _ => s.payload3 h.core

/-! ## `seal` (R311, R337) -/

/-- R337: where a segment of n bytes is written: page by page, in pages of type normal; or the state in which the slot has stopped or
parked. -/
def State.destPages (s : State) (va : Word) : List Word → Except State (List (Word × Loc))
  | [] => .ok []
  | p :: rest =>
    match s.locate p (if p = va then 64 else 1) .store false true with
    | .error u => .error u
    | .ok l =>
      match l.place with
      | .lmem _ => .error (s.fault .memtype p 0)
      | _ =>
        if l.ty ≠ .normal then .error (s.fault .memtype p (wrap l.ty.code))
        else
          match s.collapseCheck l with
          | some u => .error u
          | none =>
            match s.destPages va rest with
            | .error u => .error u
            | .ok t => .ok ((p, l) :: t)

/-- The bytes of a segment are written, each to its page. -/
def State.writePages (s : State) (va : Word) (pages : List (Word × Loc)) (l : List Byte) : State :=
  pages.foldl (fun t p =>
    let o := (p.1 - va).toNat
    t.agentWriteBytes (s.cipherKey s.curCore) p.2.key ((l.drop o).take (2 ^ 16 - p.1.toNat % 2 ^ 16))) s

/-- R337: whether the issuer's tile holds a core. -/
def State.inMyTile (s : State) (c : Nat) : Bool := isService s.curCore && decide (c < 3072) && tileOf c = tileOf s.curCore

/-- R308, R337, Table 23.4: whether a seal is allowed: the group is quiescent, and the service core has its notice. -/
def State.sealAllowed (s : State) (h : SegHdr) : Bool :=
  let x := s.core h.core
  let k := s.keySlot (bits x.owner 32 7)
  h.ok (4 * (s.slot h.core h.slot).vsize) && s.inMyTile h.core && bit x.owner 39 && x.pre ≠ .off && x.quiesced && s.quiescent x.preGroup &&
    (h.opens || k.openSave)

/-- R311: the key slot as a seal finds it: the opening one counts C up and clears L. -/
def KeySlot.forSeal (k : KeySlot) (opens : Bool) : KeySlot :=
  if opens then { k with c := k.c + 1, l := false, openSave := true, seg := 0, restoring := false, kept := [] } else k

/-- R311: the key slot after a segment; no reservation outlives a save (R227). -/
def KeySlot.sealed (k : KeySlot) (h : SegHdr) (x : Slot) : KeySlot :=
  { k with seg := k.seg + 1, openSave := k.openSave && !h.final, l := if h.final then true else k.l,
           kept := if h.kind = 0 then Tab.put k.kept (16 * h.core + h.slot) { x with resv := none } else k.kept }

/-- R311: the header that a seal writes. -/
def SegHdr.filled (h : SegHdr) (k : KeySlot) (ctx : Nat) : SegHdr :=
  { h with ctr := k.c, ctx := ctx, segw := k.seg % 2 ^ 31 + (if h.final then 2 ^ 31 else 0) }

/-- R311: header, ciphertext and tag. -/
def segment (key : Nat) (h : SegHdr) (text : List Byte) : List Byte :=
  let ct := gcm key h.nonce text
  h.toBytes ++ ct ++ segTag key h ct

/-- R337: g[d] receives the outcome. -/
def State.outcome (s : State) (srcs : List Reg) (d : Reg) (v : Word) : State := s.retire srcs d v 0

/-- R198, R311, R337: the request and the destination; then the slot parks with park 3 while the copy unit of the named core's cluster works. -/
def execSeal (d a b : Reg) (s : State) : Out :=
  let srcs := [a, b]
  s.issue ⟨encode (.seal d a b), .privileged, false, [], [], srcs, some d⟩ (fun t =>
    let dst := t.src b
    match t.readRun (t.src a) 8 4 with
    | .error u => u
    | .ok l =>
      let req := bytesOf (l.map (·.1))
      let n := if (SegHdr.ofBytes req).lenOk then 48 + (SegHdr.ofBytes req).len else 64
      match t.destPages dst (imagePages dst n) with
      | .error u => u
      | .ok pages => (t.touchAll 8 l).parkOn (t.pops srcs) 3 (.asked (.seal d req dst pages)))

/-- R298: whether what a header names holds an uncorrectable error. -/
def State.payloadBad (s : State) (h : SegHdr) : Bool :=
  let x := s.slot h.core h.slot
  match h.kind with
  | 0 => x.badG ≠ 0
  | 1 => (s.core h.core).badV.any (fun n => decide (4 * x.vbase + h.off ≤ n) && decide (n < 4 * x.vbase + h.off + h.len / 128))
  | 2 => (List.range (h.len / 8)).any (fun i => s.badWord (lmemKey h.core (h.off + 8 * i)))
  | _ => false

/-- R311, R337: the copy unit has done its work: the segment is written whole, or the seal is refused, and g[d] receives the outcome. The
checks are made here, on the state that is read. A destination in a package that has left the pod raises F_ADDR (R355). State with an
uncorrectable error is not sealed: DENIED, and the error is logged, as R298 has a service core answer (DESIGN CHOICE, log entry 67). -/
def State.sealNow (s : State) (c k : Nat) (d : Reg) (req : List Byte) (dst : Word) (pages : List (Word × Loc)) : State :=
  let as_ : State := { s with curCore := c, curSlot := k }
  let h := SegHdr.ofBytes req
  match pages.findSome? (fun p => s.lostPlace p.2 p.1) with
  | some f => s.takeFault c k f.1 f.2.1 f.2.2
  | none =>
    if as_.sealAllowed h = false then s.answer c k d sealDenied
    else if s.payloadBad h then (s.logError (tileOf c)).answer c k d sealDenied
    else
      let owner := (s.core h.core).owner
      let kn := bits owner 32 7
      let key := (s.keySlot kn).forSeal h.opens
      let hd := h.filled key (bits owner 0 32)
      let u : State := { as_.writePages dst pages (segment key.key hd (s.payload h)) with curCore := s.curCore, curSlot := s.curSlot }
      ((u.modKey kn (fun _ => key.sealed h (s.slot h.core h.slot))).idleKeys).answer c k d sealOk

/-! ## `unseal` (R312, R338) -/

/-- What the machine keeps of a slot beside what a segment of kind 0 carries. -/
def KeySlot.keptSlot (k : KeySlot) (h : SegHdr) : Slot := Tab.get Slot.reset k.kept (16 * h.core + h.slot)

/-- R89, R338: a segment of kind 0 opens: the slot is STOPPED with its state; stores that another thread has issued in the slot still drain; a saved code that is not zero posts a new notice (R293). The thread's
missed stores go on with it (R230). Its charge counts from here, and that of a thread whose slot it takes is not made (DESIGN CHOICE, log entry 84). -/
def State.open0 (s : State) (c : Nat) (h : SegHdr) (kept : Slot) (p : List Byte) : State :=
  let w (i : Nat) : Word := wrap (leAt p (8 * i) 8)
  let old := s.slot c h.slot
  let regs : Slot := (List.range 16).foldl (fun x n => x.setReg (BitVec.ofNat 4 n) (w n)) kept
  let x : Slot :=
    { regs with
      st := .stopped, full := (w 16).truncate 16 ||| 1, badG := 0, epc := w 17, sw := w 18, fst := w 19, cause := w 20, fault := w 21,
      faddr := w 22, tenant := (w 23).truncate 8, guardRec := guardOf (w 24), pc := pc57 (wrap ((w 17).toNat / 4 * 4)), buf := old.buf, out := old.out,
      claims := old.claims + 1, claimedAt := s.now, resv := none, tgt := 0, notice := false
      task := { kept.task with fire := if old.st = .stopped then old.task.fire else none } }
  let t := (s.setSlot c h.slot x).moveMisses c h.slot kept.claims x.claims
  if bits x.cause 0 8 = 0 then t else t.postFault c h.slot

/-- The lanes of a payload of kind 1. -/
def lanesOf (p : List Byte) : List Lane := (List.range (p.length / 4)).map (fun j => BitVec.ofNat 32 (leAt p (4 * j) 4))

/-- R299, R338: whole registers of a slot's window are written, from register `off` on, as far as the window reaches. -/
def State.putLanes (s : State) (c k off : Nat) (l : List Lane) : State :=
  let x := s.slot c k
  let l := l.take (32 * (4 * x.vsize - off))
  let whole (n : Nat) : Bool := decide (4 * x.vbase + off ≤ n) && decide (n < 4 * x.vbase + off + l.length / 32)
  s.modCore c (fun y =>
    { y with
      badV := y.badV.filter (fun n => !whole n)
      vf := (List.range l.length).foldl (fun f j => Tab.set (0 : Lane) f (x.laneKey (off + j / 32) (j % 32)) (l.getD j 0)) y.vf })

/-- R338: a segment of kind 2 opens: local memory, enciphered again under the core's own key. -/
def State.open2 (s : State) (c : Nat) (h : SegHdr) (p : List Byte) : State :=
  (List.range (p.length / 8)).foldl (fun t i =>
    t.agentWrite none (s.cipherKey c) (lmemKey c (h.off + 8 * i)) 8 (wrap (leAt p (8 * i) 8))) s

/-- R227: the full/empty bit of a word is set by an agent that is no slot; a change of it loses reservations. -/
def State.agentFull (s : State) (key : Nat) (b : Bool) : State :=
  if s.wordFull key = b then s else (s.setWordFull key b).loseResv none key

/-- R338: a segment of kind 3 opens: the state of a core. -/
def State.open3 (s : State) (c : Nat) (p : List Byte) : State :=
  let w (o : Nat) : Word := wrap (leAt p o 8)
  let t := (((s.writeCoreReg c 21 0 (w 0)).writeCoreReg c 22 0 (w 8)).writeCoreReg c 23 0 (w 16)).writeCoreReg c 25 0 (w 24)
  let t := (List.range 16).foldl (fun u k =>
    u.setChain c k ((List.range (Nat.min 4 (leAt p (0x220 + k) 1))).map (fun e => (s.now, w (0x20 + 32 * k + 8 * e))))) t
  let t := (t.writeCoreReg c 41 0 (w 0x230)).writeCoreReg c 41 1 (w 0x238)
  (List.range 32768).foldl (fun u i => u.agentFull (lmemKey c (8 * i)) (leAt p (0x240 + i / 8) 1 / 2 ^ (i % 8) % 2 = 1)) t

/-- R312: the registers of a restore that came before their slot's state take their places in the window that the state has given it: those of the
slots that `ready` names. -/
def State.placeLanes (s : State) (l : List (Nat × Nat × List Lane)) (ready : Nat → Bool) : State :=
  (l.filter (fun p => ready p.1)).foldl (fun t p => t.putLanes (p.1 / 16) (p.1 % 16) p.2.1 p.2.2) s

/-- R312: what the key slot keeps of the restore in progress, of which a segment is the first or not. -/
def KeySlot.resumed (k : KeySlot) : KeySlot := if k.restoring then k else { k with back := [], lanes := [] }

/-- R312, R345: whether a slot stands with the state that a segment of the restore has opened: it has not been freed or claimed since. -/
def State.stands (s : State) (k : KeySlot) (n : Nat) : Bool :=
  let x := s.slot (n / 16) (n % 16)
  x.st = .stopped && k.back.contains (n, x.claims)

/-- R312, R338: what an opened segment does. The segments of a restore may come in any order, so vector registers that come before their
slot's state wait for its window, at the latest until the restore ends: then they go to the window of a slot that stands STOPPED, and those of a FREE
slot, which has none, are gone. -/
def State.openSegment (s : State) (c : Nat) (h : SegHdr) (key : KeySlot) (p : List Byte) : State :=
  let n := 16 * c + h.slot
  let k := key.resumed
  let t :=
    match h.kind with
    | 0 => (s.open0 c h (k.keptSlot h) p).placeLanes k.lanes (fun m => decide (m = n))
    | 1 => if s.stands k n then s.putLanes c h.slot h.off (lanesOf p) else s
    | 2 => s.open2 c h p
    | _ => s.open3 c p
  if h.final then
    let late := if h.kind = 1 ∧ s.stands k n = false then k.lanes ++ [(n, h.off, lanesOf p)] else k.lanes
    t.placeLanes late (fun m => (s.slot (m / 16) (m % 16)).st = .stopped && !s.stands k m && !(decide (h.kind = 0) && decide (m = n)))
  else t

/-- R306, R312: the key slot after a segment that opened on core c of the state s: ACTIVE; the final one sets L to 0. -/
def KeySlot.opened (key : KeySlot) (s : State) (c : Nat) (h : SegHdr) (p : List Byte) : KeySlot :=
  let n := 16 * c + h.slot
  let k := key.resumed
  { k with
    st := .active, l := k.l && !h.final, restoring := !h.final
    back := if h.kind = 0 then (n, (s.slot c h.slot).claims + 1) :: k.back else k.back
    lanes := if h.kind = 0 then k.lanes.filter (fun q => q.1 ≠ n)
             else if h.kind = 1 ∧ s.stands k n = false then k.lanes ++ [(n, h.off, lanesOf p)] else k.lanes }

/-- R312, R338: the checks in order; none where the segment is opened. `seg` is the segment whole, absent where len breaks Table
19.2. -/
def State.unsealCheck (s : State) (b : Word) (h : SegHdr) (seg : Option (List Byte)) : Option Word :=
  let c := bits b 0 12
  let x := s.core c
  let k := s.keySlot (bits x.owner 32 7)
  let st := (s.slot c h.slot).st
  if bits b 12 52 ≠ 0 ∨ s.inMyTile c = false ∨ bits x.owner 0 32 ≠ h.ctx then some sealDenied
  else if h.ctr ≠ k.c ∨ k.l = false then some sealStale
  else
    match seg with
    | none => some sealTagFail
    | some l =>
      if segTag k.key h ((l.drop 32).take h.len) ≠ l.drop (32 + h.len) then some sealTagFail
      else if h.kind < 2 ∧ st ≠ .free ∧ st ≠ .stopped then some sealDenied
      else none

/-- R308: a final segment ends the restore, and with it the quiescence of the core's group. -/
def State.endRestore (s : State) (c : Nat) (h : SegHdr) : State := if h.final then s.endQuiescence c else s

/-- R198, R312, R338. -/
def execUnseal (d a b : Reg) (s : State) : Out :=
  let srcs := [a, b]
  s.issue ⟨encode (.unseal d a b), .privileged, false, [], [], srcs, some d⟩ (fun t =>
    let fin (u : State) (h : SegHdr) (l : Option (List Byte)) : State :=
      match u.unsealCheck (t.src b) h l with
      | some v => u.outcome srcs d v
      | none =>
        let c := bits (t.src b) 0 12
        let kn := bits (u.core c).owner 32 7
        let k := u.keySlot kn
        let p := gcm k.key h.nonce (((l.getD []).drop 32).take h.len)
        (((u.openSegment c h k p).modKey kn (fun _ => k.opened u c h p)).endRestore c h).outcome srcs d sealOk
    match t.readRun (t.src a) 8 4 with
    | .error u => u
    | .ok l0 =>
      let h := SegHdr.ofBytes (bytesOf (l0.map (·.1)))
      if h.lenOk = false then fin (t.touchAll 8 l0) h none
      else
        match t.readRun (t.src a) 8 (6 + h.len / 8) with
        | .error u => u
        | .ok l => fin (t.touchAll 8 l) h (some (bytesOf (l.map (·.1)))))

/-! ## Security-core instructions (R306, R339) -/

/-- R339: the outcome goes to `k.fault`, and the slot goes on. -/
def State.keyOutcome (s : State) (srcs : List Reg) (v : Word) : State := ((s.take srcs).modMe (fun x => { x with fault := v })).advance

/-- R339: the blob of a wrapped key slot. -/
def KeySlot.blob (k : KeySlot) : List Byte := (List.range 80).map (Config.keyBlob k.key k.ctx k.c k.l)

/-- R339: the 80 bytes at an offset of the security core. -/
def State.blobAt (s : State) (o : Nat) : List Byte := s.rawReadBytes (lmemKey securityCore o) 80

/-- R298: the address of the first word of those bytes that holds an uncorrectable error. -/
def State.blobBad (s : State) (o : Nat) : Option Word :=
  ((List.range 80).find? (fun i => s.badWord (lmemKey securityCore (o + i)))).map (fun i => wrap (localBase + (o + i) / 8 * 8))

/-- R339: a fresh key, or a wrapped one. -/
def execKeyld (a b : Reg) (s : State) : Out :=
  let srcs := [a, b]
  s.issue ⟨encode (.keyld a b), .security, false, [], [], srcs, none⟩ (fun t =>
    let x := t.src a
    let y := t.src b
    let n := bits x 0 7
    let o := bits y 0 18
    if bit x 7 || bits x 9 55 ≠ 0 || (if bit x 8 then bits y 18 46 ≠ 0 || decide (2 ^ 18 < o + 80) else bits y 32 32 ≠ 0) then
      t.keyOutcome srcs 2
    else if (t.keySlot n).st ≠ .empty then t.keyOutcome srcs 1
    else if bit x 8 then
      match t.blobBad o with
      | some a => t.fault .data a
      | none =>
      match t.pkg.wrapped.find? (fun k => k.blob = t.blobAt o) with
      | none => t.keyOutcome srcs 3
      | some k =>
        ((t.modPkg (fun p => { p with parked := p.parked.filter (fun e => e.1 ≠ k.ctx) })).modKey n
          (fun _ => { k with st := .idle })).keyOutcome srcs 0
    else
      ((t.modPkg (fun p => { p with keyCount := p.keyCount + 1 })).modKey n
        (fun _ => ⟨.active, t.pkg.keyCount + 1, bits y 0 32, 0, false, false, 0, false, [], [], []⟩)).keyOutcome srcs 0)

/-- R339: whether a core whose kslot names a key slot has a slot that is not FREE. -/
def State.keyInUse (s : State) (n : Nat) : Bool :=
  s.slots.any (fun e => e.2.st != .free && bit (s.core (e.1 / 16)).owner 39 && bits (s.core (e.1 / 16)).owner 32 7 = n)

/-- R339: the slot is zeroed; bit 8: it is wrapped out first. -/
def execKeyclr (a : Reg) (s : State) : Out :=
  s.issue ⟨encode (.keyclr a), .security, false, [], [], [a], none⟩ (fun t =>
    let x := t.src a
    let n := bits x 0 7
    let o := bits x 32 18
    let k := t.keySlot n
    if bit x 7 || bits x 9 23 ≠ 0 || bits x 50 14 ≠ 0 || (bit x 8 && (o % 16 ≠ 0 || decide (2 ^ 18 < o + 80))) then
      t.keyOutcome [a] 2
    else if (bit x 8 && k.st = .active) || t.keyInUse n then t.keyOutcome [a] 1
    else
      let u := if bit x 8 then
          (t.agentWriteBytes 0 (lmemKey securityCore o) k.blob).modPkg (fun p =>
            { p with wrapped := p.wrapped ++ [k], parked := if k.st = .idle then Tab.put p.parked k.ctx k else p.parked })
        else t
      (u.modKey n (fun _ => KeySlot.reset)).keyOutcome [a] 0)

/-- R339, Table 19.1: an owner register is written. -/
def execOwnset (a b : Reg) (s : State) : Out :=
  let srcs := [a, b]
  s.issue ⟨encode (.ownset a b), .security, false, [], [], srcs, none⟩ (fun t =>
    let c := (t.src a).toNat
    let v := t.src b
    let old := (t.core c).owner
    if 3072 ≤ c ∨ bits v 40 24 ≠ 0 ∨ (bit v 39 = false ∧ bits v 32 7 ≠ 0) then t.keyOutcome srcs 2
    else if (t.slotsOn c).any (fun p => p.2.st ≠ .free) then t.keyOutcome srcs 1
    else if setBits old 32 7 0 = setBits v 32 7 0 then (t.modCore c (fun x => { x with owner := v })).keyOutcome srcs 0
    else (t.scrubCore c v).keyOutcome srcs 0)

end Sys2Proof.Machine
end

