-- ==== Sys2Proof/Machine/Saves.lean ====
section
/-!
DEFINITION. Saving, restoring and ending a context by the firmware's commands SUSPEND, RESUME and END (R306 to R312, R318, R375).
-/

namespace Sys2Proof.Machine

open Sys2Proof

/-! ## Saving a context (R307 to R311, R318) -/

/-- R318: what a save of some cores holds. No reservation outlives it (R227), and an uncorrectable error goes with what it is in (R298). -/
def State.savedOf (s : State) (g : List Nat) : Saved :=
  let stopped := (s.slots.filter (fun p => g.contains (p.1 / 16) && decide (p.2.st = .stopped))).map (fun p => (p.1, { p.2 with resv := none }))
  { slots := stopped
    cores := g.map (fun c => (c, s.core c))
    mem := s.mem.filter (fun p => inCores g p.1)
    empties := s.empties.filter (fun p => inCores g (8 * p.1))
    tags := s.tags.filter (fun p => inCores g (8 * p.1))
    bads := s.pkg.badWords.filter (fun p => inCores g (8 * p.1))
    anchors := stopped.map (fun p => (p.1, if p.2.atAnchor then s.anchorAt p.2 p.2.epc else none))
    segs := [] }

/-- R311: the headers of the segments in which a protected context is saved: of each core its state, its local memory, and of each stopped
slot its state and, where it has a window, its vector registers. The first opens the save and the last is final. -/
def State.saveHeaders (s : State) (ctx : Nat) (g : List Nat) : List SegHdr :=
  let seg (kind core slot len : Nat) : SegHdr := ⟨0, ctx, 0, kind, core, slot, 0, 0, len⟩
  g.flatMap (fun c =>
    [seg 3 c 0 4672, seg 2 c 0 (2 ^ 18)] ++
    ((s.slotsOn c).filter (fun p => p.2.st = .stopped)).flatMap (fun p =>
      seg 0 c p.1 256 :: (if p.2.vsize = 0 then [] else [seg 1 c p.1 (512 * p.2.vsize)])))

/-- R311: the segments of a save under its context's key, as `seal` writes them, and the key slot after the final one. -/
def State.saveSegs (s : State) (ctx : Nat) (g : List Nat) (key : KeySlot) : List (List Byte) × KeySlot :=
  let l := s.saveHeaders ctx g
  (List.range l.length).foldl (fun a i =>
    match l[i]? with
    | none => a
    | some h =>
      let h := { h with segw := if i + 1 = l.length then 2 ^ 31 else 0 }
      let hd := h.filled a.2 ctx
      (a.1 ++ [segment a.2.key hd (s.payload h)], a.2.sealed h (s.slot h.core h.slot))) ([], key.forSeal true)

/-- R298: whether something that a save of a protected context would seal holds an uncorrectable error. -/
def State.saveBad (s : State) (ctx : Nat) (g : List Nat) : Bool :=
  g.any (fun c => bit (s.core c).owner 39) && (s.saveHeaders ctx g).any s.payloadBad

/-- R306, R311, R318: a quiescent context is saved: its image is taken, that of a protected one in segments under its key, whose counter
rises and whose L is set; its slots become FREE, a scope-miss handler among them without having ended (R230), and its cores belong to no
context any more. -/
def State.saveCtx (s : State) (ctx : Nat) (g : List Nat) : State :=
  let owner := match g with | c :: _ => (s.core c).owner | [] => 0
  let kn := bits owner 32 7
  let r := s.saveSegs ctx g (s.keySlot kn)
  let v : Saved := { s.savedOf g with segs := if bit owner 39 then r.1 else [] }
  let t := s.modPkg (fun p =>
    { p with ctxs := Tab.set Ctx.reset p.ctxs ctx { Tab.get Ctx.reset p.ctxs ctx with saved := some v } })
  let t := if bit owner 39 then t.modKey kn (fun _ => { r.2 with openSave := false, restoring := false, kept := [], back := [], lanes := [] }) else t
  let t := v.slots.foldl (fun u p => u.vacate (p.1 / 16) (p.1 % 16) false false) t
  let t := t.mapSlots (fun c _ x => if g.contains c then { x with kern := none, spad := none } else x)
  let t := g.foldl (fun u c =>
    ((u.returnLaunches c).scrubCore c 0).modCore c (fun x =>
      { x with vmap := 0, pre := .off, preGroup := [], preExpired := false, quiesced := false })) t
  t.idleKeys

/-- R308: a pre-empted group is let go on: its cores accept arrivals, and the slots that the pre-emption has stopped are resumed. -/
def State.goOnGroup (s : State) (g : List Nat) : State :=
  (g.foldl (fun t c => t.modCore c (fun x => { x with pre := .off, preGroup := [], preExpired := false, quiesced := false })) s).mapSlots
    (fun c _ x => if g.contains c && x.st = .stopped && bits x.cause 0 8 = 0 then x.resume else x)

/-- R307, R308, R375: SUSPEND; a protected context whose state holds an uncorrectable error is not sealed: DENIED, the error is logged, and the
context goes on (R298: DESIGN CHOICE, log entry 67). The save starts when the quiescence notice has come; its result is the number of saved slots and whether all are at an anchor. -/
def execSuspendCtx (q : Nat) (s : State) : Out :=
  command q 0x04 s (fun c tenant t =>
    let ctx := c.arg 8 4
    let mode := c.arg 12 1
    let g := t.coresOf ctx
    if c.stage = 0 then
      if mode ≠ 1 ∧ mode ≠ 2 then t.finish q c .badCommand 0
      else if ctx = 0 ∨ g = [] ∨ Config.ctxTenant ctx ≠ tenant then t.finish q c .denied 0
      else
        let m : PreMode := if mode = 1 then .immediate else .drain (t.now + c.arg 16 4)
        (t.preemptGroup g m).stageCmd q c 1
    else if g = [] then t.finish q c .denied 0
    else if t.quiescent g && g.all (fun n => (t.core n).quiesced) then
      if t.saveBad ctx g then ((t.goOnGroup g).logError (g.head?.map tileOf |>.getD 0)).finish q c .denied 0 else
      let l := t.stoppedList g
      (t.saveCtx ctx g).finish q c .ok (wrap (l.length + (if l.all (fun x => x.2.2.2) then 2 ^ 32 else 0)))
    else t)

/-! ## Restoring a context (R306, R312, R318) -/

/-- What a live g register of a stopped slot holds: value, full/empty bit, and whether it has an uncorrectable error. -/
def liveG (x : Slot) (l : LiveReg) : Option (Word × Bool × Bool) :=
  match l with
  | .g r => some (x.reg r, x.isFull r, x.badG.getLsbD r.toNat)
  | .v _ => none
/-- Whether a vector register lies in the window of a slot. -/
def Slot.hasV (x : Slot) (r : VReg) : Bool := decide (r.toNat < 4 * x.vsize)
/-- The lanes of a live vector register of a slot's window in its core's file. -/
def liveV (vf : List (Nat × Lane)) (x : Slot) (l : LiveReg) : Option (List Lane) :=
  match l with
  | .v r => if x.hasV r then some ((List.range 32).map (fun j => Tab.get (0 : Lane) vf (x.laneKey r.toNat j))) else none
  | .g _ => none
/-- The old register of a value, by its number. -/
def AnchorEnt.regOf (e : AnchorEnt) (n : Nat) : Option LiveReg := (e.live.find? (fun o => o.1 = n)).map (·.2)

/-- R318: a stopped slot is moved from an anchor of the old map to the same anchor of the new one. An uncorrectable error goes with its value
(R298). -/
def remapSlot (x : Slot) (old new : AnchorEnt) (cap : Capsule) : Slot :=
  let cleared : Slot :=
    { x.dropFrame with
      g := Vector.replicate 16 0, full := 1, badG := 0, cause := 0
      epc := cap.body.base + wrap (new.off.getD 0)
      kern := x.kern.map (fun r => { r with version := cap.version }) }
  new.live.foldl (fun y p =>
    match p.2, (old.regOf p.1).bind (liveG x) with
    | .g r, some v =>
      let z := (y.setReg r v.1).setFull r.toNat v.2.1
      if v.2.2 then { z with badG := z.badG ||| oneHot r.toNat } else z
    | _, _ => y) cleared

/-- Whether a register of the core's file lies in the window of a slot. -/
def Slot.inWindow (x : Slot) (n : Nat) : Bool := decide (4 * x.vbase ≤ n) && decide (n < 4 * (x.vbase + x.vsize))

/-- R318: the vector file of a core with the window of a remapped slot: live registers moved, all others zero. -/
def remapLanes (vf : List (Nat × Lane)) (x : Slot) (old new : AnchorEnt) : List (Nat × Lane) :=
  let kept := vf.filter (fun p => !x.inWindow (p.1 / 32))
  new.live.foldl (fun f p =>
    match p.2, (old.regOf p.1).bind (liveV vf x) with
    | .v r, some l => if x.hasV r then (List.range 32).foldl (fun h j => Tab.set (0 : Lane) h (x.laneKey r.toNat j) (l.getD j 0)) f else f
    | _, _ => f) kept

/-- R298, R299: the registers of the file with an uncorrectable error after the remap: those that were written whole have none, one whose value was
moved goes with it. -/
def remapBadV (bad : List Nat) (x : Slot) (old new : AnchorEnt) : List Nat :=
  bad.filter (fun n => !x.inWindow n) ++ new.live.filterMap (fun p =>
    match p.2, old.regOf p.1 with
    | .v r, some (.v o) => if x.hasV r && x.hasV o && bad.contains (4 * x.vbase + o.toNat) then some (4 * x.vbase + r.toNat) else none
    | _, _ => none)

/-- R318: the entries of the old and the new map between which a saved slot moves; none where it is not at an anchor that the present
body has. -/
def anchorPair (cap : Capsule) (version : Nat) (num : Option Nat) : Option (AnchorEnt × AnchorEnt) :=
  match num with
  | none => none
  | some n =>
    match ((cap.oldMaps.find? (fun p => p.1 = version)).bind (fun p => p.2.find? (fun a => a.num = n))),
        cap.body.anchors.find? (fun a => a.num = n && a.off.isSome) with
    | some old, some new => some (old, new)
    | _, _ => none

/-- How a saved slot comes back: unchanged, moved between two map entries, or not yet, or never. -/
inductive Back where
  | same
  | moved (old new : AnchorEnt) (cap : Capsule)
  | later
  | never
  deriving DecidableEq, Repr

/-- R318. -/
def State.back (s : State) (v : Saved) (p : Nat × Slot) : Back :=
  match p.2.kern with
  | none => .same
  | some r =>
    match s.capsule? r.handle with
    | none => .never
    | some cap =>
      if cap.st ≠ .valid then .later
      else if cap.version = r.version then .same
      else
        match anchorPair cap r.version (Tab.get none v.anchors p.1) with
        | some (old, new) => .moved old new cap
        | none => .never

/-- R306: the state after a parked key is brought back, or an IDLE one found, with its slot number; none where KEY_SLOTS_FULL is
answered. The lowest EMPTY slot takes it; if there is none, the lowest IDLE one is parked first. -/
def State.findKey (s : State) (ctx : Nat) : Option (State × Nat) :=
  let at_ (f : KeySlot → Bool) : Option Nat := (List.range 128).find? (fun n => f (s.keySlot n))
  match at_ (fun k => k.st ≠ .empty && k.ctx = ctx) with
  | some n => some (s, n)
  | none =>
    match s.pkg.parked.find? (fun p => p.1 = ctx) with
    | none => none
    | some (_, key) =>
      let load (t : State) (n : Nat) : State × Nat :=
        ((t.modPkg (fun p => { p with parked := p.parked.filter (fun e => e.1 ≠ ctx) })).modKey n (fun _ => { key with st := .idle }), n)
      match at_ (fun k => k.st = .empty) with
      | some n => some (load s n)
      | none =>
        match at_ (fun k => k.st = .idle) with
        | some n =>
          let old := s.keySlot n
          some (load (s.modPkg (fun p => { p with parked := Tab.put p.parked old.ctx old })) n)
        | none => none

/-- R293, R318: one saved slot comes back to its place: READY, or STOPPED with a new fault notice where its saved code is not zero. Its missed stores
go on with it (R230). Its charge counts from here (DESIGN CHOICE, log entry 84). -/
def State.restoreSlot (s : State) (v : Saved) (p : Nat × Slot) : State :=
  let c := p.1 / 16
  let k := p.1 % 16
  let old := s.slot c k
  let b := s.back v p
  let x := match b with
    | .moved o n cap => remapSlot p.2 o n cap
    | _ => p.2
  let t := match b with
    | .moved o n _ => s.modCore c (fun y =>
        { y with vf := remapLanes y.vf p.2 o n, badV := remapBadV y.badV p.2 o n, svDone := y.svDone.filter (fun q => !p.2.inWindow q.1) })
    | _ => s
  let y : Slot := { x with claims := old.claims + 1, claimedAt := s.now, out := old.out, buf := [] }
  let t := t.moveMisses c k p.2.claims y.claims
  if bits y.cause 0 8 ≠ 0 then (t.setSlot c k y).postFault c k else t.setSlot c k y.resume

/-- R318: the cores of a save take their state again, local memory with it; what belongs to the core and not to the context stays. -/
def State.restoreCore (s : State) (c : Nat) (o : Core) (owner : Word) : State :=
  (s.scrubCore c owner).modCore c (fun x =>
    { x with vmap := o.vmap, poolBase := o.poolBase, poolSize := o.poolSize, latch := o.latch, chq := o.chq, barGen := o.barGen
             barArr := o.barArr, vf := o.vf, badV := o.badV, svDone := o.svDone, win := o.win, winPtr := o.winPtr, winErr := o.winErr
             winFlags := o.winFlags, winTenant := o.winTenant })

/-- R318: a whole context comes back. -/
def State.restoreCtx (s : State) (ctx : Nat) (v : Saved) (kslot : Option Nat) : State :=
  let owner (o : Word) : Word := match kslot with | some n => setBits o 32 7 n | none => o
  let t := v.cores.foldl (fun u p => u.restoreCore p.1 p.2 (owner p.2.owner)) s
  let t := v.mem.foldl (fun u p => u.setByte p.1 p.2) t
  let t := v.empties.foldl (fun u p => u.setWordFull (8 * p.1) p.2) t
  let t := v.tags.foldl (fun u p => u.setTag (8 * p.1) p.2) t
  let t := v.bads.foldl (fun u p => u.setBadWord (8 * p.1) p.2) t
  let t := v.slots.foldl (fun u p => u.restoreSlot v p) t
  let t := match kslot with
    | some n => t.modKey n (fun k => { k with st := .active, l := false })
    | none => t
  t.modPkg (fun p => { p with ctxs := Tab.set Ctx.reset p.ctxs ctx { Tab.get Ctx.reset p.ctxs ctx with saved := none } })

/-- RESUME brings a context back to the cores it was saved from: whether they are free for it. -/
def State.placeFree (s : State) (v : Saved) : Bool :=
  v.cores.all (fun p => (s.core p.1).owner = 0 && (s.core p.1).health = .ok && (s.core p.1).pre = .off &&
    (s.slotsOn p.1).all (fun x => x.2.st = .free && x.2.buf.isEmpty))

/-- R312: the first check that a segment of a save fails, in order: STALE_IMAGE, TAG_FAIL. -/
def segCheck (key : KeySlot) (seg : List Byte) : Option Status :=
  let h := SegHdr.ofBytes (seg.take 32)
  if h.ctr ≠ key.c ∨ key.l = false then some .staleImage
  else if segTag key.key h ((seg.drop 32).take h.len) ≠ seg.drop (32 + h.len) then some .tagFail
  else none

/-- R312, R318: the segments of a protected context are opened as they come back from where they were kept: the first that is refused
decides. None is refused: the context is restored as it was saved (log entry 73). -/
def State.openSave (s : State) (ctx : Nat) (v : Saved) (n : Nat) : Status × State :=
  match (Config.imageBack s.free v.segs).findSome? (segCheck (s.keySlot n)) with
  | some st => (st, s.nextFree)
  | none => (.ok, s.nextFree.restoreCtx ctx v (some n))

/-- R318, R375: RESUME. -/
def execResumeCtx (q : Nat) (s : State) : Out :=
  command q 0x05 s (fun c tenant t =>
    let ctx := c.arg 8 4
    match (Tab.get Ctx.reset t.pkg.ctxs ctx).saved with
    | none => t.finish q c .denied 0
    | some v =>
      let backs := v.slots.map (t.back v)
      let prot := v.cores.any (fun p => bit p.2.owner 39)
      if Config.ctxTenant ctx ≠ tenant then t.finish q c .denied 0
      else if backs.contains .later then t.stageCmd q c 1
      else if backs.contains .never then t.finish q c .notAtAnchor 0
      else if t.placeFree v = false then t.finish q c .noResources 0
      else if prot then
        match t.findKey ctx with
        | none => t.finish q c .keySlotsFull 0
        | some (u, n) => (u.openSave ctx v n).2.finish q c (u.openSave ctx v n).1 0
      else (t.restoreCtx ctx v none).finish q c .ok 0)

/-- R377: what waits at a link for a context is gone; a fire's buffer becomes free. -/
def State.dropWaiting (s : State) (ctx : Nat) : State :=
  let waiting := s.cores.flatMap (fun p => p.2.links.filter (fun a => a.ctx = ctx))
  let t : State := waiting.foldl (fun u a => u.freeFire a.task.fire) s
  { t with cores := Tab.mapAll Core.reset t.cores (fun _ x => { x with links := x.links.filter (fun a => a.ctx ≠ ctx) }) }

/-- R303, R306: a context that is not on cores any more ends: its fire buffers become free (R266), its key slot EMPTY, and what waited for
it, and its missed stores, are gone. -/
def State.forgetCtx (s : State) (ctx : Nat) : State :=
  let v := (Tab.get Ctx.reset s.pkg.ctxs ctx).saved
  let t : State := match v with
    | some x => x.slots.foldl (fun u p => (u.freeFire p.2.task.fire).modCore (p.1 / 16) (fun y =>
        { y with misses := y.misses.filter (fun m => !(m.slot = p.1 % 16 && m.claim = p.2.claims)) })) s
    | none => s
  (t.dropWaiting ctx).modPkg (fun p =>
    { p with ctxs := Tab.set Ctx.reset p.ctxs ctx Ctx.reset
             keys := Tab.mapAll KeySlot.reset p.keys (fun _ k => if k.ctx = ctx && k.st ≠ .empty then KeySlot.reset else k)
             parked := p.parked.filter (fun e => e.1 ≠ ctx)
             areas := p.areas.filter (fun a => a.ctx ≠ ctx) })

/-- R306, R375: END discards a saved context. -/
def execEndCtx (q : Nat) (s : State) : Out :=
  command q 0x0A s (fun c tenant t =>
    let ctx := c.arg 8 4
    if (Tab.get Ctx.reset t.pkg.ctxs ctx).saved.isNone ∨ Config.ctxTenant ctx ≠ tenant then t.finish q c .denied 0
    else (t.forgetCtx ctx).finish q c .ok 0)

end Sys2Proof.Machine
end

