-- ==== Sys2Proof/Machine/Host.lean ====
section
/-!
DEFINITION. Hosts (R371 to R378): rings and completions, the TDISP states of an interface, the reset of a logical device, and trapped
configuration writes.
-/

namespace Sys2Proof.Machine

open Sys2Proof

/-! ## What a submission entry may hold (R374, R375) -/

/-- Table 26.5: the argument bytes that a command names, as (first, count); none for an unknown code (R324). -/
def argRanges (code : Nat) : Option (List (Nat × Nat)) :=
  match code with
  | 1 => some [(8, 12)]
  | 2 => some [(8, 7), (16, 16)]
  | 3 => some [(8, 7), (16, 28)]
  | 4 => some [(8, 5), (16, 4)]
  | 5 => some [(8, 4)]
  | 6 => some [(8, 4)]
  | 7 => some [(8, 12)]
  | 8 => some [(8, 12), (24, 12)]
  | 9 => some [(8, 4)]
  | 10 => some [(8, 4)]
  | 11 => some [(8, 4)]
  | 12 => some [(8, 12), (24, 12)]
  | 13 => some [(8, 5), (14, 18)]
  | _ => none

/-- R374, R375: an entry has a known code, zero bytes 1 to 3, and zero wherever its command names no byte. -/
def entryOk (bytes : List Byte) : Bool :=
  match argRanges (leAt bytes 0 1) with
  | none => false
  | some l =>
    leAt bytes 1 3 = 0 &&
    (List.range' 8 56).all (fun i => bytes.getD i 0 = 0 || l.any (fun r => decide (r.1 ≤ i) && decide (i < r.1 + r.2)))

/-- R371, R391: the logical devices that the module presents: all sixteen behind a switch, one for each of its two ports without, and LD0 in ROM
recovery. -/
def State.presented (s : State) (ld : Nat) : Bool :=
  if s.pkg.boot = .recovery then decide (ld = 0) else if s.pkg.switched then decide (ld < 16) else decide (ld < 2)

/-! ## Rings (R374) -/

/-- Whether the completion ring has no room. -/
def QIf.full (x : QIf) : Bool := (x.ctail + 1) % 2 ^ x.s = x.cqhead
/-- R374: an interface whose due completion finds the ring full fetches nothing; nor does one that stops (R376), or one at whose head a
LAUNCH waits (R159). -/
def QIf.stalled (x : QIf) : Bool := (!x.due.isEmpty && x.full) || x.stopping || x.atHead

/-- R374: the entry at head is fetched; `bad`: under a tail beyond the ring. A LAUNCH stays in the ring until its record is accepted
(R159). -/
def State.fetchEntry (s : State) (q : Nat) (bad : Bool) : State :=
  let x := s.qif q
  let bytes := s.hostRead q (x.sqbase + 64 * x.head) 64
  if bad || entryOk bytes = false then
    (s.modQif q (fun y => { y with head := (y.head + 1) % 2 ^ y.s, tail := if y.head = y.tail then (y.head + 1) % 2 ^ y.s else y.tail,
                                   badTail := false })).complete q (leAt bytes 4 4) Status.badCommand.num 0
  else
    (s.modQif q (fun y =>
      if leAt bytes 0 1 = 3 then { y with cmds := y.cmds ++ [⟨bytes, 0⟩], atHead := true }
      else { y with cmds := y.cmds ++ [⟨bytes, 0⟩], head := (y.head + 1) % 2 ^ y.s })).modPkg (fun p =>
      { p with accepted := p.accepted || !(leAt bytes 0 1 = 8 || leAt bytes 0 1 = 11) })

/-- R374: entries are fetched from head up to the tail; at most n. A tail beyond the ring is answered at the entry at head. -/
def State.fetchRing (q : Nat) : Nat → State → State
  | 0, s => s
  | n + 1, s =>
    let x := s.qif q
    if x.tstate ≠ .run || x.stalled || s.presented x.ld = false then s
    else if x.badTail then State.fetchRing q n (s.fetchEntry q true)
    else if x.head = x.tail then s
    else State.fetchRing q n (s.fetchEntry q false)

/-- R390, R391: whether an interface takes notifies: after bring-up, and interface 0 in ROM recovery. -/
def State.listening (s : State) (q : Nat) : Bool :=
  decide (q < 4096) && (s.pkg.boot = .running || (s.pkg.boot = .recovery && q = 0))

/-- R332, R374: a notify. Outside RUN it is discarded (R376). It sets the notice bits of the service core on which the firmware serves the
interface (log entry 70). A tail beyond the ring completes the entry at head with BAD_COMMAND, once the interface fetches. -/
def execNotify (q tail : Nat) (s : State) : Out :=
  let x := s.qif q
  if s.listening q = false || s.presented x.ld = false || x.tstate ≠ .run || x.stopping then .next s
  else
    let t := s.modQif q (fun y => if 2 ^ y.s ≤ tail then { y with badTail := true } else { y with tail := tail })
    .next ((State.fetchRing q (2 ^ x.s + 1) t).notify (serviceCore (Config.notifyTile q % 96)))

/-- R374: a host moves cqhead; a value beyond the completion tail is ignored. Fetching goes on if it had stopped. -/
def execCqheadWrite (q v : Nat) (s : State) : Out :=
  let x := s.qif q
  let n := 2 ^ x.s
  if s.listening q && s.presented x.ld && decide (v < n) && decide ((v + n - x.cqhead) % n ≤ (x.ctail + n - x.cqhead) % n) then
    .next (State.fetchRing q (n + 1) (s.modQif q (fun y => { y with cqhead := v })))
  else .next s

/-- The 16 bytes of a completion entry. -/
def completionBytes (c : Completion) (phase : Bool) : List Byte :=
  leBytes 4 c.tag.toNat ++ leBytes 1 c.status ++ leBytes 1 (if phase then 1 else 0) ++ leBytes 2 0 ++ leBytes 8 c.result.toNat

/-- R374: the completion that became due first is written once there is room. -/
def execCompletionWrite (q : Nat) (s : State) : Out :=
  let x := s.qif q
  match x.due with
  | [] => .next s
  | c :: rest =>
    if x.full || (x.tstate ≠ .run && x.tstate ≠ .locked && s.pkg.boot ≠ .recovery) then .next s
    else
      let t := s.hostWrite q (x.cqbase + 16 * x.ctail) (completionBytes c x.phase)
      let wrapped := (x.ctail + 1) % 2 ^ x.s = 0
      let t := t.modQif q (fun y =>
        { y with due := rest, ctail := (y.ctail + 1) % 2 ^ y.s, phase := if wrapped then !y.phase else y.phase })
      .next (State.fetchRing q (2 ^ x.s + 1) t)

/-! ## TDISP states (R376) -/

/-- R376: CONFIG_UNLOCKED to CONFIG_LOCKED; the indices become 0. -/
def State.lockInterface (s : State) (q : Nat) : State :=
  if (s.qif q).tstate = .unlocked ∧ q < 4096 then
    s.modQif q (fun x =>
      { x with
        tstate := .locked, head := 0, tail := 0, cqhead := 0, ctail := 0, phase := true, cmds := [], due := []
        atHead := false, badTail := false })
  else s
/-- R376: CONFIG_LOCKED to RUN. -/
def State.startInterface (s : State) (q : Nat) : State :=
  if (s.qif q).tstate = .locked then s.modQif q (fun x => { x with tstate := .run }) else s
/-- Whether every command that an interface has fetched is complete, its completion written or dropped. -/
def State.drained (s : State) (q : Nat) : Bool :=
  let x := s.qif q
  x.cmds.isEmpty && (x.due.isEmpty || x.tstate = .error) && !(s.pkg.recs.any (fun f => f.host.any (fun h => h.1 = q)))
/-- R376: to CONFIG_UNLOCKED, after fetched commands complete. -/
def State.stopInterface (s : State) (q : Nat) : State :=
  if (s.qif q).tstate = .unlocked then s
  else if s.drained q then s.modQif q (fun x => { x with tstate := .unlocked, stopping := false, due := [] })
  else s.modQif q (fun x => { x with stopping := true })

/-- R376, R379, R382, R391: whether the module takes TDISP requests: the feature is there, and it is not in ROM recovery. -/
def State.tdispOn (s : State) : Bool := s.pkg.boot = .running && s.hasFeature 4

/-- Table 26.2: a word of an entry as the hypervisor writes it while the interface is unlocked; state and indices are not its to
write. There are three words. -/
def QIf.setWord (x : QIf) (word : Nat) (v : Word) : QIf :=
  match word with
  | 0 => { x with sqbase := bits v 12 52 * 4096, s := Nat.min 12 (Nat.max 4 (bits v 8 4)), ld := bits v 4 4 }
  | 1 => { x with cqbase := bits v 12 52 * 4096, tenant := BitVec.ofNat 8 (bits v 8 4) }
  | 2 => { x with pasid := bits v 24 20 }
  | _ => x

/-- R373, R376: a write to a field of an interface entry: in CONFIG_UNLOCKED it takes effect; in CONFIG_LOCKED and RUN the field is frozen,
and the interface moves to ERROR. Completions that are due are dropped there. In ROM recovery nothing is locked (R391): there it takes effect in RUN too, on
interface 0 of LD0 (DEDUCED, log entry 88). -/
def execFrozenFieldWrite (q word : Nat) (v : Word) (s : State) : Out :=
  if s.listening q = false || 2 < word then .next s
  else if s.pkg.boot = .recovery then .next (s.modQif q (fun x => { x.setWord word v with ld := 0 }))
  else
    match (s.qif q).tstate with
    | .unlocked => .next (s.modQif q (fun x => x.setWord word v))
    | .locked => .next (s.modQif q (fun x => { x with tstate := .error, due := [] }))
    | .run => .next (s.modQif q (fun x => { x with tstate := .error, due := [] }))
    | .error => .next s

/-! ## Logical devices (R371, R372, R377, R378) -/

/-- R372: a trapped configuration write of a host, as the hypervisor emulates it. -/
def execHostConfigurationWrite (ld reg : Nat) (v : BitVec 32) (s : State) : Out :=
  if s.pkg.boot ≠ .running || s.presented ld = false then .next s
  else
    .next (s.modPkg (fun p =>
      { p with lds := Tab.set LDev.reset p.lds ld (
        let x := Tab.get LDev.reset p.lds ld
        { x with config := Tab.set 0 x.config reg v, tscope := (Config.emulate ld reg v).getD x.tscope }) }))

/-- R303, R306, R377: a quiescent context ends: its slots become FREE with no DONE record, charged as any that does (DESIGN CHOICE, log entry 84), what waits for it at links is gone, and its cores
belong to no context. -/
def State.endCtx (s : State) (ctx : Nat) (g : List Nat) : State :=
  let t := (s.slots.filter (fun p => g.contains (p.1 / 16) && p.2.st != .free)).foldl
    (fun u p => u.freeSlot (p.1 / 16) (p.1 % 16) false true) (s.dropWaiting ctx)
  let t := t.mapSlots (fun c _ x => if g.contains c then { x with kern := none, spad := none } else x)
  let t := g.foldl (fun u c =>
    ((u.returnLaunches c).scrubCore c 0).modCore c (fun x =>
      { x with vmap := 0, pre := .off, preGroup := [], preExpired := false, quiesced := false })) t
  t.forgetCtx ctx

/-- R308, R377: the contexts that are to end and are quiescent end. The tick of each cycle does so. -/
def State.endContexts (s : State) : State :=
  (s.pkg.ctxs.filter (fun p => p.2.ending)).foldl (fun t p =>
    let g := t.coresOf p.1
    if t.quiescent g then t.endCtx p.1 g else t) s

/-- R377, step 4: a context is to end: a saved one ends at once; one on cores is pre-empted first. -/
def State.killCtx (s : State) (ctx : Nat) : State :=
  let g := s.coresOf ctx
  if g = [] then s.forgetCtx ctx
  else
    (s.preemptGroup g .immediate).modPkg (fun p =>
        { p with ctxs := Tab.set Ctx.reset p.ctxs ctx { Tab.get Ctx.reset p.ctxs ctx with ending := true } })

/-- The contexts of some tenants: those on cores, those with an entry of their own, and those that only a key slot or a parked key still names (R306). -/
def State.ctxsOf (s : State) (tenants : List (BitVec 8)) : List Nat :=
  (s.cores.map (fun p => bits p.2.owner 0 32) ++ s.pkg.ctxs.map (·.1) ++ (s.pkg.keys.filter (fun p => p.2.st ≠ .empty)).map (fun p => p.2.ctx) ++
    s.pkg.parked.map (·.1)).eraseDups.filter (fun n => n ≠ 0 && tenants.contains (Config.ctxTenant n))

/-- R377, step 2: a system call of a tenant of the device returns LD_RESET in g1. -/
def State.abandonCalls (s : State) (tenants : List (BitVec 8)) : State :=
  s.slots.foldl (fun t p =>
    match p.2.st, p.2.pend with
    | .parked, .sysc _ _ =>
      if tenants.contains p.2.tenant then (t.modSlot (p.1 / 16) (p.1 % 16) (·.setReg 1 4)).goOn (p.1 / 16) (p.1 % 16) else t
    | _, _ => t) s

/-- R377, step 5: the task records of tenants are removed, without LATE records; those in the reply to a steal request included. -/
def State.dropTasks (s : State) (tenants : List (BitVec 8)) : State :=
  let gone (r : TaskRec) : Bool := tenants.contains r.tenant
  let all := s.dies.flatMap (fun p => p.2.recs ++ (match p.2.steal with | .reply l => l | _ => [])) ++ s.pkg.recs.map (·.task)
  let t : State := (all.filter gone).foldl (fun u r => u.freeFire r.fire) s
  let t : State := { t with dies := Tab.mapAll Die.reset t.dies (fun _ d =>
    { d with recs := d.recs.filter (fun r => !gone r)
             steal := match d.steal with | .reply l => .reply (l.filter (fun r => !gone r)) | x => x }) }
  t.modPkg (fun p => { p with recs := p.recs.filter (fun f => !gone f.task) })

/-- R377: a function-level reset of a logical device, in the order of the rule. An UPDATE that has begun ends as every command does, and leaves
the store as far as it has come (DESIGN CHOICE, log entry 83). -/
def execLdFunctionLevelReset (ld : Nat) (s : State) : Out :=
  if s.pkg.boot ≠ .running || s.presented ld = false then .next s
  else
    let tenants := (Tab.get LDev.reset s.pkg.lds ld).tenants
    let t := s.modPkg (fun p =>
      { p with
        qifs := Tab.mapAll QIf.reset p.qifs (fun _ x =>
          if x.ld = ld then
            { x with tstate := .unlocked, stopping := false, atHead := false, badTail := false, due := [], cmds := [] }
          else x)
        updating := p.updating && !(p.qifs.any (fun e => e.2.ld = ld && e.2.cmds.any (fun c => c.code = 7 && decide (0 < c.stage))))
        recs := p.recs.map (fun f =>
          { f with host := f.host.filter (fun h => (Tab.get QIf.reset p.qifs h.1).ld ≠ ld) }) })
    let t := (t.abandonCalls tenants).modPkg (fun p =>
      { p with lds := Tab.set LDev.reset p.lds ld { Tab.get LDev.reset p.lds ld with files := 0 } })
    let t := (t.ctxsOf tenants).foldl (fun u n => u.killCtx n) t
    .next (t.dropTasks tenants)

end Sys2Proof.Machine
end

