-- ==== Sys2Proof/Machine/Spdm.lean ====
section
/-!
DEFINITION. The security core as an SPDM responder (R379, R380), and the TDISP requests inside a secured session (R376). The request,
response and error codes are those of SPDM 1.3 (PRESUMED: the spec names the messages, not their codes).
-/

namespace Sys2Proof.Machine

open Sys2Proof

/-! ## Messages -/

/-- The requests that the responder supports (R379). -/
inductive SpdmReq where
  | getVersion | getCapabilities | negotiateAlgorithms | getDigests | getCertificate | challenge | getMeasurements | keyExchange
  | finish | keyUpdate | heartbeat | endSession | vendorDefined
  deriving DecidableEq, Repr

/-- The request code of SPDM 1.3. -/
def SpdmReq.code : SpdmReq → Nat
  | .getDigests => 0x81 | .getCertificate => 0x82 | .challenge => 0x83 | .getVersion => 0x84 | .getMeasurements => 0xE0
  | .getCapabilities => 0xE1 | .negotiateAlgorithms => 0xE3 | .keyExchange => 0xE4 | .finish => 0xE5 | .heartbeat => 0xE8
  | .keyUpdate => 0xE9 | .endSession => 0xEC | .vendorDefined => 0xFE

/-- Every supported request. -/
def SpdmReq.all : List SpdmReq :=
  [.getVersion, .getCapabilities, .negotiateAlgorithms, .getDigests, .getCertificate, .challenge, .getMeasurements, .keyExchange,
   .finish, .keyUpdate, .heartbeat, .endSession, .vendorDefined]

/-- The request code of a message: its second byte. -/
def msgCode (m : List Byte) : Nat := leAt m 1 1
/-- The supported request that a message is. -/
def reqOf (m : List Byte) : Option SpdmReq := SpdmReq.all.find? (fun r => r.code = msgCode m)
/-- The response code of a request: the request code without its top bit. -/
def SpdmReq.answer (r : SpdmReq) : Nat := r.code - 0x80

/-- ERROR with InvalidRequest. -/
def errInvalid : Nat := 1
/-- ERROR with UnexpectedRequest. -/
def errUnexpected : Nat := 4
/-- ERROR with UnsupportedRequest. -/
def errUnsupported : Nat := 7

/-- The bytes of a response, as a transcript and a host buffer hold them. -/
def SpdmResp.bytes : SpdmResp → List Byte
  | .none_ => []
  | .ok code body => [0x13, BitVec.ofNat 8 code, 0, 0] ++ body
  | .error code => [0x13, 0x7F, BitVec.ofNat 8 code, 0]

/-! ## The order of requests (R379) -/

/-- Whether a request comes in the order that SPDM prescribes; `session` is 0 outside a session, 1 while one opens, 2 within one. -/
def inOrder (r : SpdmReq) (ph : SpdmPhase) (session : Nat) : Bool :=
  match r with
  | .getVersion => true
  | .getCapabilities => ph = .version
  | .negotiateAlgorithms => ph = .capabilities
  | .getDigests => ph = .negotiated
  | .getCertificate => ph = .negotiated
  | .challenge => ph = .negotiated
  | .getMeasurements => ph = .negotiated
  | .keyExchange => ph = .negotiated && session = 0
  | .finish => session = 1
  | .keyUpdate => session = 2
  | .heartbeat => session = 2
  | .endSession => session = 2
  | .vendorDefined => session = 2

/-- The phase after a request. -/
def SpdmReq.phase (r : SpdmReq) (ph : SpdmPhase) : SpdmPhase :=
  match r with
  | .getVersion => .version
  | .getCapabilities => .capabilities
  | .negotiateAlgorithms => .negotiated
  | _ => ph

/-- The session after a request. -/
def SpdmReq.session (r : SpdmReq) (n : Nat) : Nat :=
  match r with
  | .getVersion => 0
  | .keyExchange => 1
  | .finish => 2
  | .endSession => 0
  | _ => n

/-! ## Answers -/

/-- R380: the measurement registers 1 to 4, each as its index and 48 bytes. -/
def State.measurements (s : State) : List Byte :=
  [1, 2, 3, 4].flatMap (fun i => leBytes 1 i ++ leBytes 48 (Tab.get (0 : BitVec 384) s.pkg.measure i).toNat)

/-- R376: a TDISP request that a secured message carries acts on its interface. -/
def State.tdisp (s : State) (msg : List Byte) : State :=
  match Config.tdispRequest msg with
  | some (0, q) => s.lockInterface q
  | some (1, q) => s.startInterface q
  | some (2, q) => s.stopInterface q
  | _ => s

/-- R379: the algorithms that the responder offers, and nothing else. -/
def spdmAlgs : List SpdmAlg := [.sha384, .ecdsaP384, .ecdheP384, .aes256Gcm]

/-- R379: whether the responder follows a request that comes in order: a negotiation only where it can agree on all it offers, and a TDISP
request only where the module takes one (R391). -/
def State.follows (s : State) (r : SpdmReq) (msg : List Byte) : Bool :=
  Config.spdmAccepts r.code msg && (r ≠ .negotiateAlgorithms || spdmAlgs.all (Config.spdmOffers msg).contains) &&
  (r ≠ .vendorDefined || (Config.tdispRequest msg).isNone || s.tdispOn)

/-- R379: the algorithms of the connection after a request. -/
def SpdmReq.algs (r : SpdmReq) (l : List SpdmAlg) : List SpdmAlg :=
  match r with
  | .getVersion => []
  | .negotiateAlgorithms => spdmAlgs
  | _ => l

/-- R379: the response to a supported request and the state after it. A request out of order, or outside the session it needs, changes
neither transcript nor negotiated state; one in order that is not followed joins the transcript with its ERROR. -/
def State.respond (s : State) (r : SpdmReq) (msg : List Byte) : State × SpdmResp :=
  let p := s.pkg.spdm
  if inOrder r p.phase p.session = false then (s, .error errUnexpected)
  else
    let start := if r = .getVersion then [] else p.transcript
    if s.follows r msg = false then
      (s.modPkg (fun g => { g with spdm := { g.spdm with transcript := start ++ msg ++ (SpdmResp.error errInvalid).bytes } }), .error errInvalid)
    else
      let body := (if r = .getMeasurements then s.measurements else []) ++ Config.spdmBody r.code start msg
      let resp : SpdmResp := .ok r.answer body
      let t := s.modPkg (fun g =>
        { g with spdm := { g.spdm with phase := r.phase p.phase, session := r.session p.session, transcript := start ++ msg ++ resp.bytes
                                       algs := r.algs p.algs
                                       keyUpdates := if r = .getVersion then 0 else if r = .keyUpdate then p.keyUpdates + 1 else p.keyUpdates } })
      (if r = .vendorDefined then t.tdisp msg else t, resp)

/-- R379: the response to any request. One that is not supported gets ERROR with UnsupportedRequest; it and its answer join the
transcript. -/
def State.spdm (s : State) (msg : List Byte) : State × SpdmResp :=
  match reqOf msg with
  | some r => s.respond r msg
  | none =>
    (s.modPkg (fun g => { g with spdm := { g.spdm with transcript := g.spdm.transcript ++ msg ++ (SpdmResp.error errUnsupported).bytes } }),
     .error errUnsupported)

/-- R376, R379: a TDISP request in the open secured session acts on its interface, and it and its response join the transcript, as every request
does; outside one it is refused with ERROR and changes no interface. The code of ERROR is that of UnexpectedRequest. The bytes of the message
are free ones. -/
def State.tdispRequest (s : State) (kind q : Nat) (act : State → State) : State :=
  if s.tdispOn = false then s
  else if s.pkg.spdm.session = 2 then
    let old := s.pkg.spdm.transcript
    let msg := Config.tdispMessage s.free kind q
    let resp : SpdmResp := .ok SpdmReq.vendorDefined.answer (Config.spdmBody SpdmReq.vendorDefined.code old msg)
    act ((s.nextFree).modPkg (fun p => { p with spdm := { p.spdm with transcript := old ++ msg ++ resp.bytes, last := resp } }))
  else s.modPkg (fun p => { p with spdm := { p.spdm with last := .error errUnexpected } })

/-- R376. -/
def execLockInterfaceRequest (q : Nat) (s : State) : Out := .next (s.tdispRequest 0 q (fun t => t.lockInterface q))
/-- R376. -/
def execStartInterfaceRequest (q : Nat) (s : State) : Out := .next (s.tdispRequest 1 q (fun t => t.startInterface q))
/-- R376. An interface that has been asked to stop goes on stopping without a further request. -/
def execStopInterfaceRequest (q : Nat) (s : State) : Out :=
  .next (if s.pkg.boot = .running ∧ (s.qif q).stopping then s.stopInterface q else s.tdispRequest 2 q (fun t => t.stopInterface q))

/-- R379, R390: whether the security core answers: from the second step of bring-up on. -/
def State.responds (s : State) : Bool :=
  match s.pkg.boot with
  | .running => true
  | .recovery => true
  | _ => false

/-- R371, R379: a request of kind `r` (none: one that is not supported) reaches the responder on a channel: port 0 or 1. -/
def spdmRequest (r : Option SpdmReq) (chan : Nat) (msg : List Byte) (s : State) : Out :=
  if s.responds = false || 1 < chan || decide (reqOf msg ≠ r) then .next s
  else
    let a := s.spdm msg
    .next (a.1.modPkg (fun p => { p with spdm := { p.spdm with last := a.2 } }))

/-- R379. -/
def execGetVersion (chan : Nat) (msg : List Byte) (s : State) : Out := spdmRequest (some .getVersion) chan msg s
/-- R379. -/
def execGetCapabilities (chan : Nat) (msg : List Byte) (s : State) : Out := spdmRequest (some .getCapabilities) chan msg s
/-- R379. -/
def execNegotiateAlgorithms (chan : Nat) (msg : List Byte) (s : State) : Out := spdmRequest (some .negotiateAlgorithms) chan msg s
/-- R379. -/
def execGetDigests (chan : Nat) (msg : List Byte) (s : State) : Out := spdmRequest (some .getDigests) chan msg s
/-- R379. -/
def execGetCertificate (chan : Nat) (msg : List Byte) (s : State) : Out := spdmRequest (some .getCertificate) chan msg s
/-- R379. -/
def execChallengeReq (chan : Nat) (msg : List Byte) (s : State) : Out := spdmRequest (some .challenge) chan msg s
/-- R379, R380. -/
def execGetMeasurements (chan : Nat) (msg : List Byte) (s : State) : Out := spdmRequest (some .getMeasurements) chan msg s
/-- R379. -/
def execKeyExchange (chan : Nat) (msg : List Byte) (s : State) : Out := spdmRequest (some .keyExchange) chan msg s
/-- R379. -/
def execFinishReq (chan : Nat) (msg : List Byte) (s : State) : Out := spdmRequest (some .finish) chan msg s
/-- R379. -/
def execKeyUpdate (chan : Nat) (msg : List Byte) (s : State) : Out := spdmRequest (some .keyUpdate) chan msg s
/-- R379. -/
def execHeartbeatReq (chan : Nat) (msg : List Byte) (s : State) : Out := spdmRequest (some .heartbeat) chan msg s
/-- R379. -/
def execEndSession (chan : Nat) (msg : List Byte) (s : State) : Out := spdmRequest (some .endSession) chan msg s
/-- R376, R379. -/
def execVendorDefinedRequest (chan : Nat) (msg : List Byte) (s : State) : Out := spdmRequest (some .vendorDefined) chan msg s
/-- R379: PSK_EXCHANGE and every other request that is not listed. -/
def execUnsupportedRequest (chan : Nat) (msg : List Byte) (s : State) : Out := spdmRequest none chan msg s

end Sys2Proof.Machine
end

