-- ==== Sys2Proof/Machine/Power.lean ====
section
/-!
DEFINITION. Power, bring-up and recovery (R388 to R392), measurements (R380, R381), pods (R354 to R356), and the die clocks' time
paths (R356).
-/

namespace Sys2Proof.Machine

open Sys2Proof

/-! ## Bring-up (R380, R381, R390) -/

/-- R381: whether a second-stage image is accepted. -/
def imageOk (l : List Byte) : Bool := Config.rsaVerifies l && Config.slhVerifies l

/-- R380: a measurement register extended with a value. -/
def extend (old : BitVec 384) (v : List Byte) : BitVec 384 := Config.sha384 (leBytes 48 old.toNat ++ v)

/-- What is not the package's own memory: host memory and the memory of other packages. -/
def outsideKey (k : Nat) : Bool := decide (2 ^ 51 ≤ k) && decide (k < 0xF000000000000)

/-- The machine when power has gone or a reset begins: every volatile part at its reset value; firmware store, installed capsules (VOID:
no body outlives a reset), fuses, cores that have failed for good and what is outside the package stay. Free values are not used twice. -/
def State.cold (s : State) (b : Boot) : State :=
  { State.reset with
    free := s.free
    mem := s.mem.filter (fun p => outsideKey p.1)
    pkg := { Pkg.reset with
             boot := b, fw := s.pkg.fw, broken := s.pkg.broken
             caps := s.pkg.caps.map (fun p => (p.1, if p.2.st = .deleted then p.2 else { p.2 with st := .void })) } }

/-- R371, R372: the logical devices that the module presents, as the hypervisor sets them up; each tenant in the lowest one that names it. -/
def bootDevices : List (Nat × LDev) :=
  (List.range (if Config.switched then 16 else 2)).filterMap (fun n =>
    let l := (Config.ldTenants n).eraseDups.filter (fun x => (List.range n).all (fun m => !(Config.ldTenants m).contains x))
    if l = [] then none else some (n, { LDev.reset with tenants := l }))

/-- R371: the host to which each logical device is bound: without a switch each port has its own. -/
def bootHosts : List (Nat × Nat) :=
  if Config.switched then (List.range 16).foldl (fun t n => Tab.set 0 t n (Config.ldHost n)) [] else [(1, 1)]

/-- R391, R392: ROM recovery: LD0 only, interface 0 in RUN, no lock. What other interfaces have fetched runs under this outcome, and their
completions are still written. -/
def State.recovery (s : State) : State :=
  let left (n : Nat) (x : QIf) : QIf :=
    if n = 0 then x
    else if x.due.isEmpty && x.cmds.isEmpty then QIf.reset
    else { x with tstate := .unlocked, stopping := false, badTail := false }
  s.modPkg (fun p =>
    let q := Tab.mapAll QIf.reset p.qifs left
    { p with boot := .recovery, lds := p.lds.filter (fun d => d.1 = 0)
             qifs := Tab.set QIf.reset q 0 { Tab.get QIf.reset q 0 with ld := 0, tstate := .run, stopping := false } })

/-- R380: registers 2 to 4 are extended with image, security configuration and the policy word of every logical device that is presented. -/
def State.measureBoot (s : State) (image : List Byte) : State :=
  let policy (d : LDev) : List Byte := leBytes 4 (if d.tscope then 1 else 0) ++ leBytes 4 d.fcnt.toNat
  s.modPkg (fun p =>
    { p with measure :=
        [(1, Tab.get 0 p.measure 1), (2, extend 0 image),
         (3, extend 0 (leBytes 8 128 ++ leBytes 8 64 ++ Config.fusedHashes)),
         (4, extend 0 ((List.range (if Config.switched then 16 else 2)).flatMap (fun n => policy (Tab.get LDev.reset bootDevices n))))].filter (fun e => e.2 ≠ 0) })

/-- R301, R302: a core that does not work at bring-up: its cluster's spare takes its place; with none left it is retired. -/
def State.spareOrRetire (s : State) (c : Nat) : State :=
  if (s.cluster (clusterOf c)).spareUsed then s.modCore c (fun x => { x with health := .retired })
  else s.modCluster (clusterOf c) (fun x => { x with spareUsed := true })

/-- R390, step 5: the cores that have failed for good fail their self-test again, and others may fail it now. -/
def State.selfTest (s : State) : State :=
  let bad := s.pkg.broken ++ (Config.selfTest s.free).filter isCompute
  bad.foldl State.spareOrRetire (s.nextFree.modPkg (fun p => { p with broken := bad }))

/-- R390: the steps in order. `failed` names a step that fails, 0 for none; step 2 fails by itself where no good image is in the store. -/
def State.bringUp (s : State) (failed : Nat) : State :=
  let t := s.cold .reset
  if failed = 1 then t.modPkg (fun p => { p with boot := .failed 1 })
  else
    let t := t.modPkg (fun p => { p with measure := Tab.set 0 [] 1 (extend 0 Config.maskRom) })
    match t.pkg.fw with
    | .good image =>
      if imageOk image = false ∨ failed = 2 then t.recovery
      else if failed = 3 then t.recovery
      else
        let t := t.measureBoot image
        if failed = 4 ∨ failed = 5 then t.recovery
        else if failed = 6 then t.selfTest.recovery
        else
          (t.selfTest).modPkg (fun p =>
            { p with boot := .running, lds := bootDevices, qifs := [], capList := Config.features.filter (fun n => n = 0 || decide (3 < n))
                     cxlBytes := Nat.min Config.cxlBytes (12288 * 10 ^ 9), switched := Config.switched, ldHosts := bootHosts })
    | _ => t.recovery

/-- R390: power-on or module reset. -/
def execPowerOn (failed : Nat) (s : State) : Out := .next (s.bringUp failed)

/-- R392: power is lost; a copy that was under way leaves a store that does not verify. -/
def execPowerLoss (s : State) : Out := .next (s.cold .off)

/-! ## Thermal states (R388, R389) -/

/-- R389: NORMAL to THROTTLE at 95 °C, or for power above 3,200 W over 1 ms. -/
def execThrottleEntry (tj : BitVec 8) (power : Bool) (s : State) : Out :=
  if s.pkg.boot ≠ .off ∧ s.pkg.thermal = .normal ∧ tj.toNat < 105 ∧ (95 ≤ tj.toNat ∨ power) then
    .next (s.modPkg (fun p => { p with thermal := .throttle, tj := tj, tcnt := p.tcnt + 1 }))
  else .next s

/-- R389: THROTTLE to NORMAL at 90 °C with power below 3,000 W. -/
def execThrottleExit (tj : BitVec 8) (low : Bool) (s : State) : Out :=
  if s.pkg.thermal = .throttle ∧ tj.toNat ≤ 90 ∧ low then .next (s.modPkg (fun p => { p with thermal := .normal, tj := tj })) else .next s

/-- R389: at 105 °C every core stops and power is removed, without saving state. -/
def execCriticalShutdown (tj : BitVec 8) (s : State) : Out :=
  if s.pkg.boot ≠ .off ∧ 105 ≤ tj.toNat then .next ((s.cold .off).modPkg (fun p => { p with thermal := .critical, tj := tj })) else .next s

/-! ## Pods and time (R354 to R356) -/

/-- R356: the package joins a pod, only in bring-up, before it accepts any command but QUERY and ATTEST and before any program runs; it adopts
the pod's time origin, from which its clocks are read at once, and the firmware writes 400 to every die's W_max (R357). -/
def execPodJoin (number origin : Nat) (members : List Nat) (s : State) : Out :=
  if s.pkg.boot = .running ∧ s.pkg.accepted = false ∧ s.pkg.podNo = none ∧ number < 256 ∧ s.slots.all (fun p => p.2.claims = 0) then
    let t := (List.range 8).foldl (fun t d => t.modDie d (fun x => { x with wmax := 400, clkE := 0, clkL := 0, goodE := 0 })) s
    .next (t.modPkg (fun p =>
      { p with podNo := some number, podMembers := (number :: members.filter (fun n => decide (n < 256))).eraseDups
               podOff := origin })).readClocks
  else .next s

/-- R355: packages join or leave the pod; ranges of Table 10.2 become populated or unpopulated. -/
def execPodChange (members : List Nat) (s : State) : Out :=
  match s.pkg.podNo with
  | none => .next s
  | some n =>
    .next (s.modPkg (fun p => { p with podMembers := (n :: members.filter (fun m => decide (m < 256))).eraseDups }))

/-- R356: a die runs in holdover. -/
def execHoldoverStart (die : Nat) (s : State) : Out :=
  .next (if die < 8 then s.modDie die (fun d => { d with holdover := true }) else s)
/-- R356: its time path has recovered, and its interval is back within the healthy width: since L never falls, not before true time has come
that close to it. -/
def execHoldoverEnd (die : Nat) (s : State) : Out :=
  .next (if die < 8 ∧ s.latest die ≤ s.trueTime + s.clockBound then s.modDie die (fun d => { d with holdover := false }) else s)

end Sys2Proof.Machine
end

