-- ==== Sys2Proof/Machine/Firmware.lean ====
section
/-!
DEFINITION. The firmware's commands on capsules as a whole, memory images, debugging, updates and attestation (R320 to R323, R375, R379,
R391, R392).
-/

namespace Sys2Proof.Machine

open Sys2Proof

/-! ## QUERY (R375) -/

/-- The state of a capsule as QUERY returns it. -/
def CapSt.code : CapSt → Nat
  | .valid => 0 | .void => 1 | .rebuilding => 2 | .deleted => 3

/-- R375: capsule state and body version, or the device generation. -/
def execQueryCmd (q : Nat) (s : State) : Out :=
  command q 0x0B s (fun c tenant t =>
    let h := c.arg 8 4
    if h = 0 then t.finish q c .ok (wrap (generationWord + (if t.pkg.boot = .recovery then 2 ^ 32 else 0)))
    else
      match t.capsuleOf h tenant with
      | none => t.finish q c .noCapsule 0
      | some cap => t.finish q c .ok (wrap (cap.version + cap.st.code * 2 ^ 32)))

/-! ## DELETE (R322) -/

/-- R322: whether anything refers to a capsule: a slot, a saved slot, one in the image of a protected context that a routine has saved, an undispatched record in a scheduler, on its
way to one or in the reply to a steal request, a launch, fire or other arrival at a link. -/
def State.capsuleInUse (s : State) (h : Nat) : Bool :=
  let slotUses (p : Nat × Slot) : Bool := p.2.st != .free && p.2.kern.any (fun r => r.handle = h)
  s.slots.any slotUses ||
  s.pkg.ctxs.any (fun p => p.2.saved.any (fun v => v.slots.any slotUses)) ||
  (s.pkg.keys ++ s.pkg.parked).any (fun p => p.2.l && p.2.kept.any slotUses) ||
  s.dies.any (fun p =>
    p.2.recs.any (fun r => r.handle = h) ||
    (match p.2.steal with
     | .reply l => l.any (fun r => r.handle = h)
     | _ => false)) ||
  s.pkg.recs.any (fun f => f.task.handle = h && f.task.fire.isNone) ||
  s.cores.any (fun p => p.2.links.any (fun a => a.kern.handle = h))

/-- R322: the tokens of a fire that was chosen and not delivered, read back from its buffer. One whose record holds an uncorrectable error is not
read (R298): no LATE can be sent for it (DESIGN CHOICE, log entry 67). -/
def State.firedTokens (s : State) (q : XQueue) (tag : FireTag) (n : Nat) : List Tok :=
  let size := fireBytes q.batch
  let key (i b : Nat) : Nat := areaAt q.firePa (q.dw 5).toNat (tag.buf * size + 16 * (q.batch + 1) + 32 * i + b)
  ((List.range n).filter (fun i => (List.range 32).all (fun b => !s.badWord (key i b)))).map (fun i =>
    ⟨(List.range 32).map (fun b => BitVec.ofNat 8 (s.memLoad q.ckey (key i b) 1).toNat), 0, 0⟩)

/-- R322: the queues that a capsule configured are disabled, and their tokens answered with LATE; so are its fires on their way, whose
buffers become free. -/
def State.deadQueues (s : State) (h : Nat) : State :=
  let t := (List.range 8).foldl (fun u d =>
    ((s.die d).xq.filter (fun p => p.2.handle = h && !p.2.cfg.isEmpty)).foldl (fun v p =>
      (v.sendLate p.2.toks).modXq d p.1 (fun x =>
        { x with cfg := x.cfg.set 0 (setBits (x.dw 0) 30 1 0), toks := [], onDie := 0, aged := false, promoted := false })) u) s
  let t := (s.pkg.recs.filter (fun f => f.task.handle = h)).foldl (fun u f =>
    match f.task.fire with
    | some tag => (u.sendLate (s.firedTokens (s.xq tag.die tag.q) tag (f.task.regs.getD 1 0).toNat)).freeFire (some tag)
    | none => u) t
  t.modPkg (fun p => { p with recs := p.recs.filter (fun f => f.task.handle ≠ h) })

/-- R322, R375: DELETE: the body's pages are released with the rest. -/
def execDeleteCapsule (q : Nat) (s : State) : Out :=
  command q 0x06 s (fun c tenant t =>
    let h := c.arg 8 4
    match t.capsuleOf h tenant with
    | none => t.finish q c .noCapsule 0
    | some cap =>
      if cap.st = .rebuilding || t.capsuleInUse h then t.finish q c .busyContexts 0
      else
        (((t.deadQueues h).dropBody cap.tenant cap.body).modCapsule h (fun x =>
          { x with st := .deleted, kernels := [], body := ⟨0, 0, [], [], []⟩, oldMaps := [], refs := [], image := [], upcall := none
                   object := [], parts := [], entryKernels := [] })).finish q c .ok 0)

/-! ## PLACE (R320) -/

/-- R320: bytes are written at an address of a tenant's translation; none where it cannot be reached. A replicated page is collapsed before
it is written (R199). -/
def State.placeAt (s : State) (tenant : BitVec 8) (va : Word) (l : List Byte) : Option State :=
  let found := (List.range l.length).map (fun i =>
    match region (2 ^ 13) (va + wrap i) with
    | .translated => (s.resolveVa 4 tenant (va + wrap i) true false true).loc?
    | _ => none)
  if found.all (fun r => r.any (fun x => plainTy x.ty)) then
    let locs := found.filterMap id
    let pages := ((locs.filter (·.rp)).map (fun x => x.key / 2 ^ 16)).eraseDups
    some ((locs.filter (fun x => x.ty = .sync)).foldl (fun t x => t.setWordFull x.key true)
      ((pages.foldl State.collapse s).writeRun 0 (fun i => (locs[i]?.map (·.key)).getD 0) l))
  else none

/-- R320: bytes are written to the local memory of a core of an unprotected context of a tenant; a retired core cannot be reached. -/
def State.placeLocal (s : State) (tenant : BitVec 8) (core off : Nat) (l : List Byte) : Option State :=
  let owner := (s.core core).owner
  let ctx := bits owner 0 32
  if 3071 < core || 2 ^ 18 < off + l.length || ctx = 0 || bit owner 39 || Config.ctxTenant ctx ≠ tenant ||
      (s.core core).health = .retired then none
  else
    some ((List.range l.length).foldl (fun t i => t.setWordFull (lmemKey core (off + i)) true) (s.agentWriteBytes 0 (lmemKey core off) l))

/-- R320, R375: PLACE. One to the local memory of a stopped core waits for its repair, as every access does (R300). -/
def execPlaceImage (q : Nat) (s : State) : Out :=
  command q 0x0D s (fun c tenant t =>
    let kind := c.arg 12 1
    let off := c.arg 24 4
    let len := c.arg 28 4
    match t.capsuleOf (c.arg 8 4) tenant with
    | none => t.finish q c .noCapsule 0
    | some cap =>
      let n := if len = 0 then cap.image.length - off else len
      if 1 < kind || off % 64 ≠ 0 || len % 64 ≠ 0 || cap.image.length < off + n || (kind = 0 && c.arg 14 2 ≠ 0) then
        t.finish q c .badCommand 0
      else
        let l := (cap.image.drop off).take n
        match (if kind = 0 then t.placeAt tenant (wrap (c.arg 16 8)) l else t.placeLocal tenant (c.arg 14 2) (c.arg 16 8) l) with
        | none => t.finish q c .denied 0
        | some u => if kind = 1 && (t.core (c.arg 14 2)).health = .stopped then t else u.finish q c .ok 0)

/-! ## DEBUG (R323) -/

/-- The slot that DEBUG names: live, or in the save of its context, with the vector file it stands in and its anchor. -/
def State.debugSlot (s : State) (ctx core slot : Nat) : Option (Slot × List (Nat × Lane) × Option Nat) :=
  match (Tab.get Ctx.reset s.pkg.ctxs ctx).saved with
  | some v =>
    (Tab.find? v.slots (16 * core + slot)).map (fun x =>
      (x, ((Tab.find? v.cores core).map (·.vf)).getD [], Tab.get none v.anchors (16 * core + slot)))
  | none =>
    let x := s.slot core slot
    if bits (s.core core).owner 0 32 = ctx ∧ x.st ≠ .free then some (x, (s.core core).vf, none) else none

/-- The map entry of the anchor at which a saved slot stands. -/
def State.debugAnchor (s : State) (x : Slot) (n : Option Nat) : Option AnchorEnt :=
  match n, x.kern with
  | some a, some r =>
    (match s.capsule? r.handle with
     | some cap =>
       if cap.version = r.version then cap.body.anchors.find? (fun e => e.num = a)
       else (cap.oldMaps.find? (fun p => p.1 = r.version)).bind (fun p => p.2.find? (fun e => e.num = a))
     | none => none)
  | _, _ => none

/-- The live values from a value number on, in the order of their numbers: 8 bytes for a g register, 128 for a v register. -/
def liveFrom (e : AnchorEnt) (first : Nat) : List (Nat × LiveReg) :=
  (e.live.filter (fun p => decide (first ≤ p.1))).mergeSort (fun a b => decide (a.1 ≤ b.1))

/-- The bytes of a live value. -/
def liveBytes (x : Slot) (vf : List (Nat × Lane)) (r : LiveReg) : List Byte :=
  match r with
  | .g n => leBytes 8 (x.reg n).toNat
  | .v n => (List.range 32).flatMap (fun j => leBytes 4 (Tab.get (0 : Lane) vf (x.laneKey n.toNat j)).toNat)

/-- The vector registers with an uncorrectable error of a core that DEBUG names: in the save of its context, or live. -/
def State.debugBad (s : State) (ctx core : Nat) : List Nat :=
  match (Tab.get Ctx.reset s.pkg.ctxs ctx).saved with
  | some v => ((Tab.find? v.cores core).map (·.badV)).getD []
  | none => (s.core core).badV

/-- R298: whether a register of a slot holds an uncorrectable error; `bad` are the core's vector registers that do. -/
def liveBad (x : Slot) (bad : List Nat) (r : LiveReg) : Bool :=
  match r with
  | .g n => x.badG.getLsbD n.toNat
  | .v n => bad.contains (4 * x.vbase + n.toNat)

/-- R299: the vector registers that still hold an error after live values have been written from n bytes: one written whole has none. -/
def badAfter (x : Slot) (bad : List Nat) (l : List (Nat × LiveReg)) (n : Nat) : List Nat :=
  (l.foldl (fun a p =>
    match p.2 with
    | .g _ => if a.2 + 8 ≤ n then (a.1, a.2 + 8) else (a.1, n)
    | .v r => if a.2 + 128 ≤ n then (a.1.filter (fun m => m ≠ 4 * x.vbase + r.toNat), a.2 + 128) else (a.1, n)) (bad, 0)).1

/-- Live values written from a list of bytes: the slot, the vector file, the bytes used. -/
def writeLive (x : Slot) (vf : List (Nat × Lane)) (l : List (Nat × LiveReg)) (bytes : List Byte) : Slot × List (Nat × Lane) × Nat :=
  l.foldl (fun a p =>
    match p.2 with
    | .g n => if a.2.2 + 8 ≤ bytes.length then (a.1.setReg n (wrap (leAt bytes a.2.2 8)), a.2.1, a.2.2 + 8) else (a.1, a.2.1, bytes.length)
    | .v n =>
      if a.2.2 + 128 ≤ bytes.length then
        (a.1, (List.range 32).foldl (fun f j => Tab.set (0 : Lane) f (x.laneKey n.toNat j) (BitVec.ofNat 32 (leAt bytes (a.2.2 + 4 * j) 4))) a.2.1,
         a.2.2 + 128)
      else (a.1, a.2.1, bytes.length)) (x, vf, 0)

/-- R323: the native registers of a slot as the model moves them: g0 to g15, then the vector registers of its window, lane by lane (log entry
72). -/
def nativeBytes (x : Slot) (vf : List (Nat × Lane)) : List Byte :=
  (List.range 16).flatMap (fun r => leBytes 8 (x.reg (BitVec.ofNat 4 r)).toNat) ++
  (List.range (128 * x.vsize)).flatMap (fun i => leBytes 4 (Tab.get (0 : Lane) vf (128 * x.vbase + i)).toNat)

/-- R323: bytes are moved to the host's buffer. -/
def State.debugOut (s : State) (q : Nat) (c : Cmd) (l : List Byte) : State :=
  let n := Nat.min l.length (c.arg 32 4)
  (s.hostWrite q (c.arg 24 8) (l.take n)).finish q c .ok (wrap n)

/-- R298, R323: registers of a core are moved to the host's buffer, unless one of them holds an uncorrectable error: DENIED, and the error is logged, as
a service core answers a call (DESIGN CHOICE, log entry 67). -/
def State.debugRegs (s : State) (q : Nat) (c : Cmd) (core : Nat) (bad : Bool) (l : List Byte) : State :=
  if bad then (s.logError (tileOf core)).finish q c .denied 0 else s.debugOut q c l

/-- R323: a breakpoint anchor of a context is set or cleared. -/
def State.setBreak (s : State) (ctx n : Nat) (on : Bool) : State :=
  s.modPkg (fun p =>
    let x := Tab.get Ctx.reset p.ctxs ctx
    let y : Ctx := { x with bkpts := if on then n :: x.bkpts.erase n else x.bkpts.erase n }
    { p with ctxs := Tab.set Ctx.reset p.ctxs ctx y })

/-- R323, R375: DEBUG. The Acoon form is that of the capsule which the named slot runs. -/
def execDebugCmd (q : Nat) (s : State) : Out :=
  command q 0x0C s (fun c tenant t =>
    let ctx := c.arg 8 4
    let op := c.arg 12 1
    let slot := c.arg 13 1
    let core := c.arg 14 2
    let num := c.arg 16 4
    let v := (Tab.get Ctx.reset t.pkg.ctxs ctx).saved
    let prot := (t.coresOf ctx).any (fun n => bit (t.core n).owner 39) || v.any (fun x => x.cores.any (fun p => bit p.2.owner 39))
    if ctx = 0 || Config.ctxTenant ctx ≠ tenant || prot then t.finish q c .denied 0
    else if 5 < op then t.finish q c .badCommand 0
    else if op = 4 || op = 5 then (t.setBreak ctx num (decide (op = 4))).finish q c .ok 0
    else if 15 < slot || 3071 < core then t.finish q c .denied 0
    else
      match t.debugSlot ctx core slot with
      | none => t.finish q c .denied 0
      | some (x, vf, a) =>
        let bad := t.debugBad ctx core
        match op with
        | 0 =>
          (match x.kern.bind (fun r => t.capsule? r.handle) with
           | some cap => t.debugOut q c (cap.parts.flatMap (·.form))
           | none => t.finish q c .denied 0)
        | 3 =>
          if x.st = .stopped then
            t.debugRegs q c core (x.badG ≠ 0 || (List.range (4 * x.vsize)).any (fun r => bad.contains (4 * x.vbase + r))) (nativeBytes x vf)
          else t.finish q c .denied 0
        | _ =>
          match v, t.debugAnchor x a with
          | some y, some e =>
            let l := liveFrom e num
            if op = 1 then t.debugRegs q c core (l.any (fun p => liveBad x bad p.2)) (l.flatMap (fun p => liveBytes x vf p.2))
            else
              let w := writeLive x vf l (t.hostRead q (c.arg 24 8) (c.arg 32 4))
              let still := badAfter x bad l (c.arg 32 4)
              let y2 : Saved :=
                { y with slots := y.slots.map (fun p => if p.1 = 16 * core + slot then (p.1, w.1) else p)
                         cores := y.cores.map (fun p => if p.1 = core then (p.1, { p.2 with vf := w.2.1, badV := still }) else p) }
              (t.modPkg (fun p =>
                { p with ctxs := Tab.set Ctx.reset p.ctxs ctx { Tab.get Ctx.reset p.ctxs ctx with saved := some y2 } })).finish q c .ok
                (wrap w.2.2)
          | _, _ => t.finish q c .denied 0)

/-! ## UPDATE (R321, R391, R392) -/

/-- R321: whether a context on the device has a slot that is not FREE and not saved. -/
def State.contextsRun (s : State) : Bool := s.slots.any (fun p => isCompute (p.1 / 16) && p.2.st != .free)

/-- R321: every installed capsule becomes VOID. -/
def State.voidAll (s : State) : State :=
  s.modPkg (fun p => { p with caps := p.caps.map (fun e => (e.1, if e.2.st = .deleted then e.2 else { e.2 with st := .void })) })

/-- R321, R391, R392: UPDATE: checked, copied into the store, verified there. In recovery the image is verified first, and the module then
resets, a step of which may fail again (R390). One that does not verify leaves the module in recovery, where the commands that waited on interface
0 run. -/
def execUpdateFw (q : Nat) (s : State) : Out :=
  command q 0x07 s (fun c _ t =>
    let image := t.hostRead q (c.arg 8 8) (c.arg 16 4)
    if t.pkg.boot = .recovery then
      (if c.stage = 0 then
        (if imageOk image then
          ((t.complete q c.tag Status.ok.num 0).modPkg (fun p => { p with fw := .good image })).stageCmd q c 1
         else t.finish q c .denied 0)
       else if (t.qif q).due.isEmpty then t.nextFree.bringUp (Config.freeNat t.free % 7)
       else t)
    else if c.stage = 0 then
      (if t.contextsRun then t.finish q c .runningContexts 0
       else (t.modPkg (fun p => { p with updating := true, fw := .partialCopy })).stageCmd q c 1)
    else if imageOk image then
      ((t.modPkg (fun p => { p with updating := false, fw := .good image })).voidAll).finish q c .ok 0
    else (((t.modPkg (fun p => { p with updating := false, fw := .bad })).voidAll).finish q c .denied 0).recovery)

/-! ## ATTEST (R379) -/

/-- R375, R379, R382: an SPDM request is carried to the security core, and its response written to the host's buffer; without the feature the
command is unknown. -/
def execAttestCmd (q : Nat) (s : State) : Out :=
  command q 0x08 s (fun c _ t =>
    if t.pkg.boot = .running && t.hasFeature 5 = false then t.finish q c .badCommand 0 else
    let msg := t.hostRead q (c.arg 8 8) (c.arg 16 4)
    let a := t.spdm msg
    let l := a.2.bytes
    let n := Nat.min l.length (c.arg 32 4)
    ((a.1.modPkg (fun p => { p with spdm := { p.spdm with last := a.2 } })).hostWrite q (c.arg 24 8) (l.take n)).finish q c .ok
      (wrap n))

end Sys2Proof.Machine
end

