-- ==== Sys2Proof/Machine/Repair.lean ====
section
/-!
DEFINITION. Soft errors (R298, R299), failures of a core, its repair and retirement (R300 to R302, R304), and moves of a home granule
(R351, R352).
-/

namespace Sys2Proof.Machine

open Sys2Proof

/-! ## Soft errors (R298, R299) -/

/-- The first tile of a die (R184). -/
def firstTile (d : Nat) : Nat := if d < 4 then 16 * d else 64 + 8 * (d - 4)

/-- The tile whose service core logs an error of a word of memory: that of the core whose local memory it is, else the first tile of
the die where it is homed. -/
def State.errorTile (s : State) (key : Nat) : Nat :=
  if 2 ^ 56 ≤ key then tileOf ((key - 2 ^ 56) / 2 ^ 18) else firstTile (s.homeDie key)

/-- R298: an error that is corrected is counted; one that is not stays until the word or register is written whole (R299). An entry of
a TLB that holds one is not used again. -/
def execSoftError (site : SoftSite) (single : Bool) (s : State) : Out :=
  match site with
  | .memWord key => .next (if single then s.logError (s.errorTile key) else s.setBadWord key true)
  | .gReg core slot r =>
    if single then .next (s.logError (tileOf core))
    else if r = 0 ∨ 16 ≤ r ∨ slotsOf core ≤ slot then .next s
    else .next (s.modSlot core slot (fun x => { x with badG := x.badG ||| oneHot r }))
  | .vReg core slot r =>
    if single then .next (s.logError (tileOf core))
    else if 4 * (s.slot core slot).vsize ≤ r then .next s
    else .next (s.modCore core (fun x =>
      { x with badV := (4 * (s.slot core slot).vbase + r) :: x.badV.filter (fun n => n ≠ 4 * (s.slot core slot).vbase + r),
               svDone := Tab.set 0 x.svDone (4 * (s.slot core slot).vbase + r) 0 }))
  | .tlb core =>
    if single then .next (s.logError (tileOf core)) else .next (s.modCore core (fun x => { x with itlb := [], dtlb := [] }))
  | .tlb2 cluster =>
    .next (if single then s.logError (tileOf (8 * cluster)) else s.modCluster cluster (fun x => { x with tlb2 := [] }))

/-! ## Core failures (R300 to R302) -/

/-- R300: the whole core stops at a turn boundary. -/
def execCoreCheckFailure (core : Nat) (s : State) : Out :=
  if isCompute core ∧ (s.core core).health = .ok then .next (s.modCore core (fun x => { x with health := .stopped })) else .next s

/-- R302: the notice of a slot of a retired core that is not FREE carries code 31. -/
def State.retireNotice (s : State) (c k : Nat) : State :=
  if (s.slot c k).st = .free then s
  else (s.modSlot c k (fun x => { x with cause := wrap 31, epc := x.pc })).postFault c k

/-- R302: one slot of a retired core becomes FREE with no DONE record. It is charged as any slot that becomes FREE (DESIGN CHOICE, log entry
84). Its buffered stores drain (R89), but for those to the core's own memory, which is gone with the core (DESIGN CHOICE, log entry 90). -/
def State.retireSlot (s : State) (c k : Nat) : State :=
  (if (s.slot c k).st = .free then s else s.freeSlot c k false true).modSlot c k (fun x =>
    { x with kern := none, spad := none, buf := x.buf.filter (fun e => e.loc.place ≠ .lmem c) })

/-- R304: every other slot of a protected context that is not FREE is to stop with F_UNWIND at its next turn boundary. -/
def State.unwindOthers (s : State) (c : Nat) : State :=
  let o := (s.core c).owner
  if bit o 39 = false then s
  else
    s.mapSlots (fun n _ x =>
      if n ≠ c ∧ isCompute n ∧ (s.core n).owner = o ∧ x.st ≠ .free then { x with unwind := some c } else x)

/-- R302: the arrivals at a core that is retired: launches go back undispatched, and the others are gone with their threads. -/
def State.dropArrivals (s : State) (c : Nat) : State :=
  let t := s.returnLaunches c
  let t := (t.core c).links.foldl (fun u a => u.freeFire a.task.fire) t
  t.modCore c (fun x => { x with links := [] })

/-- R302: the context of a core that is retired is reported to the runtime of its tile as ended. -/
def State.reportEnded (s : State) (c : Nat) : State :=
  if (s.core c).owner = 0 then s
  else
    let n : Notice := .ended (tileOf c) (bits (s.core c).owner 0 32)
    s.modPkg (fun p => { p with got := Tab.set [] p.got (tileOf c) (Tab.get [] p.got (tileOf c) ++ [n]) })

/-- R302: a core is retired. -/
def State.retireCore (s : State) (c : Nat) : State :=
  let s := s.reportEnded c
  let t := (s.dropArrivals c).unwindOthers c
  let t := (List.range 16).foldl (fun u k => u.retireNotice c k) t
  let t := (List.range 16).foldl (fun u k => u.retireSlot c k) t
  let t := t.zeroLocal c 0 (2 ^ 18)
  t.modCore c (fun x => { Core.reset with owner := x.owner, wten := x.wten, health := .retired })

/-- R301, R302: repair of a stopped core: a transient error is logged and the core goes on as it stood; for a lasting one the spare takes
the core's identity and state; with no spare left the core is retired. The reset of the core's logic does not restart the cycle number by
which slots have their turns (R21): DESIGN CHOICE, log entry 60. -/
def execCoreRepair (core : Nat) (transient : Bool) (s : State) : Out :=
  if (s.core core).health ≠ .stopped then .next s
  else
    let t := s.logError (tileOf core)
    let ok (u : State) : State := u.modCore core (fun x => { x with health := .ok })
    if transient then .next (ok t)
    else
      let t := t.modPkg (fun p => { p with broken := p.broken ++ [core] })
      if (s.cluster (clusterOf core)).spareUsed then .next (t.retireCore core)
      else .next (ok (t.modCluster (clusterOf core) (fun x => { x with spareUsed := true })))

/-! ## Moves of a home granule (R351, R352) -/

/-- Whether a memory key lies in a home granule. -/
def inGranule (g key : Nat) : Bool := key / 2 ^ 21 = g

/-- R199, R351: the replicated pages of a granule are collapsed. -/
def State.collapseGranule (s : State) (g : Nat) : State := s.collapsePages (List.range' (32 * g) 32)

/-- R227, R233, R351: every reservation on a granule is lost, and with it the wait of a `wrs`. -/
def State.loseGranule (s : State) (g : Nat) : State := s.mapSlots (fun _ _ x => x.loseIn [(g * 2 ^ 21, 2 ^ 21)])

/-- Whether a granule has a home in this package (R189): one of HBM, of the second tier or of host memory. -/
def State.hasHome (s : State) (g : Nat) : Bool :=
  match s.placeOf (g * 2 ^ 21) with
  | some (.home _) => true
  | some .cxl => true
  | some .hostMem => true
  | _ => false

/-- R351: the granule's home moves to another die, with its lines, barrier objects and versions; its replicated pages are collapsed
first, and what its old home's E has let be seen stays seen. -/
def execPageHomeMove (granule newDie : Nat) (s : State) : Out :=
  let old := s.homeDie (granule * 2 ^ 21)
  if s.hasHome granule = false ∨ 8 ≤ newDie ∨ newDie = old ∨ s.pkg.moving.any (fun p => p.1 = granule) then .next s
  else
    .next (((s.collapseGranule granule).loseGranule granule).modPkg (fun p =>
      { p with
        homeMap := Tab.set 255 p.homeMap granule newDie
        moving := p.moving ++ [(granule, old)]
        seenE := Tab.set 0 p.seenE granule (Nat.max (Tab.get 0 p.seenE granule) (s.earliest old)) }))

/-- R352: what a slot waits for, with its request at the new home. -/
def Pend.rehome (p : Pend) (s : State) : Pend :=
  match p with
  | .load d ea l n g => .load d ea (l.rehome s) n g
  | .devStore ea l n v => .devStore ea (l.rehome s) n v
  | .atomic op d ea l n x e => .atomic op d ea (l.rehome s) n x e
  | .fullEmpty d ea l t => .fullEmpty d ea (l.rehome s) t
  | .barmSent d ea l n => .barmSent d ea (l.rehome s) n
  | .jobReq cp fn d ea l m cap cl => .jobReq cp fn d ea (l.rehome s) (m.rehome s) cap cl
  | .acc ld im pages cl t r => .acc ld im (pages.map (fun l => l.rehome s)) cl t r
  | .stamped c d ea l n v x g => .stamped c d ea (l.rehome s) n v x g
  | .ldas d ea l t a => .ldas d ea (l.rehome s) t a
  | p => p

/-- R352: what a slot waits for, with its request at the new home. A store that has left its buffer keeps its meaning, and whether it misses
its scope was settled when it left (R209); it is performed at its address, wherever its home is. -/
def Slot.rehome (x : Slot) (s : State) : Slot := { x with pend := x.pend.rehome s }

/-- R352: the requests of a slot that the old home has received are forwarded unchanged to the new one, which performs them. -/
def execMovedRequestForward (core slot : Nat) (s : State) : Out :=
  if s.pkg.moving = [] then .next s else .next (s.modSlot core slot (fun x => x.rehome s))

/-- R351: every die has acknowledged the switch; no request is on its way to the old home any more, and it stops forwarding. -/
def execHomeForwardingEnd (granule : Nat) (s : State) : Out :=
  if s.pkg.moving.any (fun p => p.1 = granule) ∧ s.slots.all (fun p => p.2.rehome s = p.2) then
    .next (s.modPkg (fun p => { p with moving := p.moving.filter (fun e => e.1 ≠ granule) }))
  else .next s

end Sys2Proof.Machine
end

