-- ==== Sys2Proof/Machine/VecMem.lean ====
section
/-!
DEFINITION. The vector memory instructions (R131 to R134): lane addresses, the checks of every enabled lane, loads through the
store buffer, and the one store entry of a vector store.
-/

namespace Sys2Proof.Machine

open Sys2Proof

/-- R132: the fault of a lane's address, if any. -/
def laneFault (va : Word) : Option FaultCode :=
  let n := va.toNat
  if n < localBase ∨ localBase + 2 ^ 18 < n + 4 then some .addr
  else if n % 4 ≠ 0 then some .align
  else none

/-- R132: the first enabled lane, in increasing order, whose address fails, as (fault, address). -/
def firstLaneFault : List (Nat × Word) → Option (FaultCode × Word)
  | [] => none
  | (_, va) :: t =>
    match laneFault va with
    | some f => some (f, va)
    | none => firstLaneFault t

/-- The enabled lanes of a mask with their addresses, in increasing lane order. -/
def enabledLanes (mask : Nat) (addr : Nat → Word) : List (Nat × Word) :=
  (List.range 32).filterMap (fun j => if mask.testBit j then some (j, addr j) else none)

/-- The memory key of a checked lane address. -/
def laneKey (c : Nat) (va : Word) : Nat := lmemKey c (va.toNat - localBase)

/-- R198: each enabled lane's access is seen by the guard granules. -/
def State.touchLanes (s : State) (ls : List (Nat × Word)) : State :=
  ls.foldl (fun t l => t.touch t.curCore t.curSlot (laneKey t.curCore l.2) 4) s

/-- R131 to R134: a vector load; each enabled lane takes its bytes as a scalar load would, as the load issues (DESIGN CHOICE, log entry 42). `srcs` are the g sources. -/
def vecLoad (i : Instr) (d : VReg) (vs : List VReg) (srcs : List Reg) (m : Reg) (addr : State → Nat → Word) (s : State) : Out :=
  s.issue ⟨encode i, .user, false, [d], vs, srcs ++ maskSrc m, none⟩ (fun t =>
    let ls := enabledLanes (t.mask m) (addr t)
    match firstLaneFault ls with
    | some f => t.fault f.1 f.2
    | none =>
      match ls.find? (fun l => t.loadBad t.curCore t.curSlot (laneKey t.curCore l.2) 4) with
      | some l => t.fault .data (wordAddr l.2)
      | none =>
        let old := t.vreg d
        let new := (List.range 32).map (fun j =>
          match ls.find? (fun l => l.1 == j) with
          | some l => (t.slotLoad t.curCore t.curSlot (t.cipherKey t.curCore) (laneKey t.curCore l.2) 4).truncate 32
          | none => old.getD j 0)
        (((t.touchLanes ls).setVreg d (ls.length = 32) new).take (srcs ++ maskSrc m)).advance)

/-- R131 to R134: a vector store; one entry holds its enabled lanes in lane order. -/
def vecStore (i : Instr) (d : VReg) (vs : List VReg) (srcs : List Reg) (m : Reg) (addr : State → Nat → Word) (s : State) : Out :=
  s.issue ⟨encode i, .user, false, [], d :: vs, srcs ++ maskSrc m, none⟩ (fun t =>
    let ls := enabledLanes (t.mask m) (addr t)
    match firstLaneFault ls with
    | some f => t.fault f.1 f.2
    | none =>
      match ls with
      | [] => (t.take (srcs ++ maskSrc m)).advance
      | l :: _ =>
        if 4 ≤ t.me.buf.length then t.parkRetry 4
        else
          let c := t.curCore
          let e : StoreEnt :=
            { ea := l.2, loc := ⟨laneKey c l.2, .lmem c, .normal, false, false⟩, size := 4, data := 0, stf := false, rel := false,
              loose := false, sc := 0, due := t.now + 12, ckey := t.cipherKey c, claim := t.me.claims, kern := t.me.kern, tenant := t.me.tenant, ctx := t.me.ctx,
              lanes := ls.map (fun p => (laneKey c p.2, (t.vreg d).getD p.1 0)) }
          ((((t.touchLanes ls).modMe (fun x => { x with buf := x.buf ++ [e] })).take (srcs ++ maskSrc m))).advance)

/-- Table 6.8: consecutive lanes. -/
def unitAddr (a : Reg) (t : State) (j : Nat) : Word := t.src a + wrap (4 * j)
/-- Table 6.8: a register stride. -/
def strideAddr (a str : Reg) (t : State) (j : Nat) : Word := t.src a + wrap j * t.src str
/-- Table 6.8: an index vector. -/
def indexAddr (a : Reg) (idx : VReg) (t : State) (j : Nat) : Word := t.src a + ((t.vreg idx).getD j 0).signExtend 64 * 4

/-- R131. -/
def execVld (d : VReg) (a m : Reg) (s : State) : Out := vecLoad (.vld d a m) d [] [a] m (unitAddr a) s
/-- R133. -/
def execVst (d : VReg) (a m : Reg) (s : State) : Out := vecStore (.vst d a m) d [] [a] m (unitAddr a) s
/-- R131. -/
def execVlds (d : VReg) (a str m : Reg) (s : State) : Out := vecLoad (.vlds d a str m) d [] [a, str] m (strideAddr a str) s
/-- R133. -/
def execVsts (d : VReg) (a str m : Reg) (s : State) : Out := vecStore (.vsts d a str m) d [] [a, str] m (strideAddr a str) s
/-- R131. -/
def execVgath (d : VReg) (a : Reg) (idx : VReg) (m : Reg) (s : State) : Out :=
  vecLoad (.vgath d a idx m) d [idx] [a] m (indexAddr a idx) s
/-- R133. -/
def execVscat (d : VReg) (a : Reg) (idx : VReg) (m : Reg) (s : State) : Out :=
  vecStore (.vscat d a idx m) d [idx] [a] m (indexAddr a idx) s

end Sys2Proof.Machine
end

