-- ==== Sys2Proof/Machine/Dispatch.lean ====
section
/-!
DEFINITION. One arm per constructor of Instr: the meaning of each row of the opcode table.
-/

namespace Sys2Proof.Machine

open Sys2Proof

def exec (i : Instr) (s : State) : Host.Outcome State Fault Refusal :=
  match i with
  | .add d a b => Sys2Proof.Machine.execAdd d a b s
  | .sub d a b => Sys2Proof.Machine.execSub d a b s
  | .and d a b => Sys2Proof.Machine.execAnd d a b s
  | .or d a b => Sys2Proof.Machine.execOr d a b s
  | .xor d a b => Sys2Proof.Machine.execXor d a b s
  | .sll d a b => Sys2Proof.Machine.execSll d a b s
  | .srl d a b => Sys2Proof.Machine.execSrl d a b s
  | .sra d a b => Sys2Proof.Machine.execSra d a b s
  | .rol d a b => Sys2Proof.Machine.execRol d a b s
  | .ror d a b => Sys2Proof.Machine.execRor d a b s
  | .min d a b => Sys2Proof.Machine.execMin d a b s
  | .max d a b => Sys2Proof.Machine.execMax d a b s
  | .minz d a b => Sys2Proof.Machine.execMinz d a b s
  | .maxz d a b => Sys2Proof.Machine.execMaxz d a b s
  | .seq d a b => Sys2Proof.Machine.execSeq d a b s
  | .slt d a b => Sys2Proof.Machine.execSlt d a b s
  | .sltz d a b => Sys2Proof.Machine.execSltz d a b s
  | .sel d a b c => Sys2Proof.Machine.execSel d a b c s
  | .clz d a => Sys2Proof.Machine.execClz d a s
  | .ctz d a => Sys2Proof.Machine.execCtz d a s
  | .popc d a => Sys2Proof.Machine.execPopc d a s
  | .sextB d a => Sys2Proof.Machine.execSextB d a s
  | .sextH d a => Sys2Proof.Machine.execSextH d a s
  | .sextW d a => Sys2Proof.Machine.execSextW d a s
  | .zextB d a => Sys2Proof.Machine.execZextB d a s
  | .zextH d a => Sys2Proof.Machine.execZextH d a s
  | .zextW d a => Sys2Proof.Machine.execZextW d a s
  | .mul d a b => Sys2Proof.Machine.execMul d a b s
  | .mulh d a b => Sys2Proof.Machine.execMulh d a b s
  | .mulhz d a b => Sys2Proof.Machine.execMulhz d a b s
  | .div d a b => Sys2Proof.Machine.execDiv d a b s
  | .divz d a b => Sys2Proof.Machine.execDivz d a b s
  | .rem d a b => Sys2Proof.Machine.execRem d a b s
  | .remz d a b => Sys2Proof.Machine.execRemz d a b s
  | .addi d a imm => Sys2Proof.Machine.execAddi d a imm s
  | .andi d a imm => Sys2Proof.Machine.execAndi d a imm s
  | .ori d a imm => Sys2Proof.Machine.execOri d a imm s
  | .xori d a imm => Sys2Proof.Machine.execXori d a imm s
  | .slti d a imm => Sys2Proof.Machine.execSlti d a imm s
  | .slli d a sh => Sys2Proof.Machine.execSlli d a sh s
  | .srli d a sh => Sys2Proof.Machine.execSrli d a sh s
  | .srai d a sh => Sys2Proof.Machine.execSrai d a sh s
  | .rori d a sh => Sys2Proof.Machine.execRori d a sh s
  | .bfx d a pos len => Sys2Proof.Machine.execBfx d a pos len s
  | .bfi d a pos len => Sys2Proof.Machine.execBfi d a pos len s
  | .lui d imm => Sys2Proof.Machine.execLui d imm s
  | .addpc d imm => Sys2Proof.Machine.execAddpc d imm s
  | .fadd d a b => Sys2Proof.Machine.execFadd d a b s
  | .fsub d a b => Sys2Proof.Machine.execFsub d a b s
  | .fmul d a b => Sys2Proof.Machine.execFmul d a b s
  | .ffma d a b c => Sys2Proof.Machine.execFfma d a b c s
  | .fmin d a b => Sys2Proof.Machine.execFmin d a b s
  | .fmax d a b => Sys2Proof.Machine.execFmax d a b s
  | .fcmpEq d a b => Sys2Proof.Machine.execFcmpEq d a b s
  | .fcmpLt d a b => Sys2Proof.Machine.execFcmpLt d a b s
  | .fcmpLe d a b => Sys2Proof.Machine.execFcmpLe d a b s
  | .fcmpUn d a b => Sys2Proof.Machine.execFcmpUn d a b s
  | .fcvtF32i32 d a => Sys2Proof.Machine.execFcvtF32i32 d a s
  | .fcvtF32i64 d a => Sys2Proof.Machine.execFcvtF32i64 d a s
  | .fcvtI32f32 d a => Sys2Proof.Machine.execFcvtI32f32 d a s
  | .fcvtI64f32 d a => Sys2Proof.Machine.execFcvtI64f32 d a s
  | .fcvtI32f32Rz d a => Sys2Proof.Machine.execFcvtI32f32Rz d a s
  | .fcvtI64f32Rz d a => Sys2Proof.Machine.execFcvtI64f32Rz d a s
  | .br a cond off => Sys2Proof.Machine.execBr a cond off s
  | .jmp off => Sys2Proof.Machine.execJmp off s
  | .call a off => Sys2Proof.Machine.execCall a off s
  | .callr d a => Sys2Proof.Machine.execCallr d a s
  | .ret a => Sys2Proof.Machine.execRet a s
  | .skip a cond n => Sys2Proof.Machine.execSkip a cond n s
  | .repf n t sd sa sb => Sys2Proof.Machine.execRepf n t sd sa sb s
  | .ld d a sz sc od off => Sys2Proof.Machine.execLd d a sz sc od off s
  | .ldS d a sz sc od off => Sys2Proof.Machine.execLdS d a sz sc od off s
  | .st d a sz sc od off => Sys2Proof.Machine.execSt d a sz sc od off s
  | .ldx d a sc od off => Sys2Proof.Machine.execLdx d a sc od off s
  | .ldc d a sc od off => Sys2Proof.Machine.execLdc d a sc od off s
  | .stf d a sc od off => Sys2Proof.Machine.execStf d a sc od off s
  | .amoAdd d a b sz sc od => Sys2Proof.Machine.execAmoAdd d a b sz sc od s
  | .amoAnd d a b sz sc od => Sys2Proof.Machine.execAmoAnd d a b sz sc od s
  | .amoOr d a b sz sc od => Sys2Proof.Machine.execAmoOr d a b sz sc od s
  | .amoXor d a b sz sc od => Sys2Proof.Machine.execAmoXor d a b sz sc od s
  | .amoMin d a b sz sc od => Sys2Proof.Machine.execAmoMin d a b sz sc od s
  | .amoMax d a b sz sc od => Sys2Proof.Machine.execAmoMax d a b sz sc od s
  | .amoMinz d a b sz sc od => Sys2Proof.Machine.execAmoMinz d a b sz sc od s
  | .amoMaxz d a b sz sc od => Sys2Proof.Machine.execAmoMaxz d a b sz sc od s
  | .amoSwap d a b sz sc od => Sys2Proof.Machine.execAmoSwap d a b sz sc od s
  | .cas d a b e sz sc od => Sys2Proof.Machine.execCas d a b e sz sc od s
  | .ldres d a sz sc od => Sys2Proof.Machine.execLdres d a sz sc od s
  | .stcnd d a b sz sc od => Sys2Proof.Machine.execStcnd d a b sz sc od s
  | .fence sc => Sys2Proof.Machine.execFence sc s
  | .wrs a sc => Sys2Proof.Machine.execWrs a sc s
  | .barm d a b sc => Sys2Proof.Machine.execBarm d a b sc s
  | .vaddI t d a b m => Sys2Proof.Machine.execVaddI t d a b m s
  | .vsubI t d a b m => Sys2Proof.Machine.execVsubI t d a b m s
  | .vmulI t d a b m => Sys2Proof.Machine.execVmulI t d a b m s
  | .vminI t d a b m => Sys2Proof.Machine.execVminI t d a b m s
  | .vmaxI t d a b m => Sys2Proof.Machine.execVmaxI t d a b m s
  | .vminz t d a b m => Sys2Proof.Machine.execVminz t d a b m s
  | .vmaxz t d a b m => Sys2Proof.Machine.execVmaxz t d a b m s
  | .vaddSat t d a b m => Sys2Proof.Machine.execVaddSat t d a b m s
  | .vsubSat t d a b m => Sys2Proof.Machine.execVsubSat t d a b m s
  | .vshl t d a b m => Sys2Proof.Machine.execVshl t d a b m s
  | .vshr t d a b m => Sys2Proof.Machine.execVshr t d a b m s
  | .vsra t d a b m => Sys2Proof.Machine.execVsra t d a b m s
  | .vceqI t d a b m => Sys2Proof.Machine.execVceqI t d a b m s
  | .vcltI t d a b m => Sys2Proof.Machine.execVcltI t d a b m s
  | .vcltz t d a b m => Sys2Proof.Machine.execVcltz t d a b m s
  | .vredI t d a m => Sys2Proof.Machine.execVredI t d a m s
  | .vaddF t d a b m => Sys2Proof.Machine.execVaddF t d a b m s
  | .vsubF t d a b m => Sys2Proof.Machine.execVsubF t d a b m s
  | .vmulF t d a b m => Sys2Proof.Machine.execVmulF t d a b m s
  | .vminF t d a b m => Sys2Proof.Machine.execVminF t d a b m s
  | .vmaxF t d a b m => Sys2Proof.Machine.execVmaxF t d a b m s
  | .vfma t d a b m => Sys2Proof.Machine.execVfma t d a b m s
  | .vabs t d a m => Sys2Proof.Machine.execVabs t d a m s
  | .vneg t d a m => Sys2Proof.Machine.execVneg t d a m s
  | .vexp2 t d a m => Sys2Proof.Machine.execVexp2 t d a m s
  | .vlog2 t d a m => Sys2Proof.Machine.execVlog2 t d a m s
  | .vrcp t d a m => Sys2Proof.Machine.execVrcp t d a m s
  | .vrsq t d a m => Sys2Proof.Machine.execVrsq t d a m s
  | .vceqF t d a b m => Sys2Proof.Machine.execVceqF t d a b m s
  | .vcltF t d a b m => Sys2Proof.Machine.execVcltF t d a b m s
  | .vcle t d a b m => Sys2Proof.Machine.execVcle t d a b m s
  | .vredF t d a m => Sys2Proof.Machine.execVredF t d a m s
  | .vsel d a b m => Sys2Proof.Machine.execVsel d a b m s
  | .vmov d a m => Sys2Proof.Machine.execVmov d a m s
  | .vand d a b m => Sys2Proof.Machine.execVand d a b m s
  | .vor d a b m => Sys2Proof.Machine.execVor d a b m s
  | .vxor d a b m => Sys2Proof.Machine.execVxor d a b m s
  | .vnot d a m => Sys2Proof.Machine.execVnot d a m s
  | .vshuf d a b m => Sys2Proof.Machine.execVshuf d a b m s
  | .vbcast d a m => Sys2Proof.Machine.execVbcast d a m s
  | .vins d a lane => Sys2Proof.Machine.execVins d a lane s
  | .vext d a lane => Sys2Proof.Machine.execVext d a lane s
  | .vcvt d a sat rz src m dst => Sys2Proof.Machine.execVcvt d a sat rz src m dst s
  | .vld d a m => Sys2Proof.Machine.execVld d a m s
  | .vst d a m => Sys2Proof.Machine.execVst d a m s
  | .vlds d a str m => Sys2Proof.Machine.execVlds d a str m s
  | .vsts d a str m => Sys2Proof.Machine.execVsts d a str m s
  | .vgath d a idx m => Sys2Proof.Machine.execVgath d a idx m s
  | .vscat d a idx m => Sys2Proof.Machine.execVscat d a idx m s
  | .vdotL6l6 d a b m c => Sys2Proof.Machine.execVdotL6l6 d a b m c s
  | .vdotL6e4 d a b m c => Sys2Proof.Machine.execVdotL6e4 d a b m c s
  | .vdotE4e4 d a b m c => Sys2Proof.Machine.execVdotE4e4 d a b m c s
  | .vdotE5e5 d a b m c => Sys2Proof.Machine.execVdotE5e5 d a b m c s
  | .vdotBfbf d a b m c => Sys2Proof.Machine.execVdotBfbf d a b m c s
  | .vdotI8i8 d a b m c => Sys2Proof.Machine.execVdotI8i8 d a b m c s
  | .mxq d a b p => Sys2Proof.Machine.execMxq d a b p s
  | .accld a b t => Sys2Proof.Machine.execAccld a b t s
  | .accst a b t => Sys2Proof.Machine.execAccst a b t s
  | .cpq d a b k => Sys2Proof.Machine.execCpq d a b k s
  | .jwait a => Sys2Proof.Machine.execJwait a s
  | .jpoll d a => Sys2Proof.Machine.execJpoll d a s
  | .scls a b => Sys2Proof.Machine.execScls a b s
  | .xenq a b => Sys2Proof.Machine.execXenq a b s
  | .xret a b => Sys2Proof.Machine.execXret a b s
  | .xcfg a b => Sys2Proof.Machine.execXcfg a b s
  | .xstat d a => Sys2Proof.Machine.execXstat d a s
  | .spawn a b => Sys2Proof.Machine.execSpawn a b s
  | .spawnq a b c => Sys2Proof.Machine.execSpawnq a b c s
  | .quit => Sys2Proof.Machine.execQuit s
  | .migr a => Sys2Proof.Machine.execMigr a s
  | .rput d a b => Sys2Proof.Machine.execRput d a b s
  | .wait => Sys2Proof.Machine.execWait s
  | .yield => Sys2Proof.Machine.execYield s
  | .yieldTimeout core slot => Sys2Proof.Machine.execYieldTimeout core slot s
  | .chset => Sys2Proof.Machine.execChset s
  | .chclr => Sys2Proof.Machine.execChclr s
  | .bar id lv => Sys2Proof.Machine.execBar id lv s
  | .pkgBarrierRelease id => Sys2Proof.Machine.execPkgBarrierRelease id s
  | .sbarRelease core slot => Sys2Proof.Machine.execSbarRelease core slot s
  | .tnow d a => Sys2Proof.Machine.execTnow d a s
  | .sts d a b => Sys2Proof.Machine.execSts d a b s
  | .ldas d a b => Sys2Proof.Machine.execLdas d a b s
  | .scas d a b c => Sys2Proof.Machine.execScas d a b c s
  | .sbar d id => Sys2Proof.Machine.execSbar d id s
  | .sysc a => Sys2Proof.Machine.execSysc a s
  | .trap => Sys2Proof.Machine.execTrap s
  | .bkpt => Sys2Proof.Machine.execBkpt s
  | .eret => Sys2Proof.Machine.execEret s
  | .halt => Sys2Proof.Machine.execHalt s
  | .nop => Sys2Proof.Machine.execNop s
  | .tlbinv a b => Sys2Proof.Machine.execTlbinv a b s
  | .anchor => Sys2Proof.Machine.execAnchor s
  | .movk d k => Sys2Proof.Machine.execMovk d k s
  | .kmov a k => Sys2Proof.Machine.execKmov a k s
  | .drainLimitExpiry core => Sys2Proof.Machine.execDrainLimitExpiry core s
  | .refldBase d a c => Sys2Proof.Machine.execRefldBase d a c s
  | .refldShape d a c => Sys2Proof.Machine.execRefldShape d a c s
  | .rbld a => Sys2Proof.Machine.execRbld a s
  | .seal d a b => Sys2Proof.Machine.execSeal d a b s
  | .unseal d a b => Sys2Proof.Machine.execUnseal d a b s
  | .keyld a b => Sys2Proof.Machine.execKeyld a b s
  | .keyclr a => Sys2Proof.Machine.execKeyclr a s
  | .ownset a b => Sys2Proof.Machine.execOwnset a b s
  | .arrivalClaim core => Sys2Proof.Machine.execArrivalClaim core s
  | .storeBufferDrain core slot => Sys2Proof.Machine.execStoreBufferDrain core slot s
  | .budgetRefill die => Sys2Proof.Machine.execBudgetRefill die s
  | .stealPauseExpiry die => Sys2Proof.Machine.execStealPauseExpiry die s
  | .jobStart cluster copy => Sys2Proof.Machine.execJobStart cluster copy s
  | .ringTimeout cluster => Sys2Proof.Machine.execRingTimeout cluster s
  | .ageLimitReached die q => Sys2Proof.Machine.execAgeLimitReached die q s
  | .promotion die q => Sys2Proof.Machine.execPromotion die q s
  | .stopInterfaceRequest q => Sys2Proof.Machine.execStopInterfaceRequest q s
  | .unassignedWord w => Sys2Proof.Machine.execUnassignedWord w s
  | .divisionComplete core slot => Sys2Proof.Machine.execDivisionComplete core slot s
  | .atomicPerform core slot => Sys2Proof.Machine.execAtomicPerform core slot s
  | .barmWakeNotice core slot => Sys2Proof.Machine.execBarmWakeNotice core slot s
  | .accLockRelease core slot => Sys2Proof.Machine.execAccLockRelease core slot s
  | .scaleStoreWrite core slot => Sys2Proof.Machine.execScaleStoreWrite core slot s
  | .spawnPacket core slot => Sys2Proof.Machine.execSpawnPacket core slot s
  | .spawnAnswer core slot => Sys2Proof.Machine.execSpawnAnswer core slot s
  | .migrationPacketDeparture core slot => Sys2Proof.Machine.execMigrationPacketDeparture core slot s
  | .rputFill core slot => Sys2Proof.Machine.execRputFill core slot s
  | .pkgBarrierArrival core slot => Sys2Proof.Machine.execPkgBarrierArrival core slot s
  | .stampedStoreArrival core slot => Sys2Proof.Machine.execStampedStoreArrival core slot s
  | .versionAppend line => Sys2Proof.Machine.execVersionAppend line s
  | .commitWaitEnd core slot => Sys2Proof.Machine.execCommitWaitEnd core slot s
  | .stampedAnswer core slot => Sys2Proof.Machine.execStampedAnswer core slot s
  | .ldasArrival core slot => Sys2Proof.Machine.execLdasArrival core slot s
  | .asOfAnswer core slot => Sys2Proof.Machine.execAsOfAnswer core slot s
  | .syscallPacket core slot => Sys2Proof.Machine.execSyscallPacket core slot s
  | .syscallAnswer core slot => Sys2Proof.Machine.execSyscallAnswer core slot s
  | .sctlResume core slot => Sys2Proof.Machine.execSctlResume core slot s
  | .sctlFree core slot => Sys2Proof.Machine.execSctlFree core slot s
  | .preImmediate core whole => Sys2Proof.Machine.execPreImmediate core whole s
  | .preAnchorDrain core whole limit => Sys2Proof.Machine.execPreAnchorDrain core whole limit s
  | .preRelease core whole => Sys2Proof.Machine.execPreRelease core whole s
  | .preemptStop core slot => Sys2Proof.Machine.execPreemptStop core slot s
  | .quiescenceNotice core => Sys2Proof.Machine.execQuiescenceNotice core s
  | .evqEnable tenant q w => Sys2Proof.Machine.execEvqEnable tenant q w s
  | .evqDisable tenant q => Sys2Proof.Machine.execEvqDisable tenant q s
  | .storeAck core slot idx => Sys2Proof.Machine.execStoreAck core slot idx s
  | .remoteLoadReturn core slot => Sys2Proof.Machine.execRemoteLoadReturn core slot s
  | .scopeMissMessage core slot => Sys2Proof.Machine.execScopeMissMessage core slot s
  | .fullEmptyPerform core slot => Sys2Proof.Machine.execFullEmptyPerform core slot s
  | .translationWalkComplete core slot => Sys2Proof.Machine.execTranslationWalkComplete core slot s
  | .pageFaultCompletionNotice core slot token => Sys2Proof.Machine.execPageFaultCompletionNotice core slot token s
  | .stage2Resolution core slot ok => Sys2Proof.Machine.execStage2Resolution core slot ok s
  | .replicaCollapseComplete page => Sys2Proof.Machine.execReplicaCollapseComplete page s
  | .faultNotice tile => Sys2Proof.Machine.execFaultNotice tile s
  | .taskRecordArrival idx => Sys2Proof.Machine.execTaskRecordArrival idx s
  | .dispatch die => Sys2Proof.Machine.execDispatch die s
  | .stealRequest die => Sys2Proof.Machine.execStealRequest die s
  | .stealReply die => Sys2Proof.Machine.execStealReply die s
  | .stolenRecordsArrival die => Sys2Proof.Machine.execStolenRecordsArrival die s
  | .jobRequest core slot => Sys2Proof.Machine.execJobRequest core slot s
  | .jobAnswer core slot => Sys2Proof.Machine.execJobAnswer core slot s
  | .jobWorkEnd cluster copy => Sys2Proof.Machine.execJobWorkEnd cluster copy s
  | .engineSoftError cluster copy detail last => Sys2Proof.Machine.execEngineSoftError cluster copy detail last s
  | .jobComplete cluster copy => Sys2Proof.Machine.execJobComplete cluster copy s
  | .firingDecision die => Sys2Proof.Machine.execFiringDecision die s
  | .fireRecordResend die => Sys2Proof.Machine.execFireRecordResend die s
  | .windowResult idx => Sys2Proof.Machine.execWindowResult idx s
  | .pageHomeMove granule newDie => Sys2Proof.Machine.execPageHomeMove granule newDie s
  | .movedRequestForward core slot => Sys2Proof.Machine.execMovedRequestForward core slot s
  | .homeForwardingEnd granule => Sys2Proof.Machine.execHomeForwardingEnd granule s
  | .coreCheckFailure core => Sys2Proof.Machine.execCoreCheckFailure core s
  | .coreRepair core transient => Sys2Proof.Machine.execCoreRepair core transient s
  | .rebuildFinish handle => Sys2Proof.Machine.execRebuildFinish handle s
  | .installCapsule q => Sys2Proof.Machine.execInstallCapsule q s
  | .bindRef q => Sys2Proof.Machine.execBindRef q s
  | .launchTask q => Sys2Proof.Machine.execLaunchTask q s
  | .suspendCtx q => Sys2Proof.Machine.execSuspendCtx q s
  | .resumeCtx q => Sys2Proof.Machine.execResumeCtx q s
  | .deleteCapsule q => Sys2Proof.Machine.execDeleteCapsule q s
  | .updateFw q => Sys2Proof.Machine.execUpdateFw q s
  | .attestCmd q => Sys2Proof.Machine.execAttestCmd q s
  | .rebuildCmd q => Sys2Proof.Machine.execRebuildCmd q s
  | .endCtx q => Sys2Proof.Machine.execEndCtx q s
  | .queryCmd q => Sys2Proof.Machine.execQueryCmd q s
  | .debugCmd q => Sys2Proof.Machine.execDebugCmd q s
  | .placeImage q => Sys2Proof.Machine.execPlaceImage q s
  | .notify q tail => Sys2Proof.Machine.execNotify q tail s
  | .cqheadWrite q v => Sys2Proof.Machine.execCqheadWrite q v s
  | .completionWrite q => Sys2Proof.Machine.execCompletionWrite q s
  | .lockInterfaceRequest q => Sys2Proof.Machine.execLockInterfaceRequest q s
  | .startInterfaceRequest q => Sys2Proof.Machine.execStartInterfaceRequest q s
  | .frozenFieldWrite q word v => Sys2Proof.Machine.execFrozenFieldWrite q word v s
  | .ldFunctionLevelReset ld => Sys2Proof.Machine.execLdFunctionLevelReset ld s
  | .getVersion chan msg => Sys2Proof.Machine.execGetVersion chan msg s
  | .getCapabilities chan msg => Sys2Proof.Machine.execGetCapabilities chan msg s
  | .negotiateAlgorithms chan msg => Sys2Proof.Machine.execNegotiateAlgorithms chan msg s
  | .getDigests chan msg => Sys2Proof.Machine.execGetDigests chan msg s
  | .getCertificate chan msg => Sys2Proof.Machine.execGetCertificate chan msg s
  | .challengeReq chan msg => Sys2Proof.Machine.execChallengeReq chan msg s
  | .getMeasurements chan msg => Sys2Proof.Machine.execGetMeasurements chan msg s
  | .keyExchange chan msg => Sys2Proof.Machine.execKeyExchange chan msg s
  | .finishReq chan msg => Sys2Proof.Machine.execFinishReq chan msg s
  | .keyUpdate chan msg => Sys2Proof.Machine.execKeyUpdate chan msg s
  | .heartbeatReq chan msg => Sys2Proof.Machine.execHeartbeatReq chan msg s
  | .endSession chan msg => Sys2Proof.Machine.execEndSession chan msg s
  | .vendorDefinedRequest chan msg => Sys2Proof.Machine.execVendorDefinedRequest chan msg s
  | .unsupportedRequest chan msg => Sys2Proof.Machine.execUnsupportedRequest chan msg s
  | .powerOn failed => Sys2Proof.Machine.execPowerOn failed s
  | .podJoin number origin members => Sys2Proof.Machine.execPodJoin number origin members s
  | .podChange members => Sys2Proof.Machine.execPodChange members s
  | .throttleEntry tj power => Sys2Proof.Machine.execThrottleEntry tj power s
  | .throttleExit tj low => Sys2Proof.Machine.execThrottleExit tj low s
  | .criticalShutdown tj => Sys2Proof.Machine.execCriticalShutdown tj s
  | .powerLoss => Sys2Proof.Machine.execPowerLoss s
  | .blockEviction core slot => Sys2Proof.Machine.execBlockEviction core slot s
  | .softError site single => Sys2Proof.Machine.execSoftError site single s
  | .holdoverStart die => Sys2Proof.Machine.execHoldoverStart die s
  | .holdoverEnd die => Sys2Proof.Machine.execHoldoverEnd die s
  | .jobPageIn cluster copy => Sys2Proof.Machine.execJobPageIn cluster copy s
  | .hostConfigurationWrite ld reg v => Sys2Proof.Machine.execHostConfigurationWrite ld reg v s

end Sys2Proof.Machine
end

