-- ==== Sys2Proof/Machine/Frame.lean ====
section
/-!
DEFINITION. Repeat frames: the word of a frame as replay r issues it (R58, R84, R116).
-/

namespace Sys2Proof.Machine

open Sys2Proof

/-- What a replay steps by: r * sd, r * sa, r * sb, and the window's registers. -/
structure Stride where
  sd : Nat
  sa : Nat
  sb : Nat
  nv : Nat
  deriving DecidableEq, Repr

/-- The strides of a slot's frame at its present replay (Table 2.2). -/
def Slot.stride (x : Slot) : Stride :=
  let r := bits x.sw 8 4
  ⟨r * bits x.sw 20 4, r * bits x.sw 24 4, r * bits x.sw 28 4, 4 * x.vsize⟩

/-- A g field, stepped modulo 16. -/
def Stride.g (_ : Stride) (by_ : Nat) (r : BitVec 4) : BitVec 4 := r + BitVec.ofNat 4 by_
/-- A v field, stepped modulo the window's registers; the fields of replay 0 stand as they are (R116). -/
def Stride.v (q : Stride) (by_ : Nat) (r : BitVec 6) : BitVec 6 := if by_ = 0 then r else BitVec.ofNat 6 ((r.toNat + by_) % q.nv)

/-- R58, R84, R116: the register fields that a replay steps. No other instruction may stand in a frame (R57). -/
def stepFields (q : Stride) (i : Instr) : Instr :=
  match i with
  | .add d a b => .add (q.g q.sd d) (q.g q.sa a) (q.g q.sb b)
  | .sub d a b => .sub (q.g q.sd d) (q.g q.sa a) (q.g q.sb b)
  | .and d a b => .and (q.g q.sd d) (q.g q.sa a) (q.g q.sb b)
  | .or d a b => .or (q.g q.sd d) (q.g q.sa a) (q.g q.sb b)
  | .xor d a b => .xor (q.g q.sd d) (q.g q.sa a) (q.g q.sb b)
  | .sll d a b => .sll (q.g q.sd d) (q.g q.sa a) (q.g q.sb b)
  | .srl d a b => .srl (q.g q.sd d) (q.g q.sa a) (q.g q.sb b)
  | .sra d a b => .sra (q.g q.sd d) (q.g q.sa a) (q.g q.sb b)
  | .rol d a b => .rol (q.g q.sd d) (q.g q.sa a) (q.g q.sb b)
  | .ror d a b => .ror (q.g q.sd d) (q.g q.sa a) (q.g q.sb b)
  | .min d a b => .min (q.g q.sd d) (q.g q.sa a) (q.g q.sb b)
  | .max d a b => .max (q.g q.sd d) (q.g q.sa a) (q.g q.sb b)
  | .minz d a b => .minz (q.g q.sd d) (q.g q.sa a) (q.g q.sb b)
  | .maxz d a b => .maxz (q.g q.sd d) (q.g q.sa a) (q.g q.sb b)
  | .seq d a b => .seq (q.g q.sd d) (q.g q.sa a) (q.g q.sb b)
  | .slt d a b => .slt (q.g q.sd d) (q.g q.sa a) (q.g q.sb b)
  | .sltz d a b => .sltz (q.g q.sd d) (q.g q.sa a) (q.g q.sb b)
  | .sel d a b c => .sel (q.g q.sd d) (q.g q.sa a) (q.g q.sb b) c
  | .clz d a => .clz (q.g q.sd d) (q.g q.sa a)
  | .ctz d a => .ctz (q.g q.sd d) (q.g q.sa a)
  | .popc d a => .popc (q.g q.sd d) (q.g q.sa a)
  | .sextB d a => .sextB (q.g q.sd d) (q.g q.sa a)
  | .sextH d a => .sextH (q.g q.sd d) (q.g q.sa a)
  | .sextW d a => .sextW (q.g q.sd d) (q.g q.sa a)
  | .zextB d a => .zextB (q.g q.sd d) (q.g q.sa a)
  | .zextH d a => .zextH (q.g q.sd d) (q.g q.sa a)
  | .zextW d a => .zextW (q.g q.sd d) (q.g q.sa a)
  | .mul d a b => .mul (q.g q.sd d) (q.g q.sa a) (q.g q.sb b)
  | .mulh d a b => .mulh (q.g q.sd d) (q.g q.sa a) (q.g q.sb b)
  | .mulhz d a b => .mulhz (q.g q.sd d) (q.g q.sa a) (q.g q.sb b)
  | .div d a b => .div (q.g q.sd d) (q.g q.sa a) (q.g q.sb b)
  | .divz d a b => .divz (q.g q.sd d) (q.g q.sa a) (q.g q.sb b)
  | .rem d a b => .rem (q.g q.sd d) (q.g q.sa a) (q.g q.sb b)
  | .remz d a b => .remz (q.g q.sd d) (q.g q.sa a) (q.g q.sb b)
  | .addi d a imm => .addi (q.g q.sd d) (q.g q.sa a) imm
  | .andi d a imm => .andi (q.g q.sd d) (q.g q.sa a) imm
  | .ori d a imm => .ori (q.g q.sd d) (q.g q.sa a) imm
  | .xori d a imm => .xori (q.g q.sd d) (q.g q.sa a) imm
  | .slti d a imm => .slti (q.g q.sd d) (q.g q.sa a) imm
  | .slli d a s => .slli (q.g q.sd d) (q.g q.sa a) s
  | .srli d a s => .srli (q.g q.sd d) (q.g q.sa a) s
  | .srai d a s => .srai (q.g q.sd d) (q.g q.sa a) s
  | .rori d a s => .rori (q.g q.sd d) (q.g q.sa a) s
  | .bfx d a pos len => .bfx (q.g q.sd d) (q.g q.sa a) pos len
  | .bfi d a pos len => .bfi (q.g q.sd d) (q.g q.sa a) pos len
  | .fadd d a b => .fadd (q.g q.sd d) (q.g q.sa a) (q.g q.sb b)
  | .fsub d a b => .fsub (q.g q.sd d) (q.g q.sa a) (q.g q.sb b)
  | .fmul d a b => .fmul (q.g q.sd d) (q.g q.sa a) (q.g q.sb b)
  | .ffma d a b c => .ffma (q.g q.sd d) (q.g q.sa a) (q.g q.sb b) c
  | .fmin d a b => .fmin (q.g q.sd d) (q.g q.sa a) (q.g q.sb b)
  | .fmax d a b => .fmax (q.g q.sd d) (q.g q.sa a) (q.g q.sb b)
  | .fcmpEq d a b => .fcmpEq (q.g q.sd d) (q.g q.sa a) (q.g q.sb b)
  | .fcmpLt d a b => .fcmpLt (q.g q.sd d) (q.g q.sa a) (q.g q.sb b)
  | .fcmpLe d a b => .fcmpLe (q.g q.sd d) (q.g q.sa a) (q.g q.sb b)
  | .fcmpUn d a b => .fcmpUn (q.g q.sd d) (q.g q.sa a) (q.g q.sb b)
  | .fcvtF32i32 d a => .fcvtF32i32 (q.g q.sd d) (q.g q.sa a)
  | .fcvtF32i64 d a => .fcvtF32i64 (q.g q.sd d) (q.g q.sa a)
  | .fcvtI32f32 d a => .fcvtI32f32 (q.g q.sd d) (q.g q.sa a)
  | .fcvtI64f32 d a => .fcvtI64f32 (q.g q.sd d) (q.g q.sa a)
  | .fcvtI32f32Rz d a => .fcvtI32f32Rz (q.g q.sd d) (q.g q.sa a)
  | .fcvtI64f32Rz d a => .fcvtI64f32Rz (q.g q.sd d) (q.g q.sa a)
  | .vaddI t d a b m => .vaddI t (q.v q.sd d) (q.v q.sa a) (q.v q.sb b) m
  | .vsubI t d a b m => .vsubI t (q.v q.sd d) (q.v q.sa a) (q.v q.sb b) m
  | .vmulI t d a b m => .vmulI t (q.v q.sd d) (q.v q.sa a) (q.v q.sb b) m
  | .vminI t d a b m => .vminI t (q.v q.sd d) (q.v q.sa a) (q.v q.sb b) m
  | .vmaxI t d a b m => .vmaxI t (q.v q.sd d) (q.v q.sa a) (q.v q.sb b) m
  | .vminz t d a b m => .vminz t (q.v q.sd d) (q.v q.sa a) (q.v q.sb b) m
  | .vmaxz t d a b m => .vmaxz t (q.v q.sd d) (q.v q.sa a) (q.v q.sb b) m
  | .vaddSat t d a b m => .vaddSat t (q.v q.sd d) (q.v q.sa a) (q.v q.sb b) m
  | .vsubSat t d a b m => .vsubSat t (q.v q.sd d) (q.v q.sa a) (q.v q.sb b) m
  | .vshl t d a b m => .vshl t (q.v q.sd d) (q.v q.sa a) (q.v q.sb b) m
  | .vshr t d a b m => .vshr t (q.v q.sd d) (q.v q.sa a) (q.v q.sb b) m
  | .vsra t d a b m => .vsra t (q.v q.sd d) (q.v q.sa a) (q.v q.sb b) m
  | .vceqI t d a b m => .vceqI t (q.g q.sd d) (q.v q.sa a) (q.v q.sb b) m
  | .vcltI t d a b m => .vcltI t (q.g q.sd d) (q.v q.sa a) (q.v q.sb b) m
  | .vcltz t d a b m => .vcltz t (q.g q.sd d) (q.v q.sa a) (q.v q.sb b) m
  | .vredI t d a m => .vredI t (q.v q.sd d) (q.v q.sa a) m
  | .vaddF t d a b m => .vaddF t (q.v q.sd d) (q.v q.sa a) (q.v q.sb b) m
  | .vsubF t d a b m => .vsubF t (q.v q.sd d) (q.v q.sa a) (q.v q.sb b) m
  | .vmulF t d a b m => .vmulF t (q.v q.sd d) (q.v q.sa a) (q.v q.sb b) m
  | .vminF t d a b m => .vminF t (q.v q.sd d) (q.v q.sa a) (q.v q.sb b) m
  | .vmaxF t d a b m => .vmaxF t (q.v q.sd d) (q.v q.sa a) (q.v q.sb b) m
  | .vfma t d a b m => .vfma t (q.v q.sd d) (q.v q.sa a) (q.v q.sb b) m
  | .vabs t d a m => .vabs t (q.v q.sd d) (q.v q.sa a) m
  | .vneg t d a m => .vneg t (q.v q.sd d) (q.v q.sa a) m
  | .vexp2 t d a m => .vexp2 t (q.v q.sd d) (q.v q.sa a) m
  | .vlog2 t d a m => .vlog2 t (q.v q.sd d) (q.v q.sa a) m
  | .vrcp t d a m => .vrcp t (q.v q.sd d) (q.v q.sa a) m
  | .vrsq t d a m => .vrsq t (q.v q.sd d) (q.v q.sa a) m
  | .vceqF t d a b m => .vceqF t (q.g q.sd d) (q.v q.sa a) (q.v q.sb b) m
  | .vcltF t d a b m => .vcltF t (q.g q.sd d) (q.v q.sa a) (q.v q.sb b) m
  | .vcle t d a b m => .vcle t (q.g q.sd d) (q.v q.sa a) (q.v q.sb b) m
  | .vredF t d a m => .vredF t (q.v q.sd d) (q.v q.sa a) m
  | .vsel d a b m => .vsel (q.v q.sd d) (q.v q.sa a) (q.v q.sb b) m
  | .vmov d a m => .vmov (q.v q.sd d) (q.v q.sa a) m
  | .vand d a b m => .vand (q.v q.sd d) (q.v q.sa a) (q.v q.sb b) m
  | .vor d a b m => .vor (q.v q.sd d) (q.v q.sa a) (q.v q.sb b) m
  | .vxor d a b m => .vxor (q.v q.sd d) (q.v q.sa a) (q.v q.sb b) m
  | .vnot d a m => .vnot (q.v q.sd d) (q.v q.sa a) m
  | .vshuf d a b m => .vshuf (q.v q.sd d) (q.v q.sa a) (q.v q.sb b) m
  | .vbcast d a m => .vbcast (q.v q.sd d) (q.g q.sa a) m
  | .vins d a lane => .vins (q.v q.sd d) (q.g q.sa a) lane
  | .vext d a lane => .vext (q.g q.sd d) (q.v q.sa a) lane
  | .vcvt d a sat rz src m dst => .vcvt (q.v q.sd d) (q.v q.sa a) sat rz src m dst
  | .vdotL6l6 d a b m c => .vdotL6l6 (q.v q.sd d) (q.v q.sa a) (q.v q.sb b) m c
  | .vdotL6e4 d a b m c => .vdotL6e4 (q.v q.sd d) (q.v q.sa a) (q.v q.sb b) m c
  | .vdotE4e4 d a b m c => .vdotE4e4 (q.v q.sd d) (q.v q.sa a) (q.v q.sb b) m c
  | .vdotE5e5 d a b m c => .vdotE5e5 (q.v q.sd d) (q.v q.sa a) (q.v q.sb b) m c
  | .vdotBfbf d a b m c => .vdotBfbf (q.v q.sd d) (q.v q.sa a) (q.v q.sb b) m c
  | .vdotI8i8 d a b m c => .vdotI8i8 (q.v q.sd d) (q.v q.sa a) (q.v q.sb b) m c
  | i => i

/-- R58: the instruction as the slot issues it. -/
def Slot.stepFrame (x : Slot) (i : Instr) : Instr := if x.frame then stepFields x.stride i else i

end Sys2Proof.Machine
end

