-- ==== Sys2Proof/Machine/Tick.lean ====
section
/-!
DEFINITION. What the machine does besides executing one row of the opcode table: the turn of a slot with its fetch (R21, R24, R29, R35,
R59), and the start of a cycle: die clocks (R356), what the cycle makes due, and what comes about at a time the spec leaves open.
-/

namespace Sys2Proof.Machine

open Sys2Proof

/-! ## The turn of a slot (R21, R23, R24, R35) -/

/-- R191: the slot parks for the walk of an address that it fetches; a slot that resumes at a counted barrier word keeps park 6 (R153). -/
def State.fetchWalk (s : State) (va : Word) : State :=
  let x := s.me
  let t := s.tenantDie (dieOf s.curCore) x.tenant.toNat
  s.modMe (fun y =>
    { (if y.park = 6 then y else y.setPark 3) with
      st := .parked, pend := .walk va .fetch false false t.ptab t.s2b t.s2l })

/-- R59: the word that the slot issues next, if its sequencer buffer holds it: a word of a frame that has been fetched before. -/
def Slot.bufferedWord (x : Slot) : Option (BitVec 32) := if x.frame then Tab.find? x.frameBuf (bits x.sw 4 4) else none

/-- R59: the words that the slot fetches before it issues, by position in its frame and address: the one at its program counter, and in a
frame every earlier one that its sequencer buffer does not hold, from `k.epc` − 4 × `fpos` on. The later words of a frame are fetched at their own
turns (DESIGN CHOICE, log entry 86). -/
def Slot.toFetch (x : Slot) : List (Nat × Word) :=
  if x.frame then
    (List.range (bits x.sw 4 4 + 1)).filterMap (fun p =>
      if (Tab.find? x.frameBuf p).isSome then none else some (p, pc57 (x.pc - wrap (4 * (bits x.sw 4 4 - p)))))
  else [(0, x.pc)]

/-- The slot has fetched the word of position `p`: within a frame it enters the sequencer buffer (R59). -/
def Slot.holdWord (x : Slot) (p : Nat) (w : BitVec 32) : Slot :=
  { x with word := w, frameBuf := if x.frame then x.frameBuf.filter (fun q => q.1 != p) ++ [(p, w)] else [] }

/-- The instruction of a word: one that is assigned, or the event of a word that is not (R34). -/
def instrOf (w : BitVec 32) : Instr :=
  match decode w with
  | .ok i => i
  | .error _ => .unassignedWord w

/-- Whether a word is that of an instruction which recognises a counted arrival by park 6 (R153, R236). -/
def barrierWord : Instr → Bool
  | .bar _ _ => true
  | .sbar _ _ => true
  | .barm _ _ _ _ => true
  | _ => false

/-- R35, R58, R153: the word that has been fetched issues; it recognises by park 6 that its arrival has been counted. Under an anchor drain the slot stops before an `anchor` (R309). -/
def State.issueWord (s : State) (w : BitVec 32) : Out :=
  let i := instrOf w
  let t := if s.me.park = 6 then s.modMe (fun x => { (if barrierWord i then x else x.setPark 0) with owed := .none }) else s
  match t.me.stopReq, i with
  | .anchor, .anchor => .next (t.stopSlot t.curCore t.curSlot true)
  | _, _ => exec (t.me.stepFrame i) t

/-- R29, R59, R82, R298: the words are fetched in their order, and the last one issues. -/
def State.fetchThese (s : State) : List (Nat × Word) → Out
  | [] => s.issueWord s.me.word
  | (p, a) :: l =>
    match s.fetchAt s.curCore s.curSlot a with
    | .word w => (s.modMe (·.holdWord p w)).fetchThese l
    | .fault code f => .next (s.fault code (if code = .data then wordAddr a else a) f)
    | .walk => .next (s.fetchWalk a)

/-- R29, R59: the slot takes the word at its program counter from its sequencer buffer, or fetches it, and issues it. -/
def State.fetchAndIssue (s : State) : Out :=
  match s.me.bufferedWord with
  | some w => (s.modMe (fun x => { x with word := w })).issueWord w
  | none => s.fetchThese s.me.toFetch

/-- R21, R23, R24: what slot k of core c does at its turn, in the state in which it has the turn: a READY slot issues; one with a store on
its way to another core's window waits for its acknowledgement (R220); any other turn is a bubble. -/
def State.attempt (t : State) : Out :=
  match t.me.st with
  | .ready => if t.me.windowOut then .next (t.modMe Slot.awaitAck) else t.fetchAndIssue
  | _ => .next t

/-- R293, R307: a due pre-emption stops the slot at its turn, unless its instruction faults, which is taken first. -/
def State.stopOrFault (t : State) : Out :=
  match t.attempt with
  | .next u => if (u.slot t.curCore t.curSlot).st = .stopped then .next u else .next (t.stopSlot t.curCore t.curSlot false)
  | r => r

/-- R304: the slot whose turn it is, whose context has lost core n, stops with F_UNWIND. An arrival that it has sent to a package barrier is
counted first (R153), a record that it has sent is accepted without it (R175), and `k.epc` of a slot that is STOPPED already stays. -/
def State.unwind (t : State) (n : Nat) : State :=
  let u := (t.countArrival t.curCore t.curSlot).detach t.curCore t.curSlot
  let x := u.me
  let at_ := if x.st = .stopped then x.epc else x.againAt
  (u.modMe (fun y => { y with unwind := none, epc := at_ })).stopWith u.curCore u.curSlot .unwind 0 (wrap n) false

/-- The turn of slot k of core c. -/
def State.turn (s : State) (c k : Nat) : Out :=
  let t : State := { s with curCore := c, curSlot := k }
  if s.pkg.boot ≠ .running ∨ (s.core c).health ≠ .ok then .next t
  else
  match (if t.me.st = .free then none else t.me.unwind) with
  | some n => .next (t.unwind n)
  | none => if s.stopDue c k then t.stopOrFault else t.attempt

/-! ## What happens within a cycle -/

/-- Whether an instruction is an event of the opcode table: it has no word. -/
def isEvent (i : Instr) : Bool :=
  match i with
  | .unassignedWord _ => false
  | i => decide (encode i = 0)

/-- Where an agent outside the package may write: host memory, device registers, other packages; in a pod also this package's own
memory (R354). -/
def State.outsideMay (s : State) (pa : Nat) : Bool :=
  match s.placeOf pa with
  | some .hostMem => true
  | some .devReg => true
  | some (.pkg _) => true
  | some (.home _) => s.pkg.podNo.isSome
  | _ => false

/-- R202: an access of an agent outside the package: aligned, of one, two, four or eight bytes, and single-copy atomic. An
atomic on a word with an uncorrectable error is not performed (R298). A replicated page of the package's HBM is collapsed before it is written
(R199). -/
def State.outside (s : State) (a : OutsideAcc) : State :=
  let ok (pa size : Nat) : Bool := [1, 2, 4, 8].contains size && decide (pa % size = 0) && s.outsideMay pa
  let write (pa size : Nat) (v : Word) : State := (s.collapsePages [pa / 2 ^ 16]).agentWrite none 0 pa size v
  match a with
  | .write pa size v => if ok pa size then write pa size (zextBytes size v) else s
  | .atomic op pa size x e =>
    if ok pa size && decide (4 ≤ size) && !s.badWord pa then
      match atomicNew op (8 * size) (s.memLoad 0 pa size).toNat (zextBytes size x).toNat (zextBytes size e).toNat with
      | some n => write pa size (wrap n)
      | none => s
    else s

/-- R281, R285, R286, R335, R337: the answer to what slot k of core c has asked: formed now, and the slot goes on. -/
def State.reply (s : State) (c k : Nat) : State :=
  let x := s.slot c k
  match x.st, x.pend with
  | .parked, .asked (.jpoll d id) => s.answer c k d (wrap (s.jobStatus x.tenant id))
  | .parked, .asked (.xstat d sel) =>
    (match s.badStatus c sel with
     | some a => s.takeFault c k .data a
     | none => s.answer c k d (s.xstatValue c x sel))
  | .parked, .asked (.xcfg sel words) => s.configure c k sel words
  | .parked, .asked (.refld shape d ty i) => s.readRef c k shape d ty i
  | .parked, .asked (.seal d req dst pages) => s.sealNow c k d req dst pages
  | _, _ => s

/-- One thing happens. A slot has a turn only in the cycles of its number (R21). -/
def State.happen (s : State) (h : Happening) : Out :=
  match h with
  | .turn c k => if s.now % 16 = k then s.turn c k else .next s
  | .event i => if isEvent i then exec i s else .next s
  | .jobPart cluster copy seq => .next (s.jobPart cluster copy seq)
  | .reply c k => .next (s.reply c k)
  | .outside a => .next (s.outside a)
  | .routine c a => .next (if isService c || c = securityCore then s.modCore c (fun x => { x with links := x.links ++ [a] }) else s)

/-! ## Parked slots whose cause has cleared (R23, R24) -/

/-- Whether the word at which a slot waits would, evaluated now, wait for the same reason again. -/
def State.stillWaits (s : State) (c k : Nat) : Bool :=
  let t : State := { s with curCore := c, curSlot := k }
  match exec (t.me.stepFrame (instrOf t.me.word)) (t.modMe Slot.wake) with
  | .next u => u.me.st = .parked && u.me.pend = .retry && u.me.park = t.me.park
  | _ => false

/-- R23, R24: a slot whose cause cleared in the cycle before becomes READY. -/
def State.recheck (s : State) : State :=
  s.mapSlots (fun c k x =>
    match x.st, x.pend with
    | .parked, .retry => if s.stillWaits c k then x else x.wake
    | _, _ => x)

/-- Whether a release makes a slot ready in this very cycle (R182, R370): that of its package barrier, or its own die's E that has passed its
stamp. -/
def State.releasedNow (s : State) (c : Nat) (x : Slot) : Bool :=
  match x.st, x.pend with
  | .parked, .barrier 5 _ id g _ => s.pkg.rels.any (fun r => r.1 = id && r.2.1 = g && decide (r.2.2.1 ≤ s.now))
  | .parked, .sbarRel _ r _ => decide (r < s.earliest (dieOf c))
  | _, _ => false

/-- The turns of a cycle (R21, R23, R135): slot k of a core has its turn when the cycle is k modulo 16. A slot issues then if it is READY
as the cycle begins; one that becomes READY within the cycle issues at its next turn. A parked one that is due to be pre-empted stops. `now`
counts from device reset for every core (log entry 60). -/
def State.turns (s : State) : List Happening :=
  if s.pkg.boot ≠ .running then []
  else
    s.slots.filterMap (fun p =>
      if p.1 % 16 ≠ s.now % 16 then none
      else if p.2.st = .ready || p.2.unwind.isSome || s.releasedNow (p.1 / 16) p.2 then some (.turn (p.1 / 16) (p.1 % 16))
      else if s.stopDue (p.1 / 16) (p.1 % 16) then some (.event (.preemptStop (p.1 / 16) (p.1 % 16)))
      else none)

/-- R22, R150, R300: the pushes that are complete in this cycle set the latch of the slot that pops, before any instruction of the cycle;
one towards a stopped neighbour waits on. -/
def State.landPushes (s : State) : State :=
  s.cores.foldl (fun t p =>
    p.2.chq.foldl (fun u q =>
      if q.2.any (fun e => e.1 = s.now) then
        if (s.core (downstream p.1)).health = .stopped then
          u.setChain p.1 q.1 (q.2.map (fun e => if e.1 = s.now then (s.now + 1, e.2) else e))
        else u.setLatch (downstream p.1) q.1
      else u) t) s

/-- The releases of this cycle, which come before its turns: those of package barriers (R182), and those whose die's E has passed their
stamp (R370); the appends of versions for which there is room (R362); and the ages of queue heads (R262). -/
def State.dueBefore (s : State) : List Happening :=
  (s.pkg.rels.filter (fun r => decide (r.2.2.1 ≤ s.now))).map (fun r => .event (.pkgBarrierRelease r.1)) ++
  s.slots.filterMap (fun p =>
    match p.2.pend with
    | .sbarRel _ r _ => if r < s.earliest (dieOf (p.1 / 16)) then some (.event (.sbarRelease (p.1 / 16) (p.1 % 16))) else none
    | _ => none) ++
  s.slots.filterMap (fun p => (s.appendDue p.2).map (fun line => .event (.versionAppend line))) ++
  s.dies.flatMap (fun d => d.2.xq.flatMap (fun q =>
    let age := q.2.headAge s.ageTimer
    (if !q.2.toks.isEmpty && !q.2.aged && decide (q.2.ageLimit ≤ age) then [.event (.ageLimitReached d.1 q.1)] else []) ++
    (if !q.2.toks.isEmpty && !q.2.promoted && decide (2 * q.2.ageLimit ≤ age) then [.event (.promotion d.1 q.1)] else [])))

/-- What else the cycle makes due: stores to own local memory leave the buffers, yields end (R180), arrivals claim (R140),
steal pauses end (R167), ring groups start or time out (R244, R247), drain limits expire (R309), and interfaces that were asked to stop
stop (R376). -/
def State.dueAfter (s : State) : List Happening :=
  s.slots.filterMap (fun p =>
    match p.2.buf with
    | e :: _ => if e.loc.place = .lmem (p.1 / 16) then some (.event (.storeBufferDrain (p.1 / 16) (p.1 % 16))) else none
    | [] => none) ++
  s.slots.filterMap (fun p =>
    match p.2.st, p.2.pend with
    | .parked, .yieldTill t => if t ≤ s.now then some (.event (.yieldTimeout (p.1 / 16) (p.1 % 16))) else none
    | _, _ => none) ++
  s.cores.filterMap (fun p => if p.2.links.isEmpty then none else some (.event (.arrivalClaim p.1))) ++
  s.dies.filterMap (fun p =>
    match p.2.steal with
    | .pause t => if t ≤ s.now then some (.event (.stealPauseExpiry p.1)) else none
    | _ => none) ++
  s.clusters.flatMap (fun p =>
    match s.nextJob p.1 false with
    | some j =>
      if j.rmask = 0 then []
      else
        (match j.stage with
         | .waiting t => if t + 1250000 ≤ s.now then [.event (.ringTimeout p.1)] else []
         | _ => []) ++ [.event (.jobStart p.1 false)]
    | none => []) ++
  s.cores.filterMap (fun p =>
    match p.2.pre with
    | .drain t => if t ≤ s.now then some (.event (.drainLimitExpiry p.1)) else none
    | _ => none) ++
  s.pkg.qifs.filterMap (fun p => if p.2.stopping then some (.event (.stopInterfaceRequest p.1)) else none)

/-- R161: the refills of a cycle. -/
def State.refills (s : State) : List Happening :=
  if s.now % 12500 = 0 then (List.range 8).map (fun d => .event (.budgetRefill d)) else []

/-- The place of a happening among those of its cycle whose time the spec leaves open. A write to a frozen field comes before a notify
(R376). Fills come in increasing fill-port number (R18): neighbour, copy unit, matrix engine; what answers an instruction of the slot itself comes
before them (DESIGN CHOICE, log entry 4); a division's write is the last (R67). Charges
and everything else come before the refill, dispatch after it (R161), a steal request is answered after the dispatch decision of its cycle
(R168), and a configuration takes effect after the firing decision of its cycle (R261). A turn has no place among them (R21). -/
def Happening.rank (h : Happening) : Option Nat :=
  match h with
  | .turn _ _ => none
  | .event (.frozenFieldWrite _ _ _) => some 0
  | .event (.rputFill _ _) => some 2
  | .event (.jobComplete _ true) => some 3
  | .event (.jobComplete _ false) => some 4
  | .event (.divisionComplete _ _) => some 5
  | .event (.firingDecision _) => some 6
  | .event (.budgetRefill _) => some 7
  | .event (.dispatch _) => some 8
  | .event (.stealReply _) => some 9
  | .reply _ _ => some 10
  | _ => some 1

/-- Happenings in the order of their ranks, those of one rank as they are listed. -/
def inRank (l : List Happening) : List Happening := (List.range 11).flatMap (fun n => l.filter (fun h => h.rank = some n))

/-- A cycle begins: time moves on, clocks are read, what earlier cycles left to be given back is given back, slots whose cause has cleared
are READY, pushes that are complete land, and what happens in the cycle is listed in its order. -/
def State.tick (s : State) : State :=
  let t := (State.readClocks { s with now := s.now + 1 }).giveBack.endContexts.recheck
  let turns := t.turns
  let u := t.landPushes.refreshSums
  { u with
    todo := u.dueBefore ++ turns ++ u.dueAfter ++ inRank (u.refills ++ Config.freeHappenings u.free)
    free := u.free + 1 }

end Sys2Proof.Machine
end

