-- ==== Sys2Proof/Machine/Step.lean ====
section
/-!
DEFINITION. One step of the machine: the next thing of the cycle that runs, or the start of the next cycle; and where a word is placed
for the slot whose turn comes next.
-/

namespace Sys2Proof.Machine

open Sys2Proof

/-- One step. -/
def step (s : State) : Host.Outcome State Fault Refusal :=
  match s.todo with
  | [] => .next s.tick
  | h :: rest => State.happen { s with todo := rest } h

/-- The state with an instruction placed where the next step fetches: the slot of core 0 whose turn the cycle is (slot 0 right after reset) is
READY with its turn next, its core may issue, its instruction TLB maps the page of its program counter to the bottom of HBM, and the word
stands there. A program comes to run from reset through POWER_ON, INSTALL, BIND and LAUNCH and the claim of a slot; this stands for all of
them. -/
def State.withFetchWord (s : State) (_nbits w : Nat) : State :=
  let k := s.now % 16
  let x := s.slot 0 k
  let e : TlbEnt :=
    { tenant := x.tenant, va := x.pc.toNat % 2 ^ 57 / 2 ^ 16 * 2 ^ 16, size := 2 ^ 16, page := 2 ^ 16, pa := 0, gpa := 0, ty := .normal, rp := false,
      u := true, x := true, w := false, r := false, s2x := true, s2w := true, s2r := true }
  let t := s.modPkg (fun p => { p with boot := .running })
  let t := t.modCore 0 (fun y => { y with health := .ok, pre := .off, itlb := e :: y.itlb })
  let t := t.setSlot 0 k
    { x.setPark 0 with
      st := .ready, pend := .none, popDue := false, out := x.out.filter (fun o => !o.loc.window), unwind := none, stopReq := .none_
      frameBuf := [] }
  let a := x.pc.toNat % 2 ^ 16
  let t := ((t.rawWrite a 4 w).setTag a 0).setBadWord a false
  { t with todo := [.turn 0 k] }

end Sys2Proof.Machine
end

