-- ==== Sys2Proof/Safety.lean ====
section
/-!
DEFINITION. What the claims about this machine are stated in: a step that goes on, the form that memory keeps, the checks that an
instruction passes before its own execution (R35), and what a result leaves (R17, R62).
-/

namespace Sys2Proof.Machine

open Sys2Proof

/-- A step that answers a next state. -/
def StepsTo (s t : State) : Prop := step s = .next t

/-- Execution of an instruction that answers a next state. -/
def Runs (i : Instr) (s t : State) : Prop := exec i s = .next t

/-- The invariant of memory: its one canonical form. -/
def MemInv (s : State) : Prop := Memory.wf s.mem

/-- The slot whose turn it is has g14 as its chain queue (R62, R147). -/
def State.onChain (s : State) : Bool := s.chained s.curCore s.curSlot

/-- Steps 2 to 5 of R35, and the sources of R298, let an instruction of level `lv`, legal in a frame if `fr`, with these vector
destinations and sources, g sources and g destination, reach its own execution. -/
structure Passes (s : State) (lv : Level) (fr : Bool) (vdst vsrc : List VReg) (srcs : List Reg) (dst : Option Reg) : Prop where
  mode : lv = .privileged → s.me.priv = true
  place : lv = .security → s.curCore = securityCore
  frame : s.me.frame = true → fr = true
  window : ∀ v ∈ vdst ++ vsrc, v.toNat < 4 * s.me.vsize
  full : ∀ r ∈ srcs, s.me.isFull r = true ∨ (r = 14 ∧ s.onChain = true)
  pop : s.pops srcs = true → (s.chainHead s.curCore s.curSlot).isSome = true
  push : s.pushes dst = true → s.chainFull s.curCore s.curSlot = false
  whole : ∀ r ∈ srcs, s.me.badG.getLsbD r.toNat = false ∨ (r = 14 ∧ s.onChain = true)
  wholeV : ∀ v ∈ vsrc, 4 * s.me.vbase + v.toNat ∉ (s.core s.curCore).badV

/-- `Passes` for an instruction that names g registers only. -/
abbrev PassesG (s : State) (fr : Bool) (srcs : List Reg) (dst : Option Reg) : Prop := Passes s .user fr [] [] srcs dst

/-- The key under which a slot of the package is kept. -/
def slotKey (c k : Nat) : Nat := 16 * c + k

/-- Slot k of core c is not the one whose turn it is. -/
def State.other (s : State) (c k : Nat) : Prop := slotKey c k ≠ slotKey s.curCore s.curSlot

/-- Nothing of a slot differs but its registers with their bits, the float status, its program counter, `k.sw`, and when its own result is
in place. -/
def SameButRegs (x y : Slot) : Prop :=
  y = { x with g := y.g, full := y.full, badG := y.badG, fst := y.fst, pc := y.pc, sw := y.sw, wbRegs := y.wbRegs, wbDue := y.wbDue }

/-- Nothing of the machine differs but slots, and chain queues and arrival latches of cores. -/
def SameButChains (s t : State) : Prop :=
  t = { s with slots := t.slots, cores := t.cores } ∧
  ∀ c, t.core c = { s.core c with chq := (t.core c).chq, latch := (t.core c).latch }

/-- Nothing of a slot differs but where it goes on (program counter and `k.sw`). -/
def SameButPc (x y : Slot) : Prop := y = { x with pc := y.pc, sw := y.sw }

/-- Nothing of the machine differs but the slot whose turn it is. -/
def OnlyMe (s t : State) : Prop := t = { s with slots := t.slots } ∧ ∀ c k, s.other c k → t.slot c k = s.slot c k

/-- What the operands leave at the chain queues (R62): a pop takes the oldest entry of the queue that the upstream neighbour pushes, and
nothing else of the queues changes. -/
def Popped (s t : State) (srcs : List Reg) : Prop :=
  ∀ c k, t.chainOut c k =
    if s.pops srcs = true ∧ c = upstream s.curCore ∧ k = s.curSlot then (s.chainOut c k).tail else s.chainOut c k

/-- What an instruction leaves that reads `srcs`, writes v to g[d] with latency `lat`, sets the sticky bits `fl` and goes on at `pc` (R17,
R18, R20, R62, R78): the register or, for g14 while the chain bit is set, the queue takes v; a write to g0 is discarded; the program
counter and `k.sw` come to be `pc` and `sw`; and nothing else changes but, where the latency is 0, what a push sets at the neighbour that
pops (R150): a later result sets it in the cycle in which it is complete (R22). -/
structure WroteTo (s t : State) (srcs : List Reg) (d : Reg) (v : Word) (fl : BitVec 5) (lat : Nat) (pc sw : Word) : Prop where
  reg : ∀ r, t.me.reg r = if r = d ∧ r ≠ 0 ∧ s.pushes (some d) = false then v else s.me.reg r
  full : ∀ r, t.me.isFull r = (s.me.isFull r || (decide (r = d) && !s.pushes (some d)))
  flags : t.me.fst = s.me.fst ||| fl.zeroExtend 64
  due : d ≠ 0 → s.pushes (some d) = false → t.me.wbRegs = oneHot d.toNat ∧ t.me.wbDue = s.now + lat
  pc : t.me.pc = pc ∧ t.me.sw = sw
  rest : SameButRegs s.me t.me
  queue : ∀ c k, t.chainOut c k =
    if s.pops srcs = true ∧ c = upstream s.curCore ∧ k = s.curSlot then (s.chainOut c k).tail
    else if s.pushes (some d) = true ∧ c = s.curCore ∧ k = s.curSlot then s.chainOut c k ++ [(s.pushDue c (s.now + lat), v)]
    else s.chainOut c k
  slots : ∀ c k, s.other c k → ¬(lat = 0 ∧ s.pushes (some d) = true ∧ slotKey c k = slotKey (downstream s.curCore) s.curSlot) →
    t.slot c k = s.slot c k
  latch : ∀ c, lat ≠ 0 ∨ s.pushes (some d) = false ∨ c ≠ downstream s.curCore → (t.core c).latch = (s.core c).latch
  parts : SameButChains s t
  alone : s.pops srcs = false → s.pushes (some d) = false → OnlyMe s t

/-- `WroteTo`, going on at the next word as `Slot.advance` says (R56 to R58, R78). -/
abbrev Wrote (s t : State) (srcs : List Reg) (d : Reg) (v : Word) (fl : BitVec 5) (lat : Nat) : Prop :=
  WroteTo s t srcs d v fl lat s.me.advance.pc s.me.advance.sw

/-- What an instruction leaves that reads `srcs`, writes no register and goes on at `pc` with `sw`: the pop of R62, and nothing else. -/
structure WentOn (s t : State) (srcs : List Reg) (pc sw : Word) : Prop where
  pc : t.me.pc = pc ∧ t.me.sw = sw
  rest : SameButPc s.me t.me
  queue : Popped s t srcs
  slots : ∀ c k, s.other c k → t.slot c k = s.slot c k
  latch : ∀ c, (t.core c).latch = (s.core c).latch
  parts : SameButChains s t
  alone : s.pops srcs = false → OnlyMe s t

/-- `WentOn` at the next word. -/
abbrev WentNext (s t : State) (srcs : List Reg) : Prop := WentOn s t srcs s.me.advance.pc s.me.advance.sw

/-- What a vector instruction leaves that reads the g registers `srcs` and gives some lanes of window register d a value (R17, R20, R113,
R114, R299): lane n of the register takes the value of `lanes` where it has one; every other lane of the core's file stays; the sticky bits
`fl` are set; the slot goes on at the next word; and nothing else changes but the pop of R62. -/
structure VWrote (s t : State) (srcs : List Reg) (d : VReg) (lanes : Nat → Option Lane) (fl : BitVec 5) : Prop where
  lane : ∀ n < 32, (t.core s.curCore).lane (s.fileReg d) n = (lanes n).getD ((s.core s.curCore).lane (s.fileReg d) n)
  file : ∀ r n, n < 32 → r ≠ s.fileReg d → (t.core s.curCore).lane r n = (s.core s.curCore).lane r n
  bad : ∀ r, r ∈ (t.core s.curCore).badV ↔ r ∈ (s.core s.curCore).badV ∧ ¬(r = s.fileReg d ∧ ∀ n < 32, (lanes n).isSome = true)
  me : t.me = { s.me.advance with fst := s.me.fst ||| fl.zeroExtend 64 }
  queue : Popped s t srcs
  slots : ∀ c k, s.other c k → t.slot c k = s.slot c k
  core : t.core s.curCore = { s.core s.curCore with vf := (t.core s.curCore).vf, badV := (t.core s.curCore).badV }
  cores : ∀ c, c ≠ s.curCore → t.core c = { s.core c with chq := (t.core c).chq }
  parts : t = { s with slots := t.slots, cores := t.cores }

/-- What a slot leaves that parks for reason n and waits as p says (R23): an instruction that parks has had no effect (R17), and of `k.sw` only the
park field, bits 44 to 41, is written. -/
structure Parked (s t : State) (n : Nat) (p : Pend) : Prop where
  st : t.me.st = .parked
  park : t.me.park = n % 16
  sw : ∀ i < 64, ¬(41 ≤ i ∧ i < 45) → bit t.me.sw i = bit s.me.sw i
  pend : t.me.pend = p
  rest : t.me = { s.me with st := .parked, sw := t.me.sw, pend := p, popDue := t.me.popDue }
  alone : OnlyMe s t

/-- What taking a fault leaves (R290 to R292, R295, Tables 18.1 and 18.2): the slot is STOPPED, `k.epc` holds the address of its word, the
fault registers are written, its registers and its program counter are as they were, the frame fields are cleared if `leave`, and the
notice for the tile's service core is posted. -/
structure Faulted (s t : State) (c k : Nat) (code : Nat) (faddr fault : Word) (leave : Bool) : Prop where
  cause : bits (t.slot c k).cause 0 8 = code ∧ bit (t.slot c k).cause 9 = (s.slot c k).frame ∧
    bit (t.slot c k).cause 10 = (s.slot c k).inline_
  rest : t.slot c k = { s.slot c k with
    st := .stopped, epc := (s.slot c k).pc, cause := (t.slot c k).cause, faddr := faddr, fault := fault,
    pend := (s.slot c k).owes, owed := .none, counted := false,
    sw := if leave then (s.slot c k).dropFrame.sw else (s.slot c k).sw }
  slots : ∀ c' k', slotKey c' k' ≠ slotKey c k → t.slot c' k' = s.slot c' k'
  parts : t = { s with slots := t.slots, pkg := t.pkg }
  notice : t.pkg = { s.pkg with notices := s.pkg.notices ++
    [.fault (tileOf c) (faultNotice (if bit (s.core c).owner 39 then 0 else (s.slot c k).pc) c k code (s.slot c k).tenant)] }

/-- The slot whose turn it is takes a precise fault. -/
abbrev Stops (s t : State) (code : Nat) (faddr fault : Word) (leave : Bool := false) : Prop :=
  Faulted s t s.curCore s.curSlot code faddr fault leave

/-! ## Parked instructions that complete -/

/-- What a parked instruction of slot k of core c leaves that completes without a result (R17, R23, R62): the slot is READY and stands at the
next word, its pop is made, and nothing else changes. -/
structure Resumed (s t : State) (c k : Nat) : Prop where
  slot : t.slot c k = (s.slot c k).wakeNext
  queue : ∀ c' k', t.chainOut c' k' =
    if (s.slot c k).popDue = true ∧ c' = upstream c ∧ k' = k then (s.chainOut c' k').tail else s.chainOut c' k'
  slots : ∀ c' k', slotKey c' k' ≠ slotKey c k → t.slot c' k' = s.slot c' k'
  parts : SameButChains s t
  latch : ∀ c', (t.core c').latch = (s.core c').latch

/-- What it leaves when it completes with the result v for g[d] (R17, R23, R62): the register, or for g14 while the chain bit is set the
queue, takes v; the slot is READY and stands at the next word; its pop is made; and nothing else changes but what a push sets at the
neighbour that pops. -/
structure Answered (s t : State) (c k : Nat) (d : Reg) (v : Word) : Prop where
  slot : t.slot c k = (if d = 14 ∧ s.chained c k = true then s.slot c k else (s.slot c k).setReg d v).wakeNext
  queue : ∀ c' k', t.chainOut c' k' =
    if (s.slot c k).popDue = true ∧ c' = upstream c ∧ k' = k then (s.chainOut c' k').tail
    else if (d = 14 ∧ s.chained c k = true) ∧ c' = c ∧ k' = k then s.chainOut c' k' ++ [(s.pushDue c s.now, v)]
    else s.chainOut c' k'
  slots : ∀ c' k', slotKey c' k' ≠ slotKey c k → ¬((d = 14 ∧ s.chained c k = true) ∧ slotKey c' k' = slotKey (downstream c) k) →
    t.slot c' k' = s.slot c' k'
  parts : SameButChains s t
  latch : ∀ c', ¬(d = 14 ∧ s.chained c k = true) ∨ c' ≠ downstream c → (t.core c').latch = (s.core c').latch

/-! ## Writes to memory -/

/-- Byte n of a word. -/
def byteOf (w : Word) (n : Nat) : Byte := w.extractLsb' (8 * n) 8

/-- A slot whose reservation is lost: one parked on `wrs` goes on (R227, R233). -/
def Slot.unreserve (x : Slot) : Slot :=
  match x.st, x.pend with
  | .parked, .wrs _ => { x.wakeNext with resv := none }
  | _, _ => { x with resv := none }

/-- What a write of the low `size` bytes of v, which lie in one 8-byte word at `key`, leaves, made by agent `by_` under cipher key ck (R25, R88,
R202, R227, R299, R305): read under that key, the bytes written are those of v and the word's other bytes are as they were; no byte of
another word changes, nor does any other byte of this one where the word was under the same key; a write of all eight bytes ends an
uncorrectable error; and every other agent's reservation on the 64-byte block is lost. -/
structure Stored (s t : State) (by_ : Option (Nat × Nat)) (ck key size : Nat) (v : Word) : Prop where
  word : ∀ n < 8, byteOf (t.wordAs ck key) n =
    if key % 8 ≤ n ∧ n < key % 8 + size then byteOf v (n - key % 8) else byteOf (s.wordAs ck key) n
  tag : t.tagOf key = ck
  inside : s.tagOf key = ck ∨ size = 8 → ∀ a, ¬(key ≤ a ∧ a < key + size) → t.byteAt a = s.byteAt a
  outside : ∀ a, a / 8 ≠ key / 8 → t.byteAt a = s.byteAt a ∧ t.tagOf a = s.tagOf a
  bad : ∀ a, t.badWord a = (s.badWord a && !(decide (size = 8) && decide (a / 8 = key / 8)))
  resv : ∀ c k, k < 16 → t.slot c k =
    if by_ ≠ some (c, k) ∧ (s.slot c k).resv.any (fun r => r.key = key / 64) = true then (s.slot c k).unreserve else s.slot c k
  parts : t = { s with slots := t.slots, mem := t.mem, tags := t.tags, pkg := { s.pkg with badWords := t.pkg.badWords } }

end Sys2Proof.Machine
end

