-- ==== Sys2Proof/Certificates/Slice0/Obligations.lean ====
section
/-!
DEFINITION. The statements for the provers. Each is about every state: the registers, memory and the rest of the machine are arbitrary, and the
hypotheses are on the state and the operands alone. `Passes`, `Wrote`, `WentOn`, `Parked` and `Faulted` (Safety.lean) say what issue asks
for and what an instruction leaves.
-/

namespace Sys2Proof.Claims

open Sys2Proof Sys2Proof.Machine

/-! ## Results of the register instructions -/

/-- What an instruction that only writes a register reads and writes: its g sources, its destination, its latency, whether a repeat frame
may hold it (R57), and what the spec says of the value v it writes, in the state s in which it issues. -/
structure Row where
  srcs : List Reg
  dst : Reg
  lat : Nat
  fr : Bool
  gives : State → Word → Prop

/-- v is a rotated left by n. -/
def RotLeft (a : Word) (n : Nat) (v : Word) : Prop := ∀ i < 64, v.getLsbD ((i + n) % 64) = a.getLsbD i

/-- v is the truth value of p. -/
def Truth (p : Prop) (v : Word) : Prop := (p → v = 1) ∧ (¬p → v = 0)

/-- v is the number of zero bits above the highest 1 bit of a. -/
def LeadingZeros (a v : Word) : Prop :=
  (a = 0 → v = 64) ∧ (a ≠ 0 → v.toNat < 64 ∧ a.getLsbD (63 - v.toNat) = true ∧ ∀ i, 63 - v.toNat < i → a.getLsbD i = false)

/-- v is the number of zero bits below the lowest 1 bit of a. -/
def TrailingZeros (a v : Word) : Prop :=
  (a = 0 → v = 64) ∧ (a ≠ 0 → v.toNat < 64 ∧ a.getLsbD v.toNat = true ∧ ∀ i < v.toNat, a.getLsbD i = false)

/-- Signed64 of the value read from a register. -/
def sg (s : State) (r : Reg) : Int := (s.src r).toInt
/-- Unsigned64 of the value read from a register. -/
def un (s : State) (r : Reg) : Nat := (s.src r).toNat
/-- The shift amount: bits 5:0 of the value read from a register. -/
def sh (s : State) (r : Reg) : Nat := un s r % 64

/-- A row of an instruction with two register sources, latency `lat`. -/
def row2 (d a b : Reg) (lat : Nat) (f : State → Word → Prop) : Option Row := some ⟨[a, b], d, lat, true, f⟩
/-- A row of an instruction with one register source. -/
def row1 (d a : Reg) (f : State → Word → Prop) : Option Row := some ⟨[a], d, 1, true, f⟩

/-- R64, Table 4.1: the integer register operations. -/
def integerRow : Instr → Option Row
  | .add d a b => row2 d a b 1 (fun s v => v = BitVec.ofNat 64 (un s a + un s b))
  | .sub d a b => row2 d a b 1 (fun s v => v = BitVec.ofInt 64 (sg s a - sg s b))
  | .and d a b => row2 d a b 1 (fun s v => ∀ i, v.getLsbD i = ((s.src a).getLsbD i && (s.src b).getLsbD i))
  | .or d a b => row2 d a b 1 (fun s v => ∀ i, v.getLsbD i = ((s.src a).getLsbD i || (s.src b).getLsbD i))
  | .xor d a b => row2 d a b 1 (fun s v => ∀ i, v.getLsbD i = ((s.src a).getLsbD i ^^ (s.src b).getLsbD i))
  | .sll d a b => row2 d a b 1 (fun s v => v = BitVec.ofNat 64 (un s a * 2 ^ sh s b))
  | .srl d a b => row2 d a b 1 (fun s v => v.toNat = un s a / 2 ^ sh s b)
  | .sra d a b => row2 d a b 1 (fun s v => v.toInt = sg s a / 2 ^ sh s b)
  | .rol d a b => row2 d a b 1 (fun s v => RotLeft (s.src a) (sh s b) v)
  | .ror d a b => row2 d a b 1 (fun s v => RotLeft (s.src a) (64 - sh s b) v)
  | .min d a b => row2 d a b 1 (fun s v => (v = s.src a ∨ v = s.src b) ∧ v.toInt ≤ sg s a ∧ v.toInt ≤ sg s b)
  | .max d a b => row2 d a b 1 (fun s v => (v = s.src a ∨ v = s.src b) ∧ sg s a ≤ v.toInt ∧ sg s b ≤ v.toInt)
  | .minz d a b => row2 d a b 1 (fun s v => (v = s.src a ∨ v = s.src b) ∧ v.toNat ≤ un s a ∧ v.toNat ≤ un s b)
  | .maxz d a b => row2 d a b 1 (fun s v => (v = s.src a ∨ v = s.src b) ∧ un s a ≤ v.toNat ∧ un s b ≤ v.toNat)
  | .seq d a b => row2 d a b 1 (fun s v => Truth (s.src a = s.src b) v)
  | .slt d a b => row2 d a b 1 (fun s v => Truth (sg s a < sg s b) v)
  | .sltz d a b => row2 d a b 1 (fun s v => Truth (un s a < un s b) v)
  | .sel d a b c => some ⟨[a, b, c], d, 1, true, fun s v => v = if s.src c ≠ 0 then s.src a else s.src b⟩
  | .clz d a => row1 d a (fun s v => LeadingZeros (s.src a) v)
  | .ctz d a => row1 d a (fun s v => TrailingZeros (s.src a) v)
  | .popc d a => row1 d a (fun s v => v.toNat = ((List.range 64).filter (fun i => (s.src a).getLsbD i)).length)
  | .sextB d a => row1 d a (fun s v => v = ((s.src a).truncate 8).signExtend 64)
  | .sextH d a => row1 d a (fun s v => v = ((s.src a).truncate 16).signExtend 64)
  | .sextW d a => row1 d a (fun s v => v = ((s.src a).truncate 32).signExtend 64)
  | .zextB d a => row1 d a (fun s v => v.toNat = un s a % 2 ^ 8)
  | .zextH d a => row1 d a (fun s v => v.toNat = un s a % 2 ^ 16)
  | .zextW d a => row1 d a (fun s v => v.toNat = un s a % 2 ^ 32)
  | _ => none

/-- R65: the multiplications, latency 4 clk. -/
def multiplyRow : Instr → Option Row
  | .mul d a b => row2 d a b 4 (fun s v => v = BitVec.ofInt 64 (sg s a * sg s b))
  | .mulh d a b => row2 d a b 4 (fun s v => v = BitVec.ofInt 64 (sg s a * sg s b / 2 ^ 64))
  | .mulhz d a b => row2 d a b 4 (fun s v => v.toNat = un s a * un s b / 2 ^ 64)
  | _ => none

/-- R68 to R71: the immediate forms. -/
def immediateRow : Instr → Option Row
  | .addi d a imm => row1 d a (fun s v => v = BitVec.ofInt 64 (sg s a + imm.toInt))
  | .andi d a imm => row1 d a (fun s v => ∀ i < 64, v.getLsbD i = ((s.src a).getLsbD i && imm.getLsbD (Nat.min i 17)))
  | .ori d a imm => row1 d a (fun s v => ∀ i < 64, v.getLsbD i = ((s.src a).getLsbD i || imm.getLsbD (Nat.min i 17)))
  | .xori d a imm => row1 d a (fun s v => ∀ i < 64, v.getLsbD i = ((s.src a).getLsbD i ^^ imm.getLsbD (Nat.min i 17)))
  | .slti d a imm => row1 d a (fun s v => Truth (sg s a < imm.toInt) v)
  | .slli d a n => row1 d a (fun s v => v = BitVec.ofNat 64 (un s a * 2 ^ n.toNat))
  | .srli d a n => row1 d a (fun s v => v.toNat = un s a / 2 ^ n.toNat)
  | .srai d a n => row1 d a (fun s v => v.toInt = sg s a / 2 ^ n.toNat)
  | .rori d a n => row1 d a (fun s v => RotLeft (s.src a) (64 - n.toNat) v)
  | .bfx d a pos len => row1 d a (fun s v => v.toNat = un s a / 2 ^ pos.toNat % 2 ^ (len.toNat + 1))
  | .bfi d a pos len => some ⟨[a, d], d, 1, true, fun s v =>
      v.toNat + un s d / 2 ^ pos.toNat % 2 ^ (len.toNat + 1) * 2 ^ pos.toNat = un s d + un s a % 2 ^ (len.toNat + 1) * 2 ^ pos.toNat⟩
  | .lui d imm => some ⟨[], d, 1, false, fun _ v => v = BitVec.ofInt 64 (imm.toInt * 2 ^ 18)⟩
  | .addpc d imm => some ⟨[], d, 1, false, fun s v => v = BitVec.ofInt 64 (s.me.pc.toNat + 4 * imm.toInt)⟩
  | _ => none

/-- A table of rows holds of the machine: each of its well-formed instructions, whenever its checks pass, answers the state in which g[d] has a
value as the table says. -/
def RowsHold (t : Instr → Option Row) : Prop :=
  ∀ (s : State) (i : Instr) (r : Row), t i = some r → i.wf = true → PassesG s r.fr r.srcs (some r.dst) →
    ∃ u v, exec i s = .next u ∧ r.gives s v ∧ Wrote s u r.srcs r.dst v 0 r.lat

/-! ## Division -/

/-- R66: quotient and remainder of a division: signed or not, and the remainder or not. -/
def divisionOf : Instr → Option (Reg × Reg × Reg × (Word → Word → Word → Prop))
  | .div d a b => some (d, a, b, fun x y v =>
      (y = 0 → v.toInt = -1) ∧ (y ≠ 0 → v = BitVec.ofInt 64 (x.toInt.tdiv y.toInt)))
  | .rem d a b => some (d, a, b, fun x y v => (y = 0 → v = x) ∧ (y ≠ 0 → v.toInt = x.toInt - x.toInt.tdiv y.toInt * y.toInt))
  | .divz d a b => some (d, a, b, fun x y v => (y = 0 → v.toNat = 2 ^ 64 - 1) ∧ (y ≠ 0 → v.toNat = x.toNat / y.toNat))
  | .remz d a b => some (d, a, b, fun x y v => (y = 0 → v = x) ∧ (y ≠ 0 → v.toNat + x.toNat / y.toNat * y.toNat = x.toNat))
  | _ => none

/-! ## Scalar FP32 -/

/-- The low 32 bits of the value read from a register, as a binary32 pattern (R72). -/
def f32 (s : State) (r : Reg) : Nat := un s r % 2 ^ 32

/-- The relations of `fcmp` on binary32 patterns, and when one sets nv (R74, R76): any signalling NaN, and for `lt` and `le` any NaN. -/
def compares (r : FRel) (x y : Nat) : Bool × Fl :=
  let p := fmtF32.decode x
  let q := fmtF32.decode y
  let nan := p.isNan || q.isNan
  let sig := p.sig || q.sig
  match r with
  | .eq => (!nan && !p.lt q && !q.lt p, if sig then flNv else 0)
  | .lt => (!nan && p.lt q, if nan then flNv else 0)
  | .le => (!nan && !q.lt p, if nan then flNv else 0)
  | .un => (nan, if sig then flNv else 0)

/-- R72 to R77: sources, destination, and result with the `k.fst` bits that come into place with it. Arithmetic, comparison of values and
conversion are those of the number formats (R90 to R104). -/
def floatRow : Instr → Option (List Reg × Reg × (State → Nat × Fl) × (Nat → Word))
  | .fadd d a b => some ([a, b], d, fun s => fmtF32.add (f32 s a) (f32 s b), fun n => BitVec.ofNat 64 n)
  | .fsub d a b => some ([a, b], d, fun s => fmtF32.sub (f32 s a) (f32 s b), fun n => BitVec.ofNat 64 n)
  | .fmul d a b => some ([a, b], d, fun s => fmtF32.mul (f32 s a) (f32 s b), fun n => BitVec.ofNat 64 n)
  | .ffma d a b c => some ([a, b, c], d, fun s => fmtF32.fma (f32 s a) (f32 s b) (f32 s c), fun n => BitVec.ofNat 64 n)
  | .fmin d a b => some ([a, b], d, fun s => fmtF32.minmax false (f32 s a) (f32 s b), fun n => BitVec.ofNat 64 n)
  | .fmax d a b => some ([a, b], d, fun s => fmtF32.minmax true (f32 s a) (f32 s b), fun n => BitVec.ofNat 64 n)
  | .fcmpEq d a b => some ([a, b], d, fun s => ((compares .eq (f32 s a) (f32 s b)).1.toNat, (compares .eq (f32 s a) (f32 s b)).2), fun n => BitVec.ofNat 64 n)
  | .fcmpLt d a b => some ([a, b], d, fun s => ((compares .lt (f32 s a) (f32 s b)).1.toNat, (compares .lt (f32 s a) (f32 s b)).2), fun n => BitVec.ofNat 64 n)
  | .fcmpLe d a b => some ([a, b], d, fun s => ((compares .le (f32 s a) (f32 s b)).1.toNat, (compares .le (f32 s a) (f32 s b)).2), fun n => BitVec.ofNat 64 n)
  | .fcmpUn d a b => some ([a, b], d, fun s => ((compares .un (f32 s a) (f32 s b)).1.toNat, (compares .un (f32 s a) (f32 s b)).2), fun n => BitVec.ofNat 64 n)
  | .fcvtF32i32 d a => some ([a], d, fun s => convert .i32 .f32 false false (f32 s a), fun n => BitVec.ofNat 64 n)
  | .fcvtF32i64 d a => some ([a], d, fun s => convert .i64 .f32 false false (un s a), fun n => BitVec.ofNat 64 n)
  | .fcvtI32f32 d a => some ([a], d, fun s => convert .f32 .i32 false false (f32 s a), fun n => (BitVec.ofNat 32 n).signExtend 64)
  | .fcvtI64f32 d a => some ([a], d, fun s => convert .f32 .i64 false false (f32 s a), fun n => BitVec.ofNat 64 n)
  | .fcvtI32f32Rz d a => some ([a], d, fun s => convert .f32 .i32 true false (f32 s a), fun n => (BitVec.ofNat 32 n).signExtend 64)
  | .fcvtI64f32Rz d a => some ([a], d, fun s => convert .f32 .i64 true false (f32 s a), fun n => BitVec.ofNat 64 n)
  | _ => none

/-! ## Number formats (R91 to R103, R121 to R125) -/

/-- m · 2^e is at most n · 2^d. -/
abbrev AtMost (m : Nat) (e : Int) (n : Nat) (d : Int) : Prop := m * 2 ^ (e - min e d).toNat ≤ n * 2 ^ (d - min e d).toNat
/-- a · 2^e is b · 2^d. -/
abbrev SameValue (a : Int) (e : Int) (b : Int) (d : Int) : Prop := a * 2 ^ (e - min e d).toNat = b * 2 ^ (d - min e d).toNat
/-- A magnitude with its sign. -/
def withSign (neg : Bool) (m : Nat) : Int := if neg = true then -(m : Int) else m

/-- R94: n is m · 2^e in units of 2^u, rounded to nearest with ties to even, or under `rz` toward zero. -/
def RoundsTo (rz : Bool) (m : Nat) (e u : Int) (n : Nat) : Prop :=
  let x := m * 2 ^ (e - min e u).toNat
  let w := 2 ^ (u - min e u).toNat
  (rz = true → n * w ≤ x ∧ x < (n + 1) * w) ∧
  (rz = false → 2 * x ≤ (2 * n + 1) * w ∧ 2 * n * w ≤ 2 * x + w ∧ (2 * x = (2 * n + 1) * w ∨ 2 * n * w = 2 * x + w → n % 2 = 0))

/-- R91 to R93, Tables 5.1 and 5.2: what a pattern of sign s, exponent field e and fraction fr means. -/
def PatternsMean (f : Fmt) : Prop := ∀ (s : Bool) (e fr : Nat), e < 2 ^ f.eb → fr < 2 ^ f.fb →
  let v := f.decode ((if s = true then 2 ^ (f.eb + f.fb) else 0) + e * 2 ^ f.fb + fr)
  let top := e = 2 ^ f.eb - 1
  (f.hasInf = true → top → fr = 0 → v = .inf s) ∧ (f.hasInf = true → top → fr ≠ 0 → v = .nan (decide (fr < 2 ^ (f.fb - 1)))) ∧
  (f.hasInf = false → top → fr = 2 ^ f.fb - 1 → v = .nan false) ∧
  (e = 0 → v = .fin s fr (1 - (f.bias : Int) - f.fb)) ∧
  (e ≠ 0 → (¬top ∨ (f.hasInf = false ∧ fr ≠ 2 ^ f.fb - 1)) → v = .fin s (2 ^ f.fb + fr) ((e : Int) - f.bias - f.fb))

/-- R94, R100, R101: the rounding of ±m · 2^e to a format: the nearest value of the format's precision, its subnormal spacing kept; beyond the largest
finite value the outcome of an overflow; nx where the result differs, and uf where it is tiny as well. -/
def RoundsRight (f : Fmt) : Prop := ∀ (rz sat neg : Bool) (m : Nat) (e : Int), 0 < m →
  let r := f.round rz sat neg m e
  let top := e + Nat.log2 m
  let emin := 1 - (f.bias : Int)
  let u := max top emin - f.fb
  ∀ n, RoundsTo rz m e u n → ∀ big d, f.decode f.max = .fin false big d →
    (¬AtMost n u big d →
      (rz = true ∨ sat = true → r = (f.signed neg f.max, flOf ||| flNx ||| if sat = true then flSat else 0)) ∧
      (rz = false → sat = false → f.hasInf = true → f.decode r.1 = .inf neg ∧ r.2 = flOf ||| flNx) ∧
      (rz = false → sat = false → f.hasInf = false → r = (f.nan, flOf ||| flNx ||| flNv))) ∧
    (AtMost n u big d → r.1 < 2 ^ (1 + f.eb + f.fb) ∧ (∃ k g, f.decode r.1 = .fin neg k g ∧ SameValue k g n u) ∧
      (SameValue m e n u → r.2 = 0) ∧
      (¬SameValue m e n u → ∀ k, RoundsTo rz m e (top - f.fb) k →
        r.2 = if AtMost 1 emin k (top - f.fb) then flNx else flNx ||| flUf))

/-- R73, R74, R94: sum, product and fused product-sum of a format are the exact value rounded once; a zero sum of opposite signs is +0. -/
def ArithmeticRight (f : Fmt) : Prop := ∀ (x y z : Nat) (a b c : Bool) (m n l : Nat) (e d g : Int),
  f.decode x = .fin a m e → f.decode y = .fin b n d → f.decode z = .fin c l g →
  let sum (b : Bool) : Int := withSign a m * 2 ^ (e - min e d).toNat + withSign b n * 2 ^ (d - min e d).toNat
  let fused : Int := withSign (a != b) (m * n) * 2 ^ (e + d - min (e + d) g).toNat + withSign c l * 2 ^ (g - min (e + d) g).toNat
  (∃ s k h, f.add x y = f.round false false s k h ∧ SameValue (withSign s k) h (sum b) (min e d) ∧ (k = 0 → s = (a && b))) ∧
  (∃ s k h, f.sub x y = f.round false false s k h ∧ SameValue (withSign s k) h (sum (!b)) (min e d) ∧ (k = 0 → s = (a && !b))) ∧
  (∃ k h, f.mul x y = f.round false false (a != b) k h ∧ SameValue k h (m * n) (e + d)) ∧
  (∃ s k h, f.fma x y z = f.round false false s k h ∧ SameValue (withSign s k) h fused (min (e + d) g) ∧ (k = 0 → s = ((a != b) && c)))

/-- R73, R74: a NaN, infinity less infinity and zero times infinity give the canonical NaN; the latter two and a signalling operand set nv. -/
def SpecialsRight (f : Fmt) : Prop := ∀ (x y z : Nat),
  let a := f.decode x
  let b := f.decode y
  let c := f.decode z
  let sig := a = .nan true ∨ b = .nan true
  let nan := (∃ s, a = .nan s) ∨ ∃ s, b = .nan s
  let zeroInf := (∃ s, a = .inf s ∧ ∃ t e, b = .fin t 0 e) ∨ ∃ s, b = .inf s ∧ ∃ t e, a = .fin t 0 e
  (nan → f.add x y = (f.nan, if sig then flNv else 0) ∧ f.sub x y = (f.nan, if sig then flNv else 0) ∧
    f.mul x y = (f.nan, if sig then flNv else 0)) ∧
  (nan ∨ (∃ s, c = .nan s) → (f.fma x y z).1 = f.nan ∧ (sig ∨ c = .nan true ∨ zeroInf → (f.fma x y z).2 = flNv) ∧
    (¬(sig ∨ c = .nan true ∨ zeroInf) → (f.fma x y z).2 = 0)) ∧
  (∀ s, a = .inf s → b = .inf (!s) → f.add x y = (f.nan, flNv)) ∧ (∀ s, a = .inf s → b = .inf s → f.sub x y = (f.nan, flNv)) ∧
  (zeroInf → f.mul x y = (f.nan, flNv) ∧ f.fma x y z = (f.nan, flNv)) ∧
  (f.hasInf = true → ∀ s, a = .inf s →
    (b ≠ .inf (!s) → ¬nan → f.decode (f.add x y).1 = .inf s ∧ (f.add x y).2 = 0) ∧
    (b ≠ .inf s → ¬nan → f.decode (f.sub x y).1 = .inf s ∧ (f.sub x y).2 = 0))

/-- R75: the smaller or the larger of two operands is one of them, unchanged: by their values, −0 below +0; a lone NaN yields the other operand, two
the canonical NaN; a signalling NaN sets nv, and nothing else sets a flag. -/
def MinMaxRight (f : Fmt) : Prop := ∀ (larger : Bool) (x y : Nat),
  let a := f.decode x
  let b := f.decode y
  let nanA := ∃ s, a = .nan s
  let nanB := ∃ s, b = .nan s
  let negative (p : Nat) : Prop := p / 2 ^ (f.eb + f.fb) % 2 = 1
  let r := f.minmax larger x y
  (r.2 = if a = .nan true ∨ b = .nan true then flNv else 0) ∧
  (nanA → nanB → r.1 = f.nan) ∧ (nanA → ¬nanB → r.1 = y) ∧ (¬nanA → nanB → r.1 = x) ∧ (¬nanA → ¬nanB → r.1 = x ∨ r.1 = y) ∧
  (∀ s, a = .inf s → b ≠ .inf s → ¬nanB → r.1 = if s = larger then y else x) ∧
  (∀ s, b = .inf s → a ≠ .inf s → ¬nanA → r.1 = if s = larger then x else y) ∧
  ∀ s m e t n d, a = .fin s m e → b = .fin t n d →
    let p := withSign s m * 2 ^ (e - min e d).toNat
    let q := withSign t n * 2 ^ (d - min e d).toNat
    (p < q ∨ (p = q ∧ negative x ∧ ¬negative y) → r.1 = if larger = true then y else x) ∧
    (q < p ∨ (p = q ∧ ¬negative x ∧ negative y) → r.1 = if larger = true then x else y)

/-- R95: V(m) · 2^19, and 0 for the zero code. -/
def logMag (m : Int) : Nat := if m = -16 then 0 else [32768, 38968, 46341, 55109].getD (m % 4).toNat 0 * 2 ^ (m / 4 + 4).toNat
/-- R95: the code of ±V(m), zero being 0x10. -/
def logPattern (neg : Bool) (m : Int) : Nat := if m = -16 then 0x10 else (if neg = true then 32 else 0) + (m % 32).toNat

/-- R102: ±x · 2^e, x not zero, to log6: the nearest code, ties to the even one, or under `rz` the greatest not above; beyond the threshold an overflow. -/
def LogRoundsRight : Prop := ∀ (rz sat neg : Bool) (x : Nat) (e : Int), 0 < x →
  let r := toLog rz sat (.fin neg x e)
  let w := min e (-20)
  let at_ : Int := x * 2 ^ (e - w).toNat
  let v (m : Int) : Int := logMag m * 2 ^ (-19 - w).toNat
  let beyond := if rz = true then v 15 < at_ else ¬AtMost x e 118986 (-13) ∨ SameValue x e 118986 (-13)
  (beyond → r = if sat = true then (0x0F + (if neg = true then 32 else 0), flOf ||| flNx ||| flSat)
    else if rz = true then (0x0F + (if neg = true then 32 else 0), flOf ||| flNx) else (0x30, flNv ||| flOf ||| flNx)) ∧
  (¬beyond → ∃ m : Int, -16 ≤ m ∧ m ≤ 15 ∧ r.1 = logPattern neg m ∧
    r.2 = (if m = -16 then flUf ||| flNx else if v m = at_ then 0 else flNx) ∧
    (rz = true → v m ≤ at_ ∧ ∀ j : Int, -16 ≤ j → j ≤ 15 → v j ≤ at_ → v j ≤ v m) ∧
    (rz = false → ∀ j : Int, -16 ≤ j → j ≤ 15 → j ≠ m →
      (at_ - v m).natAbs ≤ (at_ - v j).natAbs ∧ ((at_ - v m).natAbs = (at_ - v j).natAbs → m % 2 = 0)))

/-- R98, R99, R103: a conversion to an integer type: rounded, clamped to the type's range, NaN to zero. -/
def IntegersRight (w : Nat) : Prop := ∀ (rz : Bool),
  let hi : Int := 2 ^ (w - 1) - 1
  let lo : Int := -(2 ^ (w - 1))
  (∀ s, toInteger w rz (.nan s) = (0, flNv ||| flSat)) ∧
  toInteger w rz (.inf false) = (2 ^ (w - 1) - 1, flNv ||| flSat) ∧ toInteger w rz (.inf true) = (2 ^ (w - 1), flNv ||| flSat) ∧
  ∀ (neg : Bool) (m : Nat) (e : Int) (n : Nat), RoundsTo rz m e 0 n →
    let v := withSign neg n
    let r := toInteger w rz (.fin neg m e)
    (hi < v → r = (2 ^ (w - 1) - 1, flNv ||| flSat)) ∧ (v < lo → r = (2 ^ (w - 1), flNv ||| flSat)) ∧
    (lo ≤ v → v ≤ hi → r.1 = (v % 2 ^ w).toNat ∧ r.2 = if SameValue m e n 0 then 0 else flNx)

/-- R98, R100, R101, R103: a conversion to a floating type: special inputs, and the one rounding of any other. -/
def FloatsRight (f : Fmt) : Prop := ∀ (rz sat : Bool),
  (∀ s, toFloat f rz sat (.nan s) = (f.nan, if s = true then flNv else 0)) ∧
  (∀ neg, f.hasInf = true → f.decode (toFloat f rz sat (.inf neg)).1 = .inf neg ∧ (toFloat f rz sat (.inf neg)).2 = 0) ∧
  (∀ neg, f.hasInf = false → toFloat f rz sat (.inf neg) = if sat = true then (f.signed neg f.max, flNx ||| flSat) else (f.nan, flNv)) ∧
  (∀ neg e, toFloat f rz sat (.fin neg 0 e) = (f.signed neg 0, 0)) ∧
  ∀ neg m e, toFloat f rz sat (.fin neg m e) = f.round rz sat neg m e

/-- R90, R98, Table 5.4: which conversion a pair of types takes: low bits or a clamp between integers; else the exact value of the element, to
the destination. -/
def PairsConvert : Prop := ∀ (src dst : ETy) (rz sat : Bool) (x : Nat),
  let r := convert src dst rz sat x
  let v := toSigned src.width x
  let lo : Int := -(2 ^ (dst.width - 1))
  let hi : Int := 2 ^ (dst.width - 1) - 1
  (src.isInt = true → dst.isInt = true →
    (sat = false ∨ (lo ≤ v ∧ v ≤ hi) → r = ((v % 2 ^ dst.width).toNat, 0)) ∧
    (sat = true → hi < v → r = (2 ^ (dst.width - 1) - 1, flSat)) ∧ (sat = true → v < lo → r = (2 ^ (dst.width - 1), flSat))) ∧
  (src.isInt = true → src.decode x = .fin (decide (v < 0)) v.natAbs 0) ∧
  (src.isInt = false → dst.isInt = true → r = toInteger dst.width rz (src.decode x)) ∧
  (dst = .l6 → r = toLog rz sat (src.decode x)) ∧
  (dst.isInt = false → dst ≠ .l6 → r = toFloat dst.fmt rz sat (src.decode x))

/-- R95, R102, R103: what log6 codes mean, and what is not a finite source. -/
def LogCodesRight : Prop :=
  (∀ (neg : Bool) (m : Int), -15 ≤ m → m ≤ 15 → ETy.l6.decode (logPattern neg m) = .fin neg (logMag m) (-19)) ∧
  ETy.l6.decode 0x10 = .fin false 0 0 ∧ ETy.l6.decode 0x30 = .nan false ∧ (∀ x, ETy.l6.decode x = ETy.l6.decode (x % 64)) ∧
  ∀ (rz sat neg : Bool), (∀ e, toLog rz sat (.fin neg 0 e) = (0x10, 0)) ∧ (∀ s, toLog rz sat (.nan s) = (0x30, if s = true then flNv else 0)) ∧
    toLog rz sat (.inf neg) = if sat = true then (0x0F + (if neg = true then 32 else 0), flNx ||| flSat) else (0x30, flNv)

/-- R122, R124, R125: the tables of the approximations are their functions rounded to nearest; of `vlog2`'s the ends, and that it rises (R123). -/
def TablesRight : Prop :=
  (∀ k ≤ 64, let n := expTable.getD k 0; (2 * n - 1) ^ 64 ≤ 2 ^ (k + 1984) ∧ 2 ^ (k + 1984) ≤ (2 * n + 1) ^ 64) ∧
  (∀ k ≤ 64, let n := rcpTable.getD k 0; (2 * n - 1) * (64 + k) ≤ 2 ^ 38 ∧ 2 ^ 38 ≤ (2 * n + 1) * (64 + k)) ∧
  (∀ k ≤ 128, let n := rsqTable.getD k 0
    let t := if k ≤ 64 then 64 + k else 128 + 2 * (k - 64)
    (2 * n - 1) ^ 2 * t ≤ 2 ^ 70 ∧ 2 ^ 70 ≤ (2 * n + 1) ^ 2 * t) ∧
  logTable.getD 0 0 = 0 ∧ logTable.getD 64 0 = 2 ^ 30 ∧ ∀ k < 64, logTable.getD k 0 < logTable.getD (k + 1) 0

/-- R121 to R125: the four approximations of ±2^e · (1 + fr · 2^−23), a finite element that is not zero: a value formed in integers from the tables,
rounded once. -/
def ApproximationsRight (t : ETy) : Prop := ∀ (x m : Nat) (neg : Bool) (g e : Int) (fr : Nat), t.decode x = .fin neg m g → 0 < m →
  fr < 2 ^ 23 → SameValue m g (2 ^ 23 + fr) (e - 23) →
  let out (s : Bool) (n : Nat) (h : Int) : Nat × Fl := t.fmt.round false false s n h
  let k := fr / 2 ^ 17
  let d := fr % 2 ^ 17
  (neg = false → 7 ≤ e → t.fmt.decode (approxExp2 t x).1 = .inf false ∧ (approxExp2 t x).2 = flOf ||| flNx) ∧
  (neg = true → ¬AtMost m g 150 0 → approxExp2 t x = (0, flUf ||| flNx)) ∧
  ((neg = false ∧ e < 7) ∨ (neg = true ∧ AtMost m g 150 0) → ∀ n, RoundsTo false m (g + 16) 0 n →
    let y := withSign neg n
    let q := (y % 65536).toNat
    let a := expTable.getD (q / 1024) 0
    approxExp2 t x = out false (a + (expTable.getD (q / 1024 + 1) 0 - a) * (q % 1024) / 1024) (y / 65536 - 30)) ∧
  (neg = true → approxLog2 t x = (t.fmt.nan, flNv) ∧ approxRsq t x = (t.fmt.nan, flNv)) ∧
  (neg = false →
    let v := e * 2 ^ 30 + ((logTable.getD k 0 + (logTable.getD (k + 1) 0 - logTable.getD k 0) * d / 2 ^ 17 : Nat) : Int)
    approxLog2 t x = out (decide (v < 0)) v.natAbs (-30)) ∧
  approxRcp t x = out neg (rcpTable.getD k 0 - (rcpTable.getD k 0 - rcpTable.getD (k + 1) 0) * d / 2 ^ 17) (-e - 31) ∧
  (neg = false →
    let u := e % 2
    let a := rsqTable.getD (64 * u.toNat + k) 0
    approxRsq t x = out false (a - (a - rsqTable.getD (64 * u.toNat + k + 1) 0) * d / 2 ^ 17) (-((e - u) / 2) - 31))

/-- Table 6.4: the operands of the approximations that are no finite number but zero. -/
def ApproximationSpecials (t : ETy) : Prop := ∀ x,
  let inf (s : Bool) (r : Nat × Fl) : Prop := t.fmt.decode r.1 = .inf s ∧ r.2 = 0
  (∀ sig, t.decode x = .nan sig → ∀ f ∈ [approxExp2, approxLog2, approxRcp, approxRsq], f t x = (t.fmt.nan, if sig = true then flNv else 0)) ∧
  (t.decode x = .inf false → inf false (approxExp2 t x) ∧ inf false (approxLog2 t x) ∧ approxRcp t x = (0, 0) ∧ approxRsq t x = (0, 0)) ∧
  (t.decode x = .inf true → approxExp2 t x = (0, 0) ∧ approxLog2 t x = (t.fmt.nan, flNv) ∧ approxRcp t x = (t.fmt.signed true 0, 0) ∧
    approxRsq t x = (t.fmt.nan, flNv)) ∧
  (∀ s e, t.decode x = .fin s 0 e → approxExp2 t x = t.fmt.round false false false 1 0 ∧ inf true (approxLog2 t x) ∧
    inf s (approxRcp t x) ∧ inf s (approxRsq t x))

/-! ## Control transfer -/

/-- The tests of a value against zero (Table 3.2). -/
def Holds (cond : BitVec 3) (x : Int) : Prop :=
  (cond = 0 ∧ x = 0) ∨ (cond = 1 ∧ x ≠ 0) ∨ (cond = 2 ∧ x < 0) ∨ (cond = 3 ∧ 0 ≤ x) ∨ (cond = 4 ∧ x ≤ 0) ∨ (cond = 5 ∧ 0 < x) ∨ cond = 6

/-- R16: an address as a program counter holds it: 57 bits, sign-extended. -/
def pcOf (x : Word) : Word := (x.truncate 57).signExtend 64

/-- R16, Table 2.1: an address as a program counter holds it that is no multiple of 4: the word it lies in. -/
def pcDown (x : Word) : Word := pcOf (BitVec.ofNat 64 (x.toNat / 4 * 4))

/-- The address n words away from the program counter, as a program counter holds it (R16, R33). -/
def wordsAway (s : State) (n : Int) : Word := pcOf (BitVec.ofInt 64 (s.me.pc.toNat + 4 * n))

/-- An address with bits 63:57 all equal to bit 56 (R81). -/
def Canonical (x : Word) : Prop := ∀ i, 57 ≤ i → i < 64 → x.getLsbD i = x.getLsbD 56

/-! ## Frames -/

/-- A g field as replay r of a frame steps it (R58). -/
def stepG (x : Slot) (lo : Nat) (r : Reg) : Reg := BitVec.ofNat 4 (r.toNat + bits x.sw 8 4 * bits x.sw lo 4)
/-- A v field as replay r of a frame steps it (R58): modulo the registers of the window. -/
def stepV (x : Slot) (lo : Nat) (r : VReg) : VReg := BitVec.ofNat 6 ((r.toNat + bits x.sw 8 4 * bits x.sw lo 4) % (4 * x.vsize))

/-- The majors that may stand in a frame (R57). -/
def frameMajor (op : Nat) : Bool := (1 ≤ op && op ≤ 9) || op = 0x0C || (0x20 ≤ op && op ≤ 0x28) || (0x2A ≤ op && op ≤ 0x2F)

/-- A word's major opcode, and its fn of formats A and V (Table 3.1). -/
def majorOf (w : BitVec 32) : Nat := (w.extractLsb' 26 6).toNat
/-- Tables 3.4 and 3.6: the scalar words of format A that name one source, and leave b zero. -/
def oneSource (w : BitVec 32) : Bool :=
  let fn := (w.extractLsb' 0 10).toNat
  (majorOf w = 0x01 && 0x12 ≤ fn && fn ≤ 0x1A) || (majorOf w = 0x0C && 0x0A ≤ fn)
/-- Tables 3.8 and 3.9: the vector words whose vd holds a destination g register: compares and `vext`. -/
def vdNamesG (w : BitVec 32) : Bool :=
  let fn := (w.extractLsb' 0 4).toNat
  (majorOf w ≤ 0x26 && 12 ≤ fn && fn ≤ 14) || (majorOf w = 0x27 && fn = 9)
/-- Table 3.9: those whose va holds a source g register: `vbcast` and `vins`. -/
def vaNamesG (w : BitVec 32) : Bool :=
  let fn := (w.extractLsb' 0 4).toNat
  majorOf w = 0x27 && (fn = 7 || fn = 8)
/-- Tables 3.8 and 3.9: those whose vb names a vector register, and not a lane, a type code or zero. -/
def vbNamesV (w : BitVec 32) : Bool :=
  let op := majorOf w
  let fn := (w.extractLsb' 0 4).toNat
  if op ≤ 0x23 then fn ≠ 15
  else if op ≤ 0x26 then fn ≤ 5 || (12 ≤ fn && fn ≤ 14)
  else if op = 0x27 then fn = 0 || fn = 2 || fn = 3 || fn = 4 || fn = 6
  else op ≠ 0x28
/-- The vector fields of a frame word name registers of the window (R115). -/
def FieldsInWindow (x : Slot) (w : BitVec 32) : Prop :=
  0x20 ≤ majorOf w →
    (vdNamesG w = false → (w.extractLsb' 20 6).toNat < 4 * x.vsize) ∧ (vaNamesG w = false → (w.extractLsb' 14 6).toNat < 4 * x.vsize) ∧
    (vbNamesV w = true → (w.extractLsb' 8 6).toNat < 4 * x.vsize)

/-- The instructions of the opcode table that have a word. -/
def IsWord (i : Instr) : Prop := isEvent i = false ∧ ∀ w, i ≠ .unassignedWord w

/-- Word formats A and E (R30): op, d, a, b, c, fn. -/
def fmtA (op : BitVec 6) (d a b c : BitVec 4) (fn : BitVec 10) : BitVec 32 := op ++ d ++ a ++ b ++ c ++ fn
/-- Word format I: op, d, a, imm. -/
def fmtI (op : BitVec 6) (d a : BitVec 4) (imm : BitVec 18) : BitVec 32 := op ++ d ++ a ++ imm
/-- Word format U: op, d, imm. -/
def fmtU (op : BitVec 6) (d : BitVec 4) (imm : BitVec 22) : BitVec 32 := op ++ d ++ imm
/-- Word format M: op, d, a, sz, sc, od, off. -/
def fmtM (op : BitVec 6) (d a : BitVec 4) (sz : BitVec 2) (sc : BitVec 3) (od : BitVec 2) (off : BitVec 11) : BitVec 32 :=
  op ++ d ++ a ++ sz ++ sc ++ od ++ off
/-- Word format B: op, a, cond, off. -/
def fmtB (op : BitVec 6) (a : BitVec 4) (cond : BitVec 3) (off : BitVec 19) : BitVec 32 := op ++ a ++ cond ++ off
/-- Word format V: op, vd, va, vb, m, fn. -/
def fmtV (op vd va vb : BitVec 6) (m fn : BitVec 4) : BitVec 32 := op ++ vd ++ va ++ vb ++ m ++ fn
/-- Word format F: op, n − 1, t − 1, sd, sa, sb, zero. -/
def fmtF (op : BitVec 6) (n t sd sa sb : BitVec 4) : BitVec 32 := op ++ n ++ t ++ sd ++ sa ++ sb ++ 0#6

/-- R58, R84, R116: a frame word with its register fields stepped as the replay issues it. -/
def steppedWord (x : Slot) (w : BitVec 32) : BitVec 32 :=
  let op := w.extractLsb' 26 6
  let d : Reg := w.extractLsb' 22 4
  let a : Reg := w.extractLsb' 18 4
  let b : Reg := w.extractLsb' 14 4
  let vd : VReg := w.extractLsb' 20 6
  let va : VReg := w.extractLsb' 14 6
  let vb : VReg := w.extractLsb' 8 6
  if majorOf w = 0x01 ∨ majorOf w = 0x0C then
    fmtA op (stepG x 20 d) (stepG x 24 a) (if oneSource w = true then b else stepG x 28 b) (w.extractLsb' 10 4) (w.extractLsb' 0 10)
  else if majorOf w < 0x20 then fmtI op (stepG x 20 d) (stepG x 24 a) (w.extractLsb' 0 18)
  else
    fmtV op (if vdNamesG w = true then 0#2 ++ stepG x 20 (vd.truncate 4) else stepV x 20 vd)
      (if vaNamesG w = true then 0#2 ++ stepG x 24 (va.truncate 4) else stepV x 24 va)
      (if vbNamesV w = true then stepV x 28 vb else vb) (w.extractLsb' 4 4) (w.extractLsb' 0 4)

/-! ## Levels and rejected words -/

/-- Where an instruction is legal (Table 21.1, R326). -/
def levelOf : Instr → Level
  | .halt => .privileged
  | .eret => .privileged
  | .tlbinv _ _ => .privileged
  | .seal _ _ _ => .privileged
  | .unseal _ _ _ => .privileged
  | .keyld _ _ => .security
  | .keyclr _ => .security
  | .ownset _ _ => .security
  | .movk _ k => if k.toNat < 14 then .user else .privileged
  | .kmov _ k => if k.toNat = 13 then .security else if k.toNat = 6 ∨ k.toNat = 12 then .user else .privileged
  | _ => .user

/-- Words that are assigned and raise F_ILLEGAL all the same: a `kmov` to a register that is only read (R54), and `sysc` on a service or
security core (R333). -/
def illegalHere (s : State) : Instr → Prop
  | .kmov _ k => k.toNat ≤ 5 ∨ k.toNat = 11
  | .sysc _ => isCompute s.curCore = false
  | _ => False

/-- An instruction with a word, one that this core may issue. -/
def Word_ (s : State) (i : Instr) : Prop := isEvent i = false ∧ (∀ w, i ≠ .unassignedWord w) ∧ ¬illegalHere s i

/-- The word of an instruction as `k.fault` holds it (R34). -/
def wordOf (i : Instr) : Word := (encode i).zeroExtend 64

/-! ## Vector instructions -/

/-- Element j is enabled by an m field (R114). -/
def en (s : State) (m : Reg) (j : Nat) : Bool := decide (m = 0) || (s.src m).getLsbD j

/-- fl is the union of the flags that f gives the enabled of the first n elements (R94). -/
def FlagsUnion (s : State) (m : Reg) (n : Nat) (f : Nat → Fl) (fl : Fl) : Prop :=
  ∀ i, fl.getLsbD i = true ↔ ∃ j < n, en s m j = true ∧ (f j).getLsbD i = true

/-- Element j of a window register, unsigned, of a type (Table 6.1). -/
def eu (s : State) (ty : ETy) (r : VReg) (j : Nat) : Nat := elem ty (s.vreg r) j
/-- Element j of a window register, signed. -/
def es (s : State) (ty : ETy) (r : VReg) (j : Nat) : Int := toSigned ty.width (eu s ty r j)

/-- What a vector instruction asks for (the registers it only writes, those it reads, its g sources) and gives: the lanes of d that it
writes, and its flags. -/
structure VRow where
  vdst : List VReg
  vsrc : List VReg
  srcs : List Reg
  d : VReg
  lanes : State → Nat → Option Lane
  flags : State → Fl → Prop

/-- The row of an instruction that gives each enabled element of d a value with flags. -/
def elemRow (ty : ETy) (d : VReg) (vdst vsrc : List VReg) (m : Reg) (f : State → Nat → Nat × Fl) : Option VRow :=
  some ⟨vdst, vsrc, maskSrc m, d,
    fun s n => let j := if ty = .i64 then n / 2 else n
      if en s m j = true then some (elemLane ty (f s j).1 n) else none,
    fun s fl => FlagsUnion s m ty.count (fun j => (f s j).2) fl⟩

/-- A two-source integer row without flags; the result is wrapped to the element (R90). -/
def intRow2 (t : BitVec 2) (d a b : VReg) (m : Reg) (f : State → Nat → Int) : Option VRow :=
  elemRow (intTy t) d [d] [a, b] m (fun s j => (toBits (intTy t).width (f s j), 0))

/-- R90: v clamped to the element; a clamped one sets sat. -/
def clamped (w : Nat) (v : Int) : Nat × Fl :=
  if v < -(2 ^ (w - 1)) then (2 ^ (w - 1), 16) else if 2 ^ (w - 1) ≤ v then (2 ^ (w - 1) - 1, 16) else (toBits w v, 0)

/-- R117, Table 6.2: the integer element operations. -/
def vecIntRow : Instr → Option VRow
  | .vaddI t d a b m => intRow2 t d a b m (fun s j => es s (intTy t) a j + es s (intTy t) b j)
  | .vsubI t d a b m => intRow2 t d a b m (fun s j => es s (intTy t) a j - es s (intTy t) b j)
  | .vmulI t d a b m => intRow2 t d a b m (fun s j => es s (intTy t) a j * es s (intTy t) b j)
  | .vminI t d a b m => intRow2 t d a b m (fun s j => min (es s (intTy t) a j) (es s (intTy t) b j))
  | .vmaxI t d a b m => intRow2 t d a b m (fun s j => max (es s (intTy t) a j) (es s (intTy t) b j))
  | .vminz t d a b m => intRow2 t d a b m (fun s j => min (eu s (intTy t) a j) (eu s (intTy t) b j))
  | .vmaxz t d a b m => intRow2 t d a b m (fun s j => max (eu s (intTy t) a j) (eu s (intTy t) b j))
  | .vaddSat t d a b m => elemRow (intTy t) d [d] [a, b] m (fun s j =>
      clamped (intTy t).width (es s (intTy t) a j + es s (intTy t) b j))
  | .vsubSat t d a b m => elemRow (intTy t) d [d] [a, b] m (fun s j =>
      clamped (intTy t).width (es s (intTy t) a j - es s (intTy t) b j))
  | .vshl t d a b m => intRow2 t d a b m (fun s j => es s (intTy t) a j * 2 ^ (eu s (intTy t) b j % (intTy t).width))
  | .vshr t d a b m => intRow2 t d a b m (fun s j => eu s (intTy t) a j / 2 ^ (eu s (intTy t) b j % (intTy t).width))
  | .vsra t d a b m => intRow2 t d a b m (fun s j => es s (intTy t) a j / 2 ^ (eu s (intTy t) b j % (intTy t).width))
  | _ => none

/-- A float row. -/
def fltRow (t : BitVec 2) (d : VReg) (vdst vsrc : List VReg) (m : Reg) (f : (VReg → Nat) → Nat × Fl) : Option VRow :=
  elemRow (floatTy t) d vdst vsrc m (fun s j => f (fun r => eu s (floatTy t) r j))

/-- R118, Table 6.3, R121 to R125: the float element operations, of the arithmetic of the number formats. -/
def vecFloatRow : Instr → Option VRow
  | .vaddF t d a b m => fltRow t d [d] [a, b] m (fun e => (floatTy t).fmt.add (e a) (e b))
  | .vsubF t d a b m => fltRow t d [d] [a, b] m (fun e => (floatTy t).fmt.sub (e a) (e b))
  | .vmulF t d a b m => fltRow t d [d] [a, b] m (fun e => (floatTy t).fmt.mul (e a) (e b))
  | .vminF t d a b m => fltRow t d [d] [a, b] m (fun e => (floatTy t).fmt.minmax false (e a) (e b))
  | .vmaxF t d a b m => fltRow t d [d] [a, b] m (fun e => (floatTy t).fmt.minmax true (e a) (e b))
  | .vfma t d a b m => fltRow t d [] [d, a, b] m (fun e => (floatTy t).fmt.fma (e a) (e b) (e d))
  | .vabs t d a m => fltRow t d [d] [a] m (fun e => (floatTy t).fmt.signOp false (e a))
  | .vneg t d a m => fltRow t d [d] [a] m (fun e => (floatTy t).fmt.signOp true (e a))
  | .vexp2 t d a m => fltRow t d [d] [a] m (fun e => approxExp2 (floatTy t) (e a))
  | .vlog2 t d a m => fltRow t d [d] [a] m (fun e => approxLog2 (floatTy t) (e a))
  | .vrcp t d a m => fltRow t d [d] [a] m (fun e => approxRcp (floatTy t) (e a))
  | .vrsq t d a m => fltRow t d [d] [a] m (fun e => approxRsq (floatTy t) (e a))
  | _ => none

/-- Lane j of a window register. -/
def ln (s : State) (r : VReg) (j : Nat) : Lane := (s.core s.curCore).lane (s.fileReg r) j

/-- A row of lane moves: no flag; lane j of d takes f, if it gives one. -/
def laneRow (vdst vsrc : List VReg) (srcs : List Reg) (d : VReg) (f : State → Nat → Option Lane) : Option VRow :=
  some ⟨vdst, vsrc, srcs, d, f, fun _ fl => fl = 0⟩

/-- Lane j takes v if it is enabled. -/
def ifOn (s : State) (m : Reg) (j : Nat) (v : Lane) : Option Lane := if en s m j = true then some v else none

/-- R126, Table 6.6, and R120 for integers: lane instructions, and the sums that go to every element. -/
def vecLaneRow : Instr → Option VRow
  | .vsel d a b m => laneRow [d] [a, b] (maskSrc m) d (fun s j => some (if en s m j = true then ln s a j else ln s b j))
  | .vmov d a m => laneRow [d] [a] (maskSrc m) d (fun s j => ifOn s m j (ln s a j))
  | .vand d a b m => laneRow [d] [a, b] (maskSrc m) d (fun s j => ifOn s m j (ln s a j &&& ln s b j))
  | .vor d a b m => laneRow [d] [a, b] (maskSrc m) d (fun s j => ifOn s m j (ln s a j ||| ln s b j))
  | .vxor d a b m => laneRow [d] [a, b] (maskSrc m) d (fun s j => ifOn s m j (ln s a j ^^^ ln s b j))
  | .vnot d a m => laneRow [d] [a] (maskSrc m) d (fun s j => ifOn s m j (~~~ln s a j))
  | .vshuf d a b m => laneRow [d] [a, b] (maskSrc m) d (fun s j => ifOn s m j (ln s a ((ln s b j).toNat % 32)))
  | .vbcast d a m => laneRow [d] [] (a :: maskSrc m) d (fun s j => ifOn s m j ((s.src a).truncate 32))
  | .vins d a l => laneRow [d] [] [a] d (fun s j => if j = l.toNat then some ((s.src a).truncate 32) else none)
  | .vredI t d a m => laneRow [d] [a] (maskSrc m) d (fun s n =>
      some (elemLane (intTy t) ((((List.range (intTy t).count).filter (en s m)).map (eu s (intTy t) a)).sum % 2 ^ (intTy t).width) n))
  | _ => none

/-- The enabled of n positions, each with f of it. -/
def onLanes {α : Type} (s : State) (m : Reg) (n : Nat) (f : Nat → α) : List (Option α) :=
  (List.range n).map (fun j => if en s m j = true then some (f j) else none)

/-- R128, Table 6.7: ca, cb and Ebase. -/
def scales (s : State) (c : Reg) (eb : Int) : Nat × Nat × Int :=
  if c = 0 then (127, 127, eb) else (un s c % 256, un s c / 2 ^ 8 % 256, ((s.src c).extractLsb' 16 16).toInt)

/-- R129: a dot product of the integer path. The accumulator in lanes 0 and 1 of d takes the sum of the enabled lanes' terms; lane 2 becomes
1 if it was not 0 or a term is INVALID; a range flag or an accumulator beyond 64 bits sets of. -/
def intDotRow (d a b : VReg) (m c : Reg) (w : Nat) (eb : Int) (term : Nat → Nat → Nat → Nat → Int → Term) : Option VRow :=
  let terms (s : State) : List (Option Term) := onLanes s m 32 (fun j =>
    term ((ln s a j).toNat % 2 ^ w) ((ln s b j).toNat % 2 ^ w) (scales s c eb).1 (scales s c eb).2.1 (scales s c eb).2.2)
  let acc (s : State) : Int := (ln s d 1 ++ ln s d 0).toInt + ((terms s).map (fun t => match t with
    | some (.val v _) => v
    | _ => 0)).sum
  some ⟨[], [d, a, b], maskSrc m ++ maskSrc c, d,
    fun s n =>
      if n = 0 then some ((BitVec.ofInt 64 (acc s)).truncate 32)
      else if n = 1 then some ((BitVec.ofInt 64 (acc s)).extractLsb' 32 32)
      else if n = 2 then some (if ln s d 2 ≠ 0 ∨ some Term.invalid ∈ terms s then 1 else 0)
      else none,
    fun s fl =>
      let out := (∃ v, some (Term.val v true) ∈ terms s) ∨ acc s < -(2 ^ 63) ∨ 2 ^ 63 ≤ acc s
      (out → fl = flOf) ∧ (¬out → fl = 0)⟩

/-- R130: a dot product of the FP32 path: lane 0 of d takes its sum with the slice sum of the enabled lanes' products; the flags of the
products, of the tree and of the last addition are set; with no lane enabled nothing is written. -/
def floatDotRow (d a b : VReg) (m c : Reg) (ta tb : ETy) : Option VRow :=
  let prods (s : State) : List (Option (Nat × Fl)) := onLanes s m 32 (fun j =>
    floatProduct ta tb (eu s ta a j) (eu s tb b j) (scales s c 0).1 (scales s c 0).2.1)
  let tree (s : State) : Option Nat × Fl := sliceSum ((prods s).map (·.map (·.1)))
  some ⟨[], [d, a, b], maskSrc m ++ maskSrc c, d,
    fun s n => if n = 0 then (tree s).1.map (fun p => BitVec.ofNat 32 (fmtF32.add (ln s d 0).toNat p).1) else none,
    fun s fl => ∃ u, FlagsUnion s m 32 (fun j => (floatProduct ta tb (eu s ta a j) (eu s tb b j) (scales s c 0).1 (scales s c 0).2.1).2) u ∧
      fl = u ||| (tree s).2 ||| ((tree s).1.map (fun p => (fmtF32.add (ln s d 0).toNat p).2)).getD 0⟩

/-- R127, R120 for floats, R128 to R130: conversions, float sums and dot products. -/
def vecMixRow : Instr → Option VRow
  | .vcvt d a sat rz src m dst =>
    let ts := ETy.ofCode src.toNat
    let td := ETy.ofCode dst.toNat
    let f (s : State) (j : Nat) := convert ts td (rz = 1) (sat = 1) (eu s ts a j)
    some ⟨[d], [a], maskSrc m, d,
      fun s n => let j := if td = .i64 then n / 2 else n
        if (ts = .i64 → j < 16) ∧ en s m j = true then some (elemLane td (f s j).1 n) else none,
      fun s fl => FlagsUnion s m (if ts = .i64 ∨ td = .i64 then 16 else 32) (fun j => (f s j).2) fl⟩
  | .vredF t d a m =>
    let r (s : State) := floatSum (floatTy t) (onLanes s m 32 (fun j => widen (floatTy t) (eu s (floatTy t) a j)))
    some ⟨[d], [a], maskSrc m, d, fun s n => some (elemLane (floatTy t) (r s).1 n), fun s fl => fl = (r s).2⟩
  | .vdotL6l6 d a b m c => intDotRow d a b m c 6 25 logTerm
  | .vdotI8i8 d a b m c => intDotRow d a b m c 8 40 intTerm
  | .vdotL6e4 d a b m c => floatDotRow d a b m c .l6 .e4
  | .vdotE4e4 d a b m c => floatDotRow d a b m c .e4 .e4
  | .vdotE5e5 d a b m c => floatDotRow d a b m c .e5 .e5
  | .vdotBfbf d a b m c => floatDotRow d a b m c .bf16 .bf16
  | _ => none

/-- A table of vector rows holds of the machine. -/
def VRowsHold (t : Instr → Option VRow) : Prop :=
  ∀ (s : State) (i : Instr) (r : VRow), t i = some r → i.wf = true → Passes s .user true r.vdst r.vsrc r.srcs none →
    ∃ u fl, exec i s = .next u ∧ r.flags s fl ∧ VWrote s u r.srcs r.d (r.lanes s) fl

/-- R119, R126: element type, destination, sources, and for each element the relation and its flags; `vext` reads one lane. -/
def compareRow : Instr → Option (ETy × Reg × VReg × VReg × Reg × (Nat → Nat → Bool × Fl))
  | .vceqI t d a b m => some (intTy t, d, a, b, m, fun x y => (decide (x = y), 0))
  | .vcltI t d a b m => some (intTy t, d, a, b, m, fun x y =>
      (decide (toSigned (intTy t).width x < toSigned (intTy t).width y), 0))
  | .vcltz t d a b m => some (intTy t, d, a, b, m, fun x y => (decide (x < y), 0))
  | .vceqF t d a b m => some (floatTy t, d, a, b, m, (floatTy t).fmt.rel .eq)
  | .vcltF t d a b m => some (floatTy t, d, a, b, m, (floatTy t).fmt.rel .lt)
  | .vcle t d a b m => some (floatTy t, d, a, b, m, (floatTy t).fmt.rel .le)
  | _ => none

/-! ## Memory instructions -/

/-- R33: the effective address of format M for an access of `size` bytes. -/
def ea (s : State) (a : Reg) (off : BitVec 11) (size : Nat) : Word := BitVec.ofInt 64 (un s a + size * off.toInt)
/-- R31: the size of a size code. -/
def szBytes (sz : BitVec 2) : Nat := 2 ^ sz.toNat
/-- R42: the size of an atomic. -/
def atBytes (sz : BitVec 1) : Nat := if sz = 0 then 4 else 8

/-- What a memory instruction asks for: its sources, its destination, its address, the size and kind of the access with the permissions it
needs, the locations it accepts (R217 step 5, Table 12.2), the scope with which it must reach them (Table 11.5), what it needs of the slot
before its checks, and the buffer it waits for. -/
structure MemRow where
  srcs : List Reg
  dst : Option Reg
  addr : State → Word
  size : Nat
  acc : Acc
  rd : Bool
  wr : Bool
  accepts : Loc → Bool
  reach : State → Loc → Prop
  first : State → Prop

/-- A location on a page of type normal or synchronising, or in local memory. -/
def plainLoc (l : Loc) : Bool := l.ty = .normal || l.ty = .sync
/-- A location in the local memory of a core. -/
def inLmem (l : Loc) : Bool := match l.place with
  | .lmem _ => true
  | _ => false
/-- Where `ldx`, `ldc` and `stf` are accepted (Table 12.2). -/
def localOrSync (l : Loc) : Bool := if inLmem l = true then !l.window else l.ty = .sync

/-- Table 11.5: the scopes at which an atomic reaches a location: any for own local memory; cluster and wider for another core's local memory
and for a home slice of this package; system only beyond it. -/
def scopeOkAt (sc : BitVec 3) (s : State) (l : Loc) : Prop :=
  match l.place with
  | .lmem n => n = s.curCore ∨ 1 ≤ sc.toNat
  | .home _ => 1 ≤ sc.toNat
  | _ => sc.toNat = 4

/-- A row of an atomic (R224). -/
def atomRow (srcs : List Reg) (d a : Reg) (sz : BitVec 1) (sc : BitVec 3) (acc : Acc) (rd wr : Bool) : Option MemRow :=
  some ⟨srcs, some d, fun s => s.src a, atBytes sz, acc, rd, wr, plainLoc, scopeOkAt sc, fun _ => True⟩

/-- R217, R222 to R228, R235: the memory instructions. -/
def memRow : Instr → Option MemRow
  | .ld d a sz _ _ off => some ⟨[a], some d, fun s => ea s a off (szBytes sz), szBytes sz, .load, true, false, fun _ => true, fun _ _ => True, fun _ => True⟩
  | .ldS d a sz _ _ off => some ⟨[a], some d, fun s => ea s a off (szBytes sz), szBytes sz, .load, true, false, fun _ => true, fun _ _ => True, fun _ => True⟩
  | .st d a sz _ _ off => some ⟨[a, d], none, fun s => ea s a off (szBytes sz), szBytes sz, .store, false, true, fun l => l.ty ≠ .stamped, fun _ _ => True, fun _ => True⟩
  | .ldx d a _ _ off => some ⟨[a], some d, fun s => ea s a off 8, 8, .load, true, false, localOrSync, fun _ _ => True, fun _ => True⟩
  | .ldc d a _ _ off => some ⟨[a], some d, fun s => ea s a off 8, 8, .atomic, true, true, localOrSync, fun _ _ => True, fun _ => True⟩
  | .stf d a _ _ off => some ⟨[a, d], none, fun s => ea s a off 8, 8, .store, false, true, localOrSync, fun _ _ => True, fun _ => True⟩
  | .amoAdd d a b sz sc _ => atomRow [a, b] d a sz sc .atomic true true
  | .amoAnd d a b sz sc _ => atomRow [a, b] d a sz sc .atomic true true
  | .amoOr d a b sz sc _ => atomRow [a, b] d a sz sc .atomic true true
  | .amoXor d a b sz sc _ => atomRow [a, b] d a sz sc .atomic true true
  | .amoMin d a b sz sc _ => atomRow [a, b] d a sz sc .atomic true true
  | .amoMax d a b sz sc _ => atomRow [a, b] d a sz sc .atomic true true
  | .amoMinz d a b sz sc _ => atomRow [a, b] d a sz sc .atomic true true
  | .amoMaxz d a b sz sc _ => atomRow [a, b] d a sz sc .atomic true true
  | .amoSwap d a b sz sc _ => atomRow [a, b] d a sz sc .atomic true true
  | .cas d a b e sz sc _ => atomRow [a, b, e] d a sz sc .atomic true true
  | .ldres d a sz sc _ => atomRow [a] d a sz sc .load true false
  | .stcnd d a b sz sc _ => atomRow [a, b] d a sz sc .store false true
  | .barm d a b sc => some ⟨[a, b], some d, fun s => s.src a, 8, .atomic, true, true, fun l => plainLoc l && !inLmem l,
      fun _ l => (∃ n, l.place = .home n) ∧ 1 ≤ sc.toNat, fun s => s.me.guardRec = none ∧ s.me.park ≠ 6⟩
  | _ => none

/-- R185, R217 step 2: the address lies in no region of Table 10.1. -/
def NoRegion (va : Word) : Prop :=
  let n := va.toNat
  (0xFFFFFF0000000000 + 2 ^ 18 ≤ n ∧ n < 0xFFFFFF0000000000 + 2 ^ 32) ∨ (2 ^ 56 + 3072 * 2 ^ 18 ≤ n ∧ n < 2 ^ 57) ∨
  (¬(0xFFFFFF0000000000 ≤ n ∧ n < 0xFFFFFF0000000000 + 2 ^ 32) ∧ ¬(2 ^ 56 ≤ n ∧ n < 2 ^ 57) ∧ ¬Canonical va)

/-- The byte offset of an address in the local memory of a core, formed on core c (R185, R186). -/
def LocalOffset (c : Nat) (va : Word) (n o : Nat) : Prop :=
  o < 2 ^ 18 ∧ ((n = c ∧ va.toNat = 0xFFFFFF0000000000 + o) ∨ (n < 3072 ∧ va.toNat = 2 ^ 56 + n * 2 ^ 18 + o))

/-- Region 3: an address that is translated. -/
def Translated (va : Word) : Prop :=
  Canonical va ∧ ¬(0xFFFFFF0000000000 ≤ va.toNat ∧ va.toNat < 0xFFFFFF0000000000 + 2 ^ 32) ∧ ¬(2 ^ 56 ≤ va.toNat ∧ va.toNat < 2 ^ 57)

/-- R193: an access through a leaf is denied (F_PERM), or reads execute-only memory (F_SEALED), or is allowed. -/
def Denied (e : TlbEnt) (priv rd wr : Bool) : Prop :=
  (priv = false ∧ e.u = false) ∨ (rd = true ∧ e.r = false ∧ e.x = false) ∨ ((rd = true → e.r = true) ∧ wr = true ∧ e.w = false)
/-- Table 10.5: a read of an execute-only page. -/
def SealedPage (e : TlbEnt) (priv rd : Bool) : Prop := (priv = true ∨ e.u = true) ∧ rd = true ∧ e.r = false ∧ e.x = true
/-- Stage 2 allows the access. -/
def Stage2Allows (e : TlbEnt) (rd wr : Bool) : Prop := (rd = true → e.s2r = true) ∧ (wr = true → e.s2w = true)

/-- R187: a core window that refuses the slot: its core has another owner, or another window tenant, from which service cores alone are exempt. -/
def TargetRefused (s : State) (n : Nat) : Prop :=
  (s.core n).owner ≠ (s.core s.curCore).owner ∨ (¬(8192 ≤ s.curCore ∧ s.curCore < 8288) ∧ (s.core n).wten ≠ s.me.tenant)

/-- The pages' table registers with which a walk starts. -/
def walkOf (s : State) (va : Word) (acc : Acc) (rd wr : Bool) : Pend :=
  let r := s.tenantDie (dieOf s.curCore) s.me.tenant.toNat
  .walk va acc rd wr r.ptab r.s2b r.s2l

/-- Byte `key` of memory as the slot whose turn it is sees it (R27, R200, R305): of the youngest of its stores not yet performed that covers it,
under the key ck, else of memory as that key deciphers it. -/
def seen (s : State) (ck key : Nat) : Byte :=
  match forwardByte (s.me.forwards ck) key with
  | some b => b
  | none => byteOf (s.wordAs ck key) (key % 8)

/-- v is the value of `size` bytes that byte i gives as f i, extended (R87). -/
def Extends (v : Word) (size : Nat) (signed : Bool) (f : Nat → Byte) : Prop :=
  ∀ i < 64, v.getLsbD i = if i < 8 * size then (f (i / 8)).getLsbD (i % 8) else signed && (f (size - 1)).getLsbD 7

/-- R215, R378: what an ordered access leaves that issues for the first time, or again from its wait: the demotion of its order counted
once. -/
def asIssued (s : State) (ordered : Bool) (sc : BitVec 3) : State :=
  (if s.me.counted = true then s else s.demote ordered sc).modMe (fun x => { x with counted := false })
/-- R378: what one leaves that waits for what its order asks: the demotion counted, and that it is. -/
def asWaiting (s : State) (ordered : Bool) (sc : BitVec 3) : State :=
  (if s.me.counted = true then s else s.demote ordered sc).modMe (fun x => { x with counted := true })

/-- R198, R294, Table 18.2: a slot stops with the imprecise F_GUARD at its pending guard record, which is cleared: `k.faddr` holds the first
touched address as a core window has it, `k.fault` its offset, bank, count and core. -/
structure GuardStops (s t : State) (r : GuardRec) : Prop where
  cause : bits (t.slot s.curCore s.curSlot).cause 0 9 = 256 + 13
  me : t.me = { s.me with
    st := .stopped, epc := s.me.pc, cause := t.me.cause, pend := s.me.owes, owed := .none, counted := false, guardRec := none
    faddr := BitVec.ofNat 64 (2 ^ 56 + r.core * 2 ^ 18 + r.off)
    fault := BitVec.ofNat 64 (r.off + 2 ^ 20 * (r.off / 8 % 16) + 2 ^ 32 * r.count + 2 ^ 48 * r.core) }
  others : ∀ c k, s.other c k → t.slot c k = s.slot c k
  parts : t = { s with slots := t.slots, pkg := { s.pkg with notices := t.pkg.notices } }

/-- What an access leaves before its own effect: a demoted order counted (R215), a guard touch recorded (R198). -/
def entered (s : State) (ordered : Bool) (sc : BitVec 3) (l : Loc) (size : Nat) : State :=
  (s.demote ordered sc).touch s.curCore s.curSlot l.key size

/-- A word under the location holds an uncorrectable error that the slot's own stores do not cover (R298). -/
def badRead (s : State) (c k : Nat) (l : Loc) (size : Nat) : Bool := s.loadBad c k l.key size

/-- What a store leaves that enters the buffer of the slot whose turn it is as its youngest entry (R27, R87). -/
structure Buffered (s t : State) (srcs : List Reg) (e : StoreEnt) : Prop where
  me : t.me = { s.me.advance with buf := s.me.buf ++ [e] }
  queue : Popped s t srcs
  slots : ∀ c k, s.other c k → t.slot c k = s.slot c k
  latch : ∀ c, (t.core c).latch = (s.core c).latch
  parts : SameButChains s t

/-- An entry of a scalar store. -/
def entryOf (s : State) (va : Word) (l : Loc) (size : Nat) (d : Word) (stf rel : Bool) (sc : BitVec 3) : StoreEnt :=
  ⟨va, l, size, BitVec.ofNat 64 (d.toNat % 2 ^ (8 * size)), stf, rel, false, sc, s.now + 1, s.cipherKey s.curCore, s.me.claims,
    s.me.kern, s.me.tenant, s.me.ctx, []⟩

/-- The order of an atomic: acquire-release and release wait, every order but plain may be demoted. -/
def isRelease (od : BitVec 2) : Bool := od.toNat = 2 || od.toNat = 3

/-- R225, R226, R228: which operation an atomic is: registers, size, scope, order, operand and expected value. -/
def atomOf : Instr → Option (AtOp × Reg × Reg × BitVec 1 × BitVec 3 × BitVec 2 × Option Reg × Option Reg)
  | .amoAdd d a b sz sc od => some (.add, d, a, sz, sc, od, some b, none)
  | .amoAnd d a b sz sc od => some (.and, d, a, sz, sc, od, some b, none)
  | .amoOr d a b sz sc od => some (.or, d, a, sz, sc, od, some b, none)
  | .amoXor d a b sz sc od => some (.xor, d, a, sz, sc, od, some b, none)
  | .amoMin d a b sz sc od => some (.min, d, a, sz, sc, od, some b, none)
  | .amoMax d a b sz sc od => some (.max, d, a, sz, sc, od, some b, none)
  | .amoMinz d a b sz sc od => some (.minz, d, a, sz, sc, od, some b, none)
  | .amoMaxz d a b sz sc od => some (.maxz, d, a, sz, sc, od, some b, none)
  | .amoSwap d a b sz sc od => some (.swap, d, a, sz, sc, od, some b, none)
  | .cas d a b e sz sc od => some (.cas, d, a, sz, sc, od, some b, some e)
  | .ldres d a sz sc od => some (.ldres, d, a, sz, sc, od, none, none)
  | .stcnd d a b sz sc od => some (.stcnd, d, a, sz, sc, od, some b, none)
  | _ => none

/-- R225: what an operation writes, from the old value, the operand and the expected value as w-bit patterns. -/
def newValue (w : Nat) (old x e : BitVec w) : AtOp → Option (BitVec w)
  | .add => some (old + x)
  | .and => some (old &&& x)
  | .or => some (old ||| x)
  | .xor => some (old ^^^ x)
  | .min => some (if x.slt old then x else old)
  | .max => some (if old.slt x then x else old)
  | .minz => some (if x.ult old then x else old)
  | .maxz => some (if old.ult x then x else old)
  | .swap => some x
  | .cas => if old = e then some x else none
  | .ldres => none
  | .stcnd => some x

/-- The w-bit pattern at a location as the context of core c deciphers it. -/
def patAt (s : State) (c : Nat) (l : Loc) (size : Nat) : BitVec (8 * size) := (s.memLoad (s.cipherKey c) l.key size).truncate (8 * size)

/-- A parked slot of core c whose own stores to the location are performed, at a place that still answers (R202, R300, R302). -/
def canPerform (s : State) (c k : Nat) (l : Loc) (size : Nat) (va : Word) : Prop :=
  s.ownStoresDone c k l.key size = true ∧ s.reachable l = true ∧ s.lostPlace l va = none

/-! ## Vector memory instructions -/

/-- Table 6.8: the vector memory instructions: data register, index registers, g sources, mask, whether it stores, and the address of lane j. -/
def vecMemOf : Instr → Option (VReg × List VReg × List Reg × Reg × Bool × (State → Nat → Word))
  | .vld d a m => some (d, [], [a], m, false, fun s j => BitVec.ofNat 64 (un s a + 4 * j))
  | .vst d a m => some (d, [], [a], m, true, fun s j => BitVec.ofNat 64 (un s a + 4 * j))
  | .vlds d a str m => some (d, [], [a, str], m, false, fun s j => BitVec.ofInt 64 (un s a + j * sg s str))
  | .vsts d a str m => some (d, [], [a, str], m, true, fun s j => BitVec.ofInt 64 (un s a + j * sg s str))
  | .vgath d a idx m => some (d, [idx], [a], m, false, fun s j => BitVec.ofInt 64 (un s a + 4 * (ln s idx j).toInt))
  | .vscat d a idx m => some (d, [idx], [a], m, true, fun s j => BitVec.ofInt 64 (un s a + 4 * (ln s idx j).toInt))
  | _ => none

/-- R132: the address of a lane is not in the slot's own local window. -/
def LaneOutside (va : Word) : Prop := va.toNat < 0xFFFFFF0000000000 ∨ 0xFFFFFF0000000000 + 2 ^ 18 < va.toNat + 4

/-- R132: lane j is the first enabled lane whose address fails, with this code. -/
def FirstBadLane (s : State) (m : Reg) (addr : Nat → Word) (j code : Nat) : Prop :=
  j < 32 ∧ en s m j = true ∧ ((LaneOutside (addr j) ∧ code = 5) ∨ (¬LaneOutside (addr j) ∧ (addr j).toNat % 4 ≠ 0 ∧ code = 6)) ∧
  ∀ i < j, en s m i = true → ¬LaneOutside (addr i) ∧ (addr i).toNat % 4 = 0

/-- Every enabled lane's address is good. -/
def LanesGood (s : State) (m : Reg) (addr : Nat → Word) : Prop :=
  ∀ j < 32, en s m j = true → ¬LaneOutside (addr j) ∧ (addr j).toNat % 4 = 0

/-- The memory key of a lane's address. -/
def laneAddr (s : State) (va : Word) : Nat := 2 ^ 56 + s.curCore * 2 ^ 18 + (va.toNat - 0xFFFFFF0000000000)

/-- The lanes that are enabled, in rising order. -/
def lanesOn (s : State) (m : Reg) : List Nat := (List.range 32).filter (en s m)

/-- What the enabled lanes' accesses leave at the guard granules (R198). -/
def touched (s : State) (m : Reg) (addr : Nat → Word) : State :=
  (lanesOn s m).foldl (fun t j => t.touch s.curCore s.curSlot (laneAddr s (addr j)) 4) s

/-! ## Threads -/

/-- Table 2.7: the slot that an arrival claims, before its registers: READY at the arrival's entry, with its tenant, kernel, task and window,
every register zero and empty, `k.sw` zero but for the window, bgen and, off the compute cores, the privileged bit (R325); stores of an earlier
claim that are under way stay. -/
def freshSlot (c : Nat) (old : Slot) (now : Nat) (r : Room) (a : Arrival) : Slot :=
  { Slot.reset with
    st := .ready, pc := pcDown a.pc, tenant := a.tenant, kern := some a.kern, task := a.task, ctx := a.ctx, spad := r.spad, out := old.out
    sw := BitVec.ofNat 64 (r.vbase * 2 ^ 32 + r.vsize * 2 ^ 36 + a.bgen.toNat * 2 ^ 45 + (if isCompute c = true then 0 else 4))
    claims := old.claims + 1, claimedAt := now, drainCyc := old.drainCyc, upcall := decide (a.src = .upcall) }

/-- What a claim of a slot of core c leaves (R138, Table 2.7). -/
structure Claimed (s t : State) (c : Nat) (r : Room) (a : Arrival) : Prop where
  slot : t.slot c r.slot = (freshSlot c (s.slot c r.slot) s.now r a).withRegs a.regs
  others : ∀ c' k', k' < 16 → slotKey c' k' ≠ slotKey c r.slot → t.slot c' k' = s.slot c' k' ∨ t.slot c' k' = (s.slot c' k').unreserve
  lanes : ∀ q n, n < 32 → 4 * r.vbase ≤ q → q < 4 * (r.vbase + r.vsize) → (t.core c).lane q n = 0
  keeps : ∀ q n, n < 32 → ¬(4 * r.vbase ≤ q ∧ q < 4 * (r.vbase + r.vsize)) → (t.core c).lane q n = (s.core c).lane q n
  window : ∀ g < 16, (t.core c).vmap.getLsbD g = ((s.core c).vmap.getLsbD g || (decide (r.vbase ≤ g) && decide (g < r.vbase + r.vsize)))
  latch : ∀ k < 16, (t.core c).latch.getLsbD k = ((s.core c).latch.getLsbD k && !decide (k = r.slot))
  queue : isCompute c = true → t.chainOut (upstream c) r.slot = (s.chainOut (upstream c) r.slot).filter (fun e => decide (s.now < e.1))
  handler : (t.core c).misses = (s.core c).misses.map (fun m =>
    if a.miss ≠ 0 ∧ m.id = a.miss then { m with handler := some (r.slot, (s.slot c r.slot).claims + 1) } else m)
  full : ∀ i, t.wordFull (8 * i) = (s.wordFull (8 * i) || (match r.spad with
    | some (o, n) => decide (2 ^ 56 + c * 2 ^ 18 + o ≤ 8 * i) && decide (8 * i < 2 ^ 56 + c * 2 ^ 18 + o + n)
    | none => false))
  pool : ∀ o n, r.spad = some (o, n) → ∀ i < n, t.byteAt (2 ^ 56 + c * 2 ^ 18 + o + i) = 0
  memory : ∀ k, (∀ o n, r.spad = some (o, n) → ¬(2 ^ 56 + c * 2 ^ 18 + o ≤ k ∧ k < 2 ^ 56 + c * 2 ^ 18 + o + n)) → t.byteAt k = s.byteAt k
  once : (t.core c).claimCyc = s.now + 1

/-- The sources of a `spawn` (R172). -/
def spawnSrcs (a b : Reg) : List Reg := [a, b, 1, 2, 3, 4]
/-- What a `spawn` hands to its child. -/
def handed (s : State) : List Word := [s.me.reg 1, s.me.reg 2, s.me.reg 3, s.me.reg 4]

/-- `k.sw` with its inline bit set to b. -/
def InlineSw (old new : Word) (b : Bool) : Prop := bit new 0 = b ∧ ∀ i, 1 ≤ i → bit new i = bit old i

/-- R141, R176: what a slot that becomes FREE keeps. -/
structure Freed (s t : State) (c k : Nat) : Prop where
  st : (t.slot c k).st = .free
  resv : (t.slot c k).resv = none
  stores : (t.slot c k).buf = (s.slot c k).buf ∧ (t.slot c k).out = (s.slot c k).out
  regs : (t.slot c k).g = (s.slot c k).g
  window : (t.core c).vmap = (s.core c).vmap

/-- Table 8.1: a control word with a zero in every reserved bit and a placement other than 3. -/
def ControlWord (w : Word) : Prop :=
  bits w 34 6 = 0 ∧ bits w 12 20 = 0 ∧ bits w 3 5 = 0 ∧ bits w 8 2 ≠ 3

/-- Registers g1 to gn of a slot hold no uncorrectable error (R298). -/
def CarriesWhole (x : Slot) (n : Nat) : Prop := ∀ i, 1 ≤ i → i ≤ n → x.badG.getLsbD i = false
/-- Register i is the lowest of g1 to gn with an uncorrectable error. -/
def FirstBadG (x : Slot) (n i : Nat) : Prop := 1 ≤ i ∧ i ≤ n ∧ x.badG.getLsbD i = true ∧ ∀ j, 1 ≤ j → j < i → x.badG.getLsbD j = false

/-- The records that a `spawnq` makes (R156, R158, R175): the record in flight to its die. -/
def recordOf (s : State) (a b c : Reg) (r : KernRef) : RecFlight :=
  { die := if bits (s.src b) 8 2 = 1 then bits (s.src b) 0 3 else dieOf s.curCore
    task := {
      pc := s.src a, handle := r.handle, kernel := r.kernel, tenant := s.me.tenant, ctl := s.src b, deadline := s.src c
      regs := [s.me.reg 1, s.me.reg 2, s.me.reg 3, s.me.reg 4, s.me.reg 5, s.me.reg 6, s.me.reg 7, s.me.reg 8]
      full := BitVec.extractLsb' 1 8 s.me.full
      key := ⟨(s.earliest (dieOf s.curCore) + s.latest (dieOf s.curCore)) / 2, s.curCore, (s.core s.curCore).seq⟩
      ctx := s.me.ctx, entry := s.entryNumber r.handle (s.src a), fire := none }
    issuer := some (s.curCore, s.curSlot), host := none, resend := false, exempt := false }

/-! ## Stamped time and jobs -/

/-- The stamp, in 1.25 ns units, that a die reads as E and as L (R356). -/
def clkE (s : State) (d : Nat) : Nat := (s.die d).clkE
/-- L of a die. -/
def clkL (s : State) (d : Nat) : Nat := (s.die d).clkL
/-- R357: the width of a die exceeds its limit. -/
def Widened (s : State) (d : Nat) : Prop := (s.die d).wmax < clkL s d - clkE s d

/-- The stamped instructions that go to memory: a store that waits for all before it, which compares or not; or an as-of load. -/
def stampedOf : Instr → Option (List Reg × Reg × Reg × Acc × Bool × Bool × (State → Loc → Pend))
  | .sts d a b => some ([a, b], d, a, .store, false, true, fun s l =>
      .stamped false d (s.src a) l (clkL s (dieOf s.curCore)) (s.src b) 0 .sent)
  | .scas d a b c => some ([a, b, c], d, a, .atomic, false, true, fun s l =>
      .stamped true d (s.src a) l (clkL s (dieOf s.curCore)) (s.src b) (s.src c) .sent)
  | .ldas d a b => some ([a, b], d, a, .load, true, false, fun s l => .ldas d (s.src a) l (un s b) false)
  | _ => none

/-- Nothing of the machine differs but slots and the versions of stamped lines with their arrival count. -/
def OnlyVersions (s t : State) : Prop :=
  t = { s with slots := t.slots, pkg := { s.pkg with vers := t.pkg.vers, stampSeq := t.pkg.stampSeq } }

/-- R352, R361: the stamp up to which the home of a location lets versions be seen: its die's E, or what an earlier home of the granule has let be
seen. -/
def homeSees (s : State) (l : Loc) : Nat := max (clkE s (s.homeClockDie l)) (Tab.get 0 s.pkg.seenE (l.key / 2 ^ 21))

/-- R361 to R364: what the turn of a stamped store leaves at its home: F_DATA for a `scas` that reads an uncorrectable error; the newest stamp and
word for one that differs; else the newest version, or the wait for room as arrival `seq`. -/
def TakesTurn (s t : State) (c k : Nat) (cas : Bool) (d : Reg) (va v e : Word) (l : Loc) (stamp seq : Nat) : Prop :=
  let line := l.key / 64
  let newest := newestOf (s.versions line)
  let at_ (st : StampStage) : Pend := .stamped cas d va l stamp v e st
  let old := newest.wordAs (s.cipherKey c) l.key
  let differs := cas = true ∧ old ≠ e
  let bad := cas = true ∧ s.badWord l.key = true
  let room := roomFor (s.versions line) (homeSees s l) = true
  let st := max stamp (newest.stamp + 1)
  (bad → Faulted s t c k 27 (BitVec.ofNat 64 (va.toNat / 8 * 8)) 0 false) ∧
  (¬bad → OnlyVersions s t ∧ (∀ a, t.byteAt a = s.byteAt a) ∧ t.pkg.stampSeq = s.pkg.stampSeq ∧
    (∀ c' k', slotKey c' k' ≠ slotKey c k → t.slot c' k' = s.slot c' k') ∧
    (differs → (t.slot c k).pend = at_ (.commit newest.stamp old) ∧ t.pkg.vers = s.pkg.vers) ∧
    (¬differs → room →
      t.versions line = appendVersion (s.versions line) ⟨st, newest.words.set (l.key % 64 / 8) (v, s.cipherKey c)⟩ ∧
      (t.slot c k).pend = at_ (.commit st (if cas = true then old else BitVec.ofNat 64 st))) ∧
    (¬differs → ¬room → (t.slot c k).pend = at_ (.held seq) ∧ t.pkg.vers = s.pkg.vers))

/-- A job submission: copy unit or engine, function, registers. -/
def submitOf : Instr → Option (Bool × Nat × Reg × Reg × Reg)
  | .mxq d a b p => some (false, p.toNat, d, a, b)
  | .cpq d a b k => some (true, k.toNat, d, a, b)
  | _ => none

/-- R242: a refusal known to the submitter: g[d] is 0 and `k.fault` holds the code. -/
def RefusedJob (s t : State) (srcs : List Reg) (d : Reg) (code : Nat) : Prop :=
  ∃ u, Wrote s u srcs d 0 0 1 ∧ t.me = { u.me with fault := BitVec.ofNat 64 code } ∧
    (∀ c k, s.other c k → t.slot c k = u.slot c k) ∧ t = { u with slots := t.slots }

/-- R187, R302: a location that the slot whose turn it is may use: not in a window that refuses it, nor in one of a retired core. -/
def WindowOpen (s : State) (l : Loc) : Prop :=
  ∀ n, l.window = true → l.place = .lmem n → ¬TargetRefused s n ∧ (s.core n).health ≠ .retired

/-- R185, R191: where an address of the slot whose turn it is leads as its core holds its translation. -/
def leads (s : State) (va : Word) (rd wr : Bool) : Resolved := s.find s.curCore s.me va rd wr

/-- R277: a descriptor of two lines that can be read and written, and the cluster that it names. -/
structure DescriptorAt (s : State) (va : Word) (l1 l2 : Loc) (cluster : Nat) : Prop where
  aligned : va.toNat % 64 = 0
  readable : ∃ l, leads s va true false = .ok l
  first : leads s va true true = .ok l1 ∧ plainLoc l1 = true ∧ WindowOpen s l1
  second : leads s (va + 64) true true = .ok l2 ∧ plainLoc l2 = true ∧ WindowOpen s l2
  whole : s.reachable l1 = true ∧ s.badWord l1.key = false
  cluster : cluster = bits (s.wordAs (s.cipherKey s.curCore) l1.key) 23 9

/-- The doublewords of a descriptor as a core deciphers them (R274). -/
def descriptor (s : State) (c : Nat) (l1 l2 : Loc) : List Word :=
  (List.range 8).map (fun i => s.wordAs (s.cipherKey c) (l1.key + 8 * i)) ++ (List.range 6).map (fun i => s.wordAs (s.cipherKey c) (l2.key + 8 * i))

/-- Table 14.2: the code of the first check that a descriptor and its capability fail at a target. -/
def refusalCode (s : State) (cluster : Nat) (copy : Bool) (fn : Nat) (d : Reg) (dws : List Word) (cap : Word) (tenant : BitVec 8) (owner : Word) :
    Option Nat :=
  if (if copy = true then copyDescOk fn d dws else matrixDescOk cluster d dws) = false then some 2
  else match s.capCheck cluster cap (decide (bits cap 6 26 = 0)) tenant owner (if copy = true then 1 else 0) with
    | some code => some code
    | none =>
      if scalesOk copy fn dws = false then some 7
      else if 32 ≤ (s.unit cluster copy).jobs.length then some 8 else none

/-- A job's work at the point that it has reached; `cut`: the writes that it still makes before a soft error ends it, and the error's
location. -/
def workOf (s : State) (j : Job) (cut : Option (Nat × Nat)) : Work := ⟨s, j.fl, j.last, fun _ => true, cut, j.bs⟩

/-- R244, R248, R255, R276: what the start of a job leaves, or its going on with the read of its shape record or list: it runs with what it
has read; it waits, started, for a page or a stopped core; or it ends. -/
def Begun (s t : State) (cluster : Nat) (copy : Bool) (j : Job) : Prop :=
  let w : Work := ⟨s, j.fl, 0, fun _ => true, none, []⟩
  let r := if copy = true then w.readList j else w.readShape j
  (∀ u l, r = .ok u l →
    t = u.s.setJob cluster copy { j with recWords := l, pos := 0, fl := u.fl, last := 0, stage := .running, pageWait := false }) ∧
  (r = .wait → t = s.setJob cluster copy { j with stage := .opening, pageWait := true }) ∧
  (r = .hold → t = s.setJob cluster copy { j with stage := .opening }) ∧
  (∀ u c d a, r = .fail u c d a → t = u.s.endWork cluster copy j c d u.fl a)

/-- R247: what each engine of a ring group holds of the others: cluster, acceptance, and its submitter's core, tenant, owner and key. -/
def ringOf (l : List (Nat × Job)) : List RingEngine := l.map (fun p => ⟨p.1, p.2.seq, p.2.core, p.2.tenant, p.2.owner, p.2.ckey⟩)

/-- R254, R279, Table 14.5: what the report of an ended job leaves, but for its event record: the status word and the faulting address in its
descriptor, unless that is in a package that has left the pod (R355), each word full where it has a bit; and the status word in the completion
register, unless its claim has ended. -/
structure Reported (s t : State) (cluster : Nat) (copy : Bool) (j : Job) (st faddr : Word) : Prop where
  gone : s.lostPlace j.line2 0 ≠ none → t.mem = s.mem
  words : s.lostPlace j.line2 0 = none → j.line2.key % 8 = 0 →
    t.wordAs j.ckey (j.line2.key + 48) = st ∧ t.wordAs j.ckey (j.line2.key + 56) = faddr ∧
    (j.line2.ty = .sync ∨ (∃ n, j.line2.place = .lmem n) → t.wordFull (j.line2.key + 48) = true ∧ t.wordFull (j.line2.key + 56) = true) ∧
    ∀ a, a / 8 ≠ (j.line2.key + 48) / 8 → a / 8 ≠ (j.line2.key + 56) / 8 → t.byteAt a = s.byteAt a
  fill : ∀ r, (t.slot j.core j.slot).reg r =
    let x := s.slot j.core j.slot
    if r = j.creg ∧ r ≠ 0 ∧ x.st ≠ .free ∧ x.claims = j.claim ∧ ¬(s.now < x.wbDue ∧ x.wbRegs.getLsbD r.toNat = true) then st else x.reg r
  full : ∀ r, (t.slot j.core j.slot).isFull r =
    let x := s.slot j.core j.slot
    (x.isFull r || decide (r = j.creg ∧ r ≠ 0 ∧ x.st ≠ .free ∧ x.claims = j.claim))

/-- Table 14.5: the status word of a job: its identifier, detail, flags with the guard flag if its status words lie in a guard granule (R198),
and code. -/
def statusOf (s : State) (cluster : Nat) (copy : Bool) (j : Job) (code detail : Nat) (fl : BitVec 8) : Word :=
  let guarded := s.lostPlace j.line2 0 = none ∧ (s.guardKey (j.line2.key + 48) = true ∨ s.guardKey (j.line2.key + 56) = true)
  let id := cluster * 2 ^ 23 + copy.toNat * 2 ^ 22 + ((j.seq - 1) % (2 ^ 22 - 1) + 1)
  BitVec.ofNat 64 (id % 2 ^ 32 * 2 ^ 32 + detail % 2 ^ 16 * 2 ^ 16 + (if guarded then fl ||| 64 else fl).toNat % 128 * 2 ^ 8 + code)

/-- R282: what `scls` needs before its addresses: a compute core that is its cluster's scale server, and a mask and block index in their
fields. -/
def ScaleServer (s : State) (w : Word) : Prop :=
  isCompute s.curCore = true ∧ s.curCore % 8 = (s.cluster (clusterOf s.curCore)).sserv.toNat ∧ bits w 26 38 = 0 ∧ bits w 4 12 = 0 ∧ bits w 0 4 ≠ 0

/-- R280: the pages of an image all lead to memory of type normal or synchronising in translated space, at these places. -/
def ImageLeads (s : State) (load : Bool) (pages : List Word) (ls : List Loc) : Prop :=
  List.Forall₂ (fun p l => Translated p ∧ leads s p load (!load) = .ok l ∧ plainLoc l = true) pages ls

/-- An `accld` or `accst`. -/
def imageOf : Instr → Option (Bool × Reg × Reg × Nat)
  | .accld a b t => some (true, a, b, t.toNat)
  | .accst a b t => some (false, a, b, t.toNat)
  | _ => none

/-! ## Expert queues and reorder windows -/

/-- Every earlier access of the slot whose turn it is is performed. -/
def Settled (s : State) : Prop := s.me.buf = [] ∧ s.quiet s.curCore s.curSlot = true

/-- An instruction that waits for a slot's buffer (park 4) and then for its accesses (park 3) before it does anything else. -/
def WaitsFirst (s t : State) : Prop :=
  (s.me.buf ≠ [] → Parked s t 4 .retry) ∧ (s.me.buf = [] → s.quiet s.curCore s.curSlot = false → Parked s t 3 .retry)

/-- `va` leads to the byte `key` of the core's own local memory, and n bytes lie there, none in a word under an uncorrectable error and none in
a guard granule. -/
def OwnBytes (s : State) (va : Word) (n key : Nat) : Prop :=
  ∃ o, LocalOffset s.curCore va s.curCore o ∧ o + n ≤ 2 ^ 18 ∧ key = 2 ^ 56 + s.curCore * 2 ^ 18 + o ∧
    ∀ i < n, s.badWord (key + i) = false ∧ s.isGuard s.curCore (o + i) = false

/-- The n bytes there, as the core deciphers them. -/
def ownBytes (s : State) (key n : Nat) : List Byte :=
  (List.range n).map (fun i => byteOf (s.wordAs (s.cipherKey s.curCore) (key + i)) ((key + i) % 8))

/-- The n doublewords there. -/
def ownWords (s : State) (key n : Nat) : List Word := (List.range n).map (fun i => s.wordAs (s.cipherKey s.curCore) (key + 8 * i))

/-- R283: the queue takes tokens of the slot: it is enabled, of its tenant and its capsule. -/
def QueueOpen (s : State) (qw : Word) (q : XQueue) : Prop :=
  qw.toNat < 2 ^ 15 ∧ bit (q.dw 0) 30 = true ∧ q.tenant = s.me.tenant ∧ ∃ r, s.me.kern = some r ∧ r.handle = q.handle

/-- R268: where a token that is accepted goes: on-die, to the spill ring, or nowhere. -/
def TokenPlace (s : State) (d : Nat) (q : XQueue) (p : Option Bool) : Prop :=
  let roomy := q.onDie = q.toks.length ∧ q.onDie < bits (q.dw 1) 32 17 ∧ s.onDieTokens d < 65536
  (p = some true ↔ roomy) ∧ (p = some false ↔ ¬roomy ∧ q.toks.length - q.onDie < bits (q.dw 4) 0 25)

/-- R270, Table 16.6: a window that lies in local memory as a configuration lets it. -/
def WinFits (w : WinCfg) : Prop := w.base % 64 = 0 ∧ w.base + w.n * w.stride ≤ 2 ^ 18

/-- R271: the entry that a token names takes it. -/
def EntryTakes (s : State) (w : WinCfg) (o : Nat) (b : List Byte) : Prop :=
  let st := s.winWord w o (tokRslot b) 0x10
  tokRslot b < w.n ∧ tokInst b < w.k ∧ s.winBad w o (tokRslot b) = false ∧
    ((bits st 0 2 = 0 ∧ s.wordFull (w.key o (tokRslot b) 0) = false) ∨
     (bits st 0 2 = 1 ∧ bits st 32 32 = tokPos b ∧ s.winWord w o (tokRslot b) 8 = BitVec.ofNat 64 (tokSeq b) ∧ bit st (8 + tokInst b) = false))

/-- R272: element j of the combination of an entry's first n instances, in instance order, with its flags: gate times pick is added in one
rounding; an instance that was LATE, or whose pick row has an uncorrectable error, is passed over. -/
def combined (s : State) (w : WinCfg) (c e j : Nat) : Nat → Nat × Fl
  | 0 => (0, flNone)
  | n + 1 =>
    let a := combined s w c e j n
    let pick := w.key c e (0x40 + 4 * w.w * (1 + n) + 4 * j)
    let gate := bits (s.winWord w c e (0x18 + 8 * (n / 4))) (16 * (n % 4)) 16
    if bit (s.winWord w c e 0x10) (24 + n) = true ∨ s.badWord pick = true then a
    else
      let r := fmtF32.fma (gate * 2 ^ 16) (s.memLoad (s.cipherKey c) pick 4).toNat a.1
      (r.1, a.2 ||| r.2)

/-- Table 16.8: the status word of a queue. -/
def queueWord (s : State) (q : XQueue) : Word :=
  BitVec.ofNat 64 ((q.toks.length - q.onDie) * 2 ^ 39 + q.onDie * 2 ^ 22 + q.busy.length * 2 ^ 16 +
    8 * (decide (q.promoted = true ∧ q.eligible (s.now + 1) = true)).toNat + 4 * q.aged.toNat +
    2 * (decide (q.cfg ≠ [] ∧ bits (q.dw 0) 0 16 ≤ q.toks.length)).toNat + (bit (q.dw 0) 30).toNat)

/-- Table 16.8: the status word of a window. -/
def windowWord (s : State) (c : Nat) : Word :=
  BitVec.ofNat 64 ((s.core c).winErr * 2 ^ 32 + (s.core c).winPtr * 2 ^ 22 + (s.core c).winFlags.toNat * 2 ^ 11 + s.winActive c)

/-- R298: e is the first entry of the window of core c of which a status or a configuration by `sel` would take the state from a word with an
uncorrectable error. -/
def BadEntry (s : State) (c : Nat) (sel : Word) (w : WinCfg) (e : Nat) : Prop :=
  bit sel 63 = true ∧ bits sel 0 63 = 0 ∧ isCompute c = true ∧ (s.core c).win = some w ∧ e < w.n ∧ s.badWord (w.key c e 0x10) = true ∧
  ∀ i < e, s.badWord (w.key c i 0x10) = false

/-- R263: a comes before b: a higher class, then an older head, then a lower number. -/
def Before (a b : Nat × XQueue) : Prop :=
  let age (q : XQueue) : Nat := (q.toks.head?.map (·.entry)).getD 0
  b.2.effClass < a.2.effClass ∨ (b.2.effClass = a.2.effClass ∧ (age a.2 < age b.2 ∨ (age a.2 = age b.2 ∧ a.1 < b.1)))

/-- The slot whose turn it is goes on at the next word; it may lose its reservation, as may any slot that holds one; else nothing of slots
changes, and the queues change by its pop only. -/
def GoesOn (s t : State) (srcs : List Reg) : Prop :=
  (s.me.st = .ready → t.me = { s.me.advance with resv := t.me.resv }) ∧ Popped s t srcs ∧
  ∀ c k, s.other c k → (s.slot c k).resv = none → t.slot c k = s.slot c k

/-! ## System instructions and registers -/

/-- `Passes` for a privileged instruction that names g registers only. -/
abbrev PassesP (s : State) (srcs : List Reg) (dst : Option Reg) : Prop := Passes s .privileged false [] [] srcs dst

/-- R329: the core whose turn it is reaches a slot, core or cluster target. -/
def ReachesCore (s : State) (c : Nat) : Prop := c ≤ 3071 ∧ (s.curCore = securityCore ∨ tileOf c = tileOf s.curCore)
/-- R329: it reaches a level or die target. -/
def ReachesDie (s : State) (c : Nat) : Prop := c ≤ 3071 ∧ (s.curCore = securityCore ∨ dieOf c = dieOf s.curCore)

/-- R329: it reaches register n (15 to 41) at the target of its `k.tgt`; the package barriers are the security core's. -/
def ReachesTarget (s : State) (n : Nat) : Prop :=
  if 30 ≤ n ∧ n ≤ 40 then
    ReachesDie s s.me.tgtCore ∧ ¬(n = 30 ∧ s.me.tgtIndex / 256 % 8 = 5 ∧ s.curCore ≠ securityCore)
  else ReachesCore s s.me.tgtCore

/-- Registers 0 to 13 of slot k of core c (R54). -/
def slotWord (s : State) (c k n : Nat) : Word :=
  let x := s.slot c k
  match n with
  | 0 => BitVec.ofNat 64 (k + 2 ^ 32 * (x.spad.map (·.1)).getD 0)
  | 1 => BitVec.ofNat 64 c
  | 2 => if isCompute c = true then BitVec.ofNat 64 (clusterOf c) else BitVec.allOnes 64
  | 3 => if c = securityCore then BitVec.allOnes 64 else BitVec.ofNat 64 (tileOf c)
  | 4 => BitVec.ofNat 64 (dieOf c)
  | 5 => BitVec.ofNat 64 (s.pkg.podNo.getD 0)
  | 6 => x.sw
  | 7 => x.epc
  | 8 => x.cause
  | 9 => x.fault
  | 10 => x.faddr
  | 11 => x.tenant.zeroExtend 64
  | 12 => x.fst
  | _ => (s.core c).owner

/-- The number of a state in `k.sctl`. -/
def SlotSt.num (x : SlotSt) : Nat :=
  match x with
  | .free => 0
  | .ready => 1
  | .parked => 2
  | .stopped => 3

/-- Registers 14 to 41 as the slot whose turn it is reads them at its target (Table 21.2, R327 to R330). -/
def privWord (s : State) (n : Nat) : Word :=
  let c := s.me.tgtCore
  let k := s.me.tgtSlot
  let ix := s.me.tgtIndex
  let x := s.slot c k
  let y := s.core c
  let cl := s.cluster (clusterOf c)
  let d := s.die (dieOf c)
  let t := s.tenantDie (dieOf c) (ix % 256)
  let prot := bit y.owner 39
  let open_ : Bool := decide (x.st = .stopped) && !prot
  match n with
  | 14 => s.me.tgt
  | 15 => BitVec.ofNat 64 (SlotSt.num x.st + 4 * x.park + 64 * x.atAnchor.toNat + 256 * bits x.cause 0 8)
  | 16 => if open_ then x.reg (BitVec.ofNat 4 ix) else 0
  | 17 => if open_ then (x.full ||| 1).zeroExtend 64 else 0
  | 18 =>
    if open_ && decide (ix % 64 < 4 * x.vsize) then (y.lane (4 * x.vbase + ix % 64) (ix / 64 % 32)).zeroExtend 64 else 0
  | 19 => if open_ && decide (ix ≤ 13) then slotWord s c k ix else 0
  | 20 =>
    if open_ then
      (match x.guardRec with
       | none => 0
       | some r => BitVec.ofNat 64 (2 ^ 63 + r.core * 2 ^ 48 + r.count * 2 ^ 32 + r.off / 8 % 16 * 2 ^ 20 + r.off))
    else 0
  | 21 => if prot then 0 else y.vmap.zeroExtend 64
  | 22 => if prot then 0 else BitVec.ofNat 64 (y.poolSize * 2 ^ 32 + y.poolBase)
  | 23 => if prot then 0 else y.latch.zeroExtend 64
  | 24 =>
    let q := (s.chainOut c (ix % 16)).filter (fun e => decide (e.1 ≤ s.now))
    if prot then 0 else if ix / 64 % 2 = 1 then BitVec.ofNat 64 q.length else (q.getD (ix / 16 % 4) (0, 0)).2
  | 25 => if prot then 0 else BitVec.ofNat 64 (y.barGen % 2 ^ 32 + y.barArr * 2 ^ 32)
  | 26 => y.wten.zeroExtend 64
  | 27 => BitVec.ofNat 64 ((decide (y.pre ≠ .off) && s.quiescent y.preGroup).toNat + 2 * y.preExpired.toNat)
  | 28 => s.capEntry (clusterOf c) (ix % 64)
  | 29 => cl.sserv.zeroExtend 64
  | 30 =>
    let lv := ix / 256 % 8
    if 1 ≤ lv ∧ lv ≤ 5 ∧ ix % 64 < barIds lv then BitVec.ofNat 64 (s.bar lv (barInst lv c) (ix % 64)).count else 0
  | 31 => t.ptab
  | 32 => t.s2b
  | 33 => t.s2l
  | 34 => t.scm
  | 35 =>
    (match ix / 256 % 4 with
     | 0 => BitVec.ofInt 64 t.bal
     | 1 => BitVec.ofNat 64 t.rf
     | 2 => BitVec.ofNat 64 t.cap
     | _ => BitVec.ofNat 64 t.ln)
  | 36 => BitVec.ofNat 64 t.quota
  | 37 =>
    let e := s.evq (ix / 256 % 256) (ix % 256)
    (match ix / 2 ^ 16 % 4 with
     | 0 => BitVec.ofNat 64 (e.valid.toNat * 2 ^ 63 + e.base + e.s)
     | 1 => BitVec.ofNat 64 e.tail
     | 2 => BitVec.ofNat 64 e.lost
     | _ => 0)
  | 38 => BitVec.ofNat 64 (256 * (s.xq (dieOf c) (ix % 4096)).assigned.toNat + (s.xq (dieOf c) (ix % 4096)).xten.toNat)
  | 39 => BitVec.ofNat 64 d.wmax
  | 40 => BitVec.ofNat 64 d.dlate
  | _ =>
    if prot then 0
    else if ix % 2 = 0 then
      (match y.win with
       | none => 0
       | some w => BitVec.ofNat 64 ((w.w - 1) * 2 ^ 48 + (w.k - 1) * 2 ^ 44 + (w.n - 1) * 2 ^ 32 + w.base))
    else BitVec.ofNat 64 (y.winErr * 2 ^ 32 + y.winTenant.toNat * 2 ^ 16 + y.winFlags.toNat * 2 ^ 11 + y.winPtr)

/-- R17, R62: the slot whose turn it is is changed by f and goes on at the next word, after its pop; no other slot changes. -/
def SlotGoes (s t : State) (srcs : List Reg) (f : Slot → Slot) : Prop :=
  t.me = (f s.me).advance ∧ Popped s t srcs ∧ (∀ c k, s.other c k → t.slot c k = s.slot c k) ∧ SameButChains s t

/-- R19: the values of `k.sw` that a `kmov` may write over another. -/
def SwWritable (s : State) (v : Word) : Prop :=
  bits v 46 18 = 0 ∧
  (if s.me.priv = true then bit v 2 = bit s.me.sw 2 ∧ (isCompute s.curCore = true ∨ bit v 1 = bit s.me.sw 1)
   else isCompute s.curCore = true ∧ ∀ i < 64, i ≠ 1 → bit v i = bit s.me.sw i)

/-- Registers 28 to 40 with a value that a `kmov` may write there and the value that is then read back (Table 21.2, R329, R357). -/
def Keeps (s : State) (n : Nat) (v r : Word) : Prop :=
  let ix := s.me.tgtIndex
  match n with
  | 28 => r = BitVec.ofNat 64 (bits v 63 1 * 2 ^ 63 + bits v 48 4 * 2 ^ 48 + bits v 40 8 * 2 ^ 40 + bits v 0 32)
  | 29 => r = BitVec.ofNat 64 (bits v 0 3)
  | 30 => (1 ≤ ix / 256 % 8 ∧ ix / 256 % 8 ≤ 5 ∧ ix % 64 < barIds (ix / 256 % 8)) ∧ r = v
  | 31 => r = BitVec.ofNat 64 (bits v 12 40 * 4096 + bits v 0 1)
  | 32 => r = BitVec.ofNat 64 (bits v 12 40 * 4096)
  | 33 => r = v
  | 34 => r = v
  | 35 =>
    (match ix / 256 % 4 with
     | 0 => -(2 ^ 31) ≤ v.toInt ∧ v.toInt ≤ 2 ^ 31 - 1
     | 1 => v.toNat ≤ 65535
     | 2 => v.toNat ≤ 2 ^ 30
     | _ => v.toNat ≤ 65535) ∧ r = v
  | 36 => r = v
  | 37 =>
    (match ix / 2 ^ 16 % 4 with
     | 0 => r = BitVec.ofNat 64 (bits v 63 1 * 2 ^ 63 + bits v 12 40 * 4096 + bits v 0 5)
     | 1 => r = v
     | 2 => r = BitVec.ofNat 64 (bits v 0 32)
     | _ => r = 0)
  | 38 => r = BitVec.ofNat 64 (256 * (bit v 8).toNat + bits v 0 8)
  | 39 => bits v 32 32 = 0 ∧ v ≠ 0 ∧ r = v
  | 40 => bits v 32 32 = 0 ∧ r = v
  | _ => False

/-- R308: what a slot of core c that is resumed leaves at the cores: where the core's group is pre-empted and quiescent, every core of the group
takes arrivals again; else nothing changes. -/
def Regrouped (s t : State) (c : Nat) : Prop :=
  let rests := (s.core c).pre ≠ .off ∧ s.quiescent (s.core c).preGroup = true
  (∀ n, rests → n ∈ (s.core c).preGroup →
    t.core n = { s.core n with pre := .off, preGroup := [], preExpired := false, quiesced := false }) ∧
  ∀ n, ¬(rests ∧ n ∈ (s.core c).preGroup) → t.core n = s.core n

/-- R153, R292, R331: x as it is after it has been resumed: READY at `k.epc`, with cause 0 and park 0; but park 6 stays, and with it the barrier
at which it has been counted, until its word issues. -/
def resumed (x : Slot) : Slot :=
  { x with
    st := .ready, pc := pcDown x.epc, cause := 0, sw := if x.park = 6 then x.sw else (x.setPark 0).sw, pend := .none, popDue := false
    atAnchor := false, frameBuf := [], stopReq := .none_, counted := false, owed := if x.park = 6 then x.pend.kept else .none }

/-- Table 21.2: what a write of `k.sv` with index ix leaves at core c, whose slot x is its target: one lane of a register of the window; a
register beyond it is not written. -/
def LaneWritten (s t : State) (c : Nat) (x : Slot) (ix : Nat) (v : Word) : Prop :=
  let inside := ix % 64 < 4 * x.vsize
  (∀ r n, n < 32 → (t.core c).lane r n =
    if inside ∧ r = 4 * x.vbase + ix % 64 ∧ n = ix / 64 % 32 then v.truncate 32 else (s.core c).lane r n) ∧
  ∀ r, ¬(inside ∧ r = 4 * x.vbase + ix % 64) → (r ∈ (t.core c).badV ↔ r ∈ (s.core c).badV)

/-- R19, R20, R326: what a privileged write of v to register n (0 to 13) of slot j of core c leaves, made by another slot; where it is not
allowed the slot whose turn it is stops with F_ILLEGAL at `word`. -/
def SkWritten (s t : State) (c j n : Nat) (v word : Word) : Prop :=
  let x := s.slot c j
  let swOk := bits v 46 18 = 0 ∧ bit v 2 = bit x.sw 2 ∧ (isCompute c = true ∨ bit v 1 = bit x.sw 1)
  (n = 6 → swOk → t.slot c j = { x with sw := v, frameBuf := [] }) ∧
  (n = 7 → t.slot c j = { x with epc := v }) ∧ (n = 8 → t.slot c j = { x with cause := v }) ∧
  (n = 9 → t.slot c j = { x with fault := v }) ∧ (n = 10 → t.slot c j = { x with faddr := v }) ∧
  (n = 12 → bits v 5 59 = 0 → t.slot c j = { x with fst := v }) ∧
  (n ≤ 5 ∨ n = 11 ∨ (n = 6 ∧ ¬swOk) ∨ (n = 12 ∧ bits v 5 59 ≠ 0) → Stops s t 1 0 word) ∧
  (n = 13 → s.curCore = securityCore →
    (t.core c).owner = BitVec.ofNat 64 (if bit v 39 = true then bits v 0 40 else bits v 0 32) ∧ t.slot c j = x)

/-- R147, Table 21.2: what a write of `k.cchq` with index ix leaves of a chain queue q: with bit 6 of the index, its count, up to 4; else its
entry e. Entries that were not there are zero. -/
def ChainWritten (now : Nat) (q r : List (Nat × Word)) (ix : Nat) (v : Word) : Prop :=
  let e := ix / 16 % 4
  let n := min 4 (bits v 0 3)
  (ix / 64 % 2 = 0 → ∀ i, r[i]? = if i = e then some (now, v) else if i < e ∧ q.length ≤ i then some (now, 0) else q[i]?) ∧
  (ix / 64 % 2 = 1 → ∀ i, r[i]? = if n ≤ i then none else if q.length ≤ i then some (now, 0) else q[i]?)

/-- R307 to R309, R330: what a write of v to `k.pre` of core c leaves. -/
def PreWritten (s t : State) (c : Nat) (v : Word) : Prop :=
  let op := bits v 0 2
  let inGroup (n : Nat) : Prop := op ≠ 0 ∧ (n = c ∨ (bit v 2 = true ∧ n < 3072 ∧ (s.core n).owner = (s.core c).owner))
  (∀ n, inGroup n → (t.core n).pre = (if op = 1 then .immediate else if op = 2 then .drain (s.now + bits v 32 32) else .off) ∧
    (t.core n).quiesced = false ∧ (t.core n).preExpired = false ∧
    (op = 3 → (t.core n).links = (s.core n).links.filter (fun a => a.record.isNone))) ∧
  (∀ n, ¬inGroup n → (t.core n).pre = (s.core n).pre ∧ (t.core n).links = (s.core n).links) ∧
  ∀ n k, k < 16 → s.other n k →
    let x := s.slot n k
    let runs := inGroup n ∧ (x.st = .ready ∨ x.st = .parked)
    (runs → t.slot n k = { x with stopReq := if op = 1 then .now_ else if op = 2 then .anchor else .none_ }) ∧ (¬runs → t.slot n k = x)

/-- R334: the entries that a kind removes for an address and a tenant: of kind 0, those of the page of stage 1 that holds the address. -/
def Covered (kind va : Word) (tenant : BitVec 8) (e : TlbEnt) : Prop :=
  (kind = 0 ∧ e.tenant = tenant ∧ va.toNat % 2 ^ 57 / e.page = e.va / e.page) ∨ (kind = 1 ∧ e.tenant = tenant) ∨
  (kind = 2 ∧ e.tenant = tenant ∧ e.gpa / 2 ^ 21 = bits va 21 31) ∨ kind = 3

/-- A notice reaches core c (R332): each of its slots that idles goes on, and every other that is not FREE has its notice bit set. -/
def Noticed (s t : State) (c : Nat) : Prop :=
  (∀ k < slotsOf c, t.slot c k =
    if (s.slot c k).st = .free then s.slot c k
    else if (s.slot c k).st = .parked ∧ (s.slot c k).pend = .idle then (s.slot c k).wakeNext
    else { s.slot c k with notice := true }) ∧
  (∀ c' k, k < 16 → c' ≠ c → t.slot c' k = s.slot c' k)

/-! ## Translation, homes and the die scheduler -/

/-- R193, R194: what the walk of a waiting slot ends with; an entry of the cluster's L2 TLB ends it, unless stage 2 denies the access. -/
def WalkEnds (s : State) (c k : Nat) (va : Word) (acc : Acc) (rd wr : Bool) (ptab s2b s2l : Word) (r : WalkRes) : Prop :=
  let fresh := s.walk (s.slot c k).tenant ptab s2b s2l va rd wr (decide (acc = .fetch))
  let hit := if isCompute c = true then tlbFind (s.cluster (clusterOf c)).tlb2 (s.slot c k).tenant va else none
  (∀ e, hit = some e → r = if s2Denies e rd wr (decide (acc = .fetch)) = true then fresh else .entry e) ∧ (hit = none → r = fresh)

/-- R192: the low bit of the index of a level of stage 1 (Table 10.3). -/
def levelLow (n : Nat) : Nat := [48, 39, 30, 21, 16].getD n 0
/-- R192: the bytes of a level's table. -/
def levelBytes (n : Nat) : Nat := if n = 4 then 256 else 4096

/-- R194: stage 2 puts a guest address at `pa` with the permission bits of `w` (Table 10.5); where it is off, the address stays and all is allowed. -/
def Framed (s : State) (ptab s2b s2l : Word) (gpa pa : Nat) (w : Word) : Prop :=
  (bit ptab 0 = false ∧ pa = gpa ∧ w = 31) ∨
  (bit ptab 0 = true ∧ gpa / 2 ^ 21 < s2l.toNat ∧ w = s.wordAs 0 (s2b.toNat + 8 * (gpa / 2 ^ 21)) ∧
    bit w 0 = true ∧ bits w 52 12 = 0 ∧ bits w 5 16 = 0 ∧ pa = bits w 21 31 * 2 ^ 21 + gpa % 2 ^ 21)

/-- R298: the stage-2 entry of a guest address is read and has an uncorrectable error. -/
def FrameInError (s : State) (ptab s2b s2l : Word) (gpa : Nat) : Prop :=
  bit ptab 0 = true ∧ gpa / 2 ^ 21 < s2l.toNat ∧ s.badWord (s2b.toNat + 8 * (gpa / 2 ^ 21)) = true

/-- R192, R194: the entry of a level for an address stands at `pa`, in the table at guest address `tab`, which stage 2 lets the walker read and
which lies in memory. -/
def EntrySpot (s : State) (ptab s2b s2l : Word) (va : Word) (n tab pa : Nat) : Prop :=
  ∃ f w, ¬FrameInError s ptab s2b s2l tab ∧ Framed s ptab s2b s2l tab f w ∧ bit w 1 = true ∧ s.populated f (levelBytes n) = true ∧
    pa = f + 8 * (va.toNat / 2 ^ levelLow n % (if n = 4 then 32 else 512))

/-- R193: a valid entry of a level that is malformed. -/
def MalformedEntry (n : Nat) (e : Word) : Prop :=
  bit e 63 = true ∨ bits e 52 8 ≠ 0 ∨ bits e 6 2 ≠ 0 ∨
  (bit e 1 = true ∧ (n < 2 ∨ bits e 8 44 * 256 % 2 ^ levelLow n ≠ 0 ∨ (bit e 60 = true ∧ bits e 61 2 ≠ 0) ∨ (bits e 61 2 = 3 ∧ bit e 5 = true))) ∨
  (bit e 1 = false ∧ (n = 4 ∨ bits e 8 44 * 256 % levelBytes (n + 1) ≠ 0 ∨ bits e 60 3 ≠ 0 ∨ bits e 2 4 ≠ 0))

/-- R192, R193: the walk for an address comes to level n in the table at guest address `tab`: by the L0 address of `k.ptab` and a sound pointer of
every level before. -/
def ComesTo (s : State) (ptab s2b s2l : Word) (va : Word) : Nat → Nat → Prop
  | 0, tab => tab = bits ptab 12 40 * 4096
  | n + 1, tab => ∃ up pa e, ComesTo s ptab s2b s2l va n up ∧ EntrySpot s ptab s2b s2l va n up pa ∧ s.badWord pa = false ∧
      e = s.wordAs 0 pa ∧ bit e 0 = true ∧ bit e 1 = false ∧ ¬MalformedEntry n e ∧ tab = bits e 8 44 * 256

/-- R188, R195, R360: a page of a type code may lie at a place. -/
def TypeLies (ty : Nat) (p : Place) : Prop :=
  (ty = 0 → p ≠ .devReg) ∧ (ty = 1 → ∃ d, p = .home d) ∧ (ty = 2 → (∃ d, p = .home d) ∨ ∃ q, p = .pkg q)

/-- R192 to R195: what a walk that comes to level n answers there. -/
def WalkAnswers (s : State) (tenant : BitVec 8) (ptab s2b s2l va : Word) (rd wr fetch : Bool) (n tab : Nat) : Prop :=
  let r := s.walk tenant ptab s2b s2l va rd wr fetch
  (FrameInError s ptab s2b s2l tab → r = .data) ∧
  (¬FrameInError s ptab s2b s2l tab → (∀ f w, ¬(Framed s ptab s2b s2l tab f w ∧ bit w 1 = true)) → r = .stage2) ∧
  (¬FrameInError s ptab s2b s2l tab → ∀ f w, Framed s ptab s2b s2l tab f w → bit w 1 = true → s.populated f (levelBytes n) = false → r = .bad) ∧
  ∀ pa, EntrySpot s ptab s2b s2l va n tab pa →
    (s.badWord pa = true → r = .data) ∧
    (s.badWord pa = false →
      let e := s.wordAs 0 pa
      (bit e 0 = false → r = .absent) ∧
      (bit e 0 = true → MalformedEntry n e → r = .bad) ∧
      (bit e 0 = true → ¬MalformedEntry n e → bit e 1 = true →
        let a := va.toNat % 2 ^ 57
        let page := 2 ^ levelLow n
        let size := if bit ptab 0 = true then Nat.min page (2 ^ 21) else page
        let gpa := bits e 8 44 * 256 + a % page / size * size
        let ty := bits e 61 2
        let denied (w : Word) : Prop :=
          (rd = true ∧ bit w 1 = false) ∨ (wr = true ∧ bit w 2 = false) ∨ (fetch = true ∧ bit w 3 = false) ∨ ((ty = 1 ∨ ty = 2) ∧ bit w 4 = false)
        (FrameInError s ptab s2b s2l gpa → r = .data) ∧
        (¬FrameInError s ptab s2b s2l gpa →
          ((∀ f w, ¬(Framed s ptab s2b s2l gpa f w ∧ ¬denied w)) → r = .stage2) ∧
          ∀ f w, Framed s ptab s2b s2l gpa f w → ¬denied w →
            (s.placeOf f = none → r = .bad) ∧
            ∀ p, s.placeOf f = some p →
              (s.populated f size = false ∨ ¬TypeLies ty p → r = .bad) ∧
              (s.populated f size = true → TypeLies ty p → ∃ x, r = .entry x ∧ x.tenant = tenant ∧ x.va = a / size * size ∧ x.size = size ∧
                x.page = page ∧ x.pa = f ∧ x.gpa = gpa ∧ x.ty.code = ty ∧ x.rp = bit e 60 ∧ x.u = bit e 5 ∧ x.x = bit e 4 ∧ x.w = bit e 3 ∧
                x.r = bit e 2 ∧ x.s2x = bit w 3 ∧ x.s2w = bit w 2 ∧ x.s2r = bit w 1))))

/-- R193, R194, R277, R291: the wait of slot k of core c for a translation ends without one. -/
def NoTranslation (s t : State) (c k : Nat) (va : Word) (acc : Acc) : Prop :=
  (∀ d, acc = .desc d → ∃ u, u = s.modSlot c k (fun x => { x with fault := 1 }) ∧ Answered u t c k d 0) ∧
  ((∀ d, acc ≠ .desc d) → Faulted s t c k 5 va (if acc = .fetch then 2 else 0) false)

/-- R199: a range of memory is of the replicated pages that hold a 64 KiB page. -/
def OfPages (s : State) (page a n : Nat) : Prop :=
  overlap (page * 2 ^ 16) (2 ^ 16) a n = true ∨
  ∃ m ∈ s.rpMappings, (∃ q ∈ m.2, overlap q.1 q.2 (page * 2 ^ 16) (2 ^ 16) = true) ∧ ∃ q ∈ m.2, overlap q.1 q.2 a n = true

/-- R196, R197: the upcall that a slot's context arms for a page fault, with a record that is free: entry address, kernel, area, record. -/
def UpcallAt (s : State) (x : Slot) (kr : KernRef) (cap : Capsule) (area : FaultArea) (pc : Word) (kernel i : Nat) : Prop :=
  x.upcall = false ∧ x.kern = some kr ∧ s.capsule? kr.handle = some cap ∧
  s.pkg.areas.find? (fun a => a.ctx = x.ctx && a.handle = kr.handle) = some area ∧
  (∃ n, cap.upcall = some n ∧ cap.entry n = some (pc, kernel)) ∧
  (i < area.n ∧ i ∉ area.used.map (·.idx) ∧ ∀ j < i, j ∈ area.used.map (·.idx))

/-- A core admits a record (R139, R163, R303): it is of the record's context, and by its summary a slot is FREE, the kernel's `.slots` limit is
not reached, and granules and pool space are there. -/
def Admits (s : State) (r : TaskRec) (c : Nat) : Prop :=
  (s.core c).owner = s.ctxOwner r.ctx ∧ 0 < (s.summary c).free ∧
  ∃ q, s.kernel? ⟨r.handle, r.kernel, 0⟩ = some q ∧ s.holders c ⟨r.handle, r.kernel, 0⟩ < q.slots ∧
    (freeRun (s.summary c).vmap q.vsize).isSome = true ∧
    (q.spad = 0 ∨ (poolFit (s.core c).poolBase (s.core c).poolSize (s.summary c).uses (q.spad + 128)).isSome = true)

/-- R163: the capsule of a record is VALID. -/
def Ready (s : State) (r : TaskRec) : Prop := ∃ cap, s.capsule? r.handle = some cap ∧ cap.st = .valid

/-- R158: a queue that stands in key order. -/
def InOrder (l : List TaskRec) : Prop := l.Pairwise (fun a b => b.key.lt a.key = false)

/-- Nothing of the machine differs but one die. -/
def OnlyDie (s t : State) (d : Nat) : Prop := t = { s with dies := t.dies } ∧ ∀ e, e ≠ d → t.die e = s.die e

/-! ## Capsules, contexts, keys and commands -/

/-- c is the command of interface q, of tenant x, with this code that takes its next step; in ROM recovery only UPDATE, ATTEST and QUERY do, and
none asks for a tenant (R374, R391). -/
def NextCommand (s : State) (q code : Nat) (c : Cmd) (x : BitVec 8) : Prop :=
  let recovery := s.pkg.boot = .recovery
  s.findCmd q code = some c ∧ (s.qifTenant q = some x ∨ (recovery ∧ s.qifTenant q = none ∧ x = 0)) ∧ (recovery → code = 7 ∨ code = 8 ∨ code = 11)

/-- R374: a command is complete: it leaves the interface, and its completion with this status and result is due, but not in ERROR (R376). -/
structure CommandEnds (s t : State) (q : Nat) (c : Cmd) (status : Nat) (result : Word) : Prop where
  cmds : (t.qif q).cmds = (s.qif q).cmds.erase c
  due : (t.qif q).due = if (s.qif q).tstate = .error then (s.qif q).due else (s.qif q).due ++ [⟨BitVec.ofNat 32 c.tag, status, result⟩]
  others : ∀ p, p ≠ q → t.qif p = s.qif p

/-- Nothing of the machine differs but queue interfaces. -/
def OnlyQifs (s t : State) : Prop := t = { s with pkg := { s.pkg with qifs := t.pkg.qifs } }

/-- A command goes on at a later stage. -/
def CommandGoesOn (s t : State) (q : Nat) (c : Cmd) (n : Nat) : Prop :=
  (t.qif q).cmds = (s.qif q).cmds.map (fun d => if d = c then { c with stage := n } else d) ∧ (t.qif q).due = (s.qif q).due

/-- R375: the installed capsule that a handle names for a tenant: one of its own that has not been deleted. -/
def Owned (s : State) (h : Nat) (tenant : BitVec 8) (cap : Capsule) : Prop :=
  s.capsule? h = some cap ∧ cap.tenant = tenant ∧ cap.st ≠ .deleted

/-- R314: each loop back-edge of a capsule's forms has an anchor at its target. -/
def EdgesAnchored (x : Capsule) : Prop := ∀ p ∈ x.parts, ∀ e ∈ p.backEdges, ∃ n, e = some n ∧ n < p.marks.length
/-- Table 20.1: a native register in which a value can live: g1 to g15, v0 to v63. -/
def NativeReg (r : LiveReg) : Prop := (∃ n, r = .g n ∧ n ≠ 0) ∨ ∃ n, r = .v n
/-- Table 20.1: an anchor map can hold the anchors of a capsule: their numbers, their values, of which a translated part keeps each in a register of
its kind, and the registers that islands name for them. -/
def MapFits (x : Capsule) : Prop :=
  (x.parts.map (fun p => p.marks.length)).foldl (· + ·) 0 ≤ 65536 ∧
  ∀ p ∈ x.parts, (∀ m ∈ p.marks, m.length ≤ 79 ∧ m.Nodup ∧
      ((∀ i, p.island = some i → i.gen ≠ 0x31347167) →
        (m.filter (Config.valueInV p.form)).length ≤ 4 * min (((x.kernels[p.kernel]?).map (·.vsize)).getD 0) 16 ∧
        (m.filter (fun n => !Config.valueInV p.form n)).length ≤ 15)) ∧
    ∀ i, p.island = some i → ∀ a ∈ i.anchors, (∀ l ∈ a.2.2, NativeReg l.2) ∧ (a.2.2.map (·.2)).Nodup
/-- The memory in which the firmware lays the n words of a body of a tenant that no die has tables for: from its place, in whole pages. -/
def BodySpot (b : Body) : Nat := b.pa % max (2 ^ 16) (0x9000000000 - (4 * b.words.length + 2 ^ 16)) / 2 ^ 16 * 2 ^ 16
/-- R313: every island of a capsule is of the device's generation, `gq41` in ASCII. -/
def OfThisGeneration (x : Capsule) : Prop := ∀ p ∈ x.parts, ∀ i, p.island = some i → i.gen = 0x31347167

/-- R314, R315: a body holds the islands of this generation word for word, a part after another, and its map has every anchor of the form once, under
the number that it has there. -/
def BodyOf (x : Capsule) (b : Body) : Prop :=
  (∀ (n : Nat) (p : AcoonPart) (i : Island), x.parts[n]? = some p → p.island = some i → i.gen = 0x31347167 →
    ∃ w, ∀ j < i.words.length, b.words[w + j]? = i.words[j]?) ∧
  b.anchors.map (·.num) = List.range ((x.parts.map (fun p => p.marks.length)).foldl (· + ·) 0) ∧
  b.entries.map (·.kernel) = x.entryKernels

/-- R319, R335: a parked `refld` of slot k of core c reads entry i of its capsule's table: the part of it that f names, or F_REFTYPE. -/
def ReadsRef (s t : State) (c k : Nat) (d ty : Reg) (i : Word) (f : RefEnt → Word) : Prop :=
  let entry := ((s.slot c k).kern.bind (fun r => s.capsule? r.handle)).bind (fun cap => cap.refs[i.toNat]?)
  (entry = none → Faulted s t c k 23 0 15 false) ∧
  ∀ e, entry = some e → (e.ty ≠ ty.toNat → Faulted s t c k 23 0 (BitVec.ofNat 64 e.ty) false) ∧ (e.ty = ty.toNat → Answered s t c k d (f e))

/-- R159: the LAUNCH at the head of the ring of an interface leaves it. -/
def LeavesRing (s t : State) (q : Nat) : Prop :=
  (t.qif q).head = if (s.qif q).atHead = true then ((s.qif q).head + 1) % 2 ^ (s.qif q).s else (s.qif q).head

/-- R312: a segment that comes back with a save is not of it: its counter differs, or none is expected. -/
def StaleSeg (key : KeySlot) (b : List Byte) : Prop := (SegHdr.ofBytes (b.take 32)).ctr ≠ key.c ∨ key.l = false
/-- R312: its tag is right. -/
def TaggedSeg (key : KeySlot) (b : List Byte) : Prop :=
  segTag key.key (SegHdr.ofBytes (b.take 32)) ((b.drop 32).take (SegHdr.ofBytes (b.take 32)).len) =
    b.drop (32 + (SegHdr.ofBytes (b.take 32)).len)

/-- R337: a seal or unseal finishes with this outcome in g[d], on a core without chain queues. -/
def Outcome (s t : State) (d : Reg) (v : Word) : Prop :=
  (∀ r, t.me.reg r = if r = d ∧ r ≠ 0 then v else s.me.reg r) ∧ t.me.pc = s.me.advance.pc ∧ t.me.st = .ready

/-- R339: a security-core instruction finishes with this outcome in `k.fault`. -/
def KeyOutcome (s t : State) (srcs : List Reg) (v : Word) : Prop :=
  t.me = { s.me.advance with fault := v } ∧ Popped s t srcs ∧ ∀ c k, s.other c k → t.slot c k = s.slot c k

/-- R308, R337: whether a seal may go on for a request, on a service core: the group is quiescent, and its notice has come. -/
def SealAllowed (s : State) (h : SegHdr) : Prop :=
  let x := s.core h.core
  h.ok (4 * (s.slot h.core h.slot).vsize) = true ∧ isService s.curCore = true ∧ h.core < 3072 ∧ tileOf h.core = tileOf s.curCore ∧
    bit x.owner 39 = true ∧ x.pre ≠ .off ∧ x.quiesced = true ∧ s.quiescent x.preGroup = true ∧
    (h.segw / 2 ^ 30 % 2 = 1 ∨ (s.keySlot (bits x.owner 32 7)).openSave = true)

/-- R298: what a request names holds an uncorrectable error: a g register of the slot, a register of its window, a word of local memory. -/
def BadState (s : State) (h : SegHdr) : Prop :=
  let x := s.slot h.core h.slot
  (h.kind = 0 ∧ x.badG ≠ 0) ∨
  (h.kind = 1 ∧ ∃ n ∈ (s.core h.core).badV, 4 * x.vbase + h.off ≤ n ∧ n < 4 * x.vbase + h.off + h.len / 128) ∨
  (h.kind = 2 ∧ ∃ i < h.len / 8, s.badWord (2 ^ 56 + h.core * 2 ^ 18 + h.off + 8 * i) = true)

/-- R339: whether a slot that is not FREE stands on a core whose kslot names a key slot. -/
def KeyInUse (s : State) (n : Nat) : Prop :=
  ∃ p ∈ s.slots, p.2.st ≠ .free ∧ bit (s.core (p.1 / 16)).owner 39 = true ∧ bits (s.core (p.1 / 16)).owner 32 7 = n

/-! ## Firmware commands, hosts, SPDM, power and repair -/

/-- R322: something refers to a capsule. -/
def InUse (s : State) (h : Nat) : Prop :=
  let uses (x : Slot) : Prop := x.st ≠ .free ∧ ∃ r, x.kern = some r ∧ r.handle = h
  (∃ p ∈ s.slots, uses p.2) ∨ (∃ p ∈ s.pkg.ctxs, ∃ v, p.2.saved = some v ∧ ∃ e ∈ v.slots, uses e.2) ∨
  (∃ p ∈ s.pkg.keys ++ s.pkg.parked, p.2.l = true ∧ ∃ e ∈ p.2.kept, uses e.2) ∨
  (∃ p ∈ s.dies, ∃ r ∈ p.2.recs, r.handle = h) ∨ (∃ p ∈ s.dies, ∃ l, p.2.steal = .reply l ∧ ∃ r ∈ l, r.handle = h) ∨ (∃ f ∈ s.pkg.recs, f.task.handle = h ∧ f.task.fire = none) ∨
  (∃ p ∈ s.cores, ∃ a ∈ p.2.links, a.kern.handle = h)

/-- The bytes that stand at a memory key, as an agent without a key reads them. -/
def BytesAt (s : State) (key : Nat) (l : List Byte) : Prop :=
  ∀ i < l.length, byteOf (s.wordAs 0 (key + i)) ((key + i) % 8) = l.getD i 0

/-- The bytes that stand in the memory of an interface's host at an address, in one page (R373). -/
def HostBytes (s t : State) (q a : Nat) (l : List Byte) : Prop :=
  a % 4096 + l.length ≤ 4096 → ∀ i < l.length, byteOf (t.wordAs 0 (s.hostKey q (a + i))) (s.hostKey q (a + i) % 8) = l.getD i 0

/-- The events that are commands (Table 26.5): interface and code. -/
def commandOf : Instr → Option (Nat × Nat)
  | .installCapsule q => some (q, 1)
  | .bindRef q => some (q, 2)
  | .launchTask q => some (q, 3)
  | .suspendCtx q => some (q, 4)
  | .resumeCtx q => some (q, 5)
  | .deleteCapsule q => some (q, 6)
  | .updateFw q => some (q, 7)
  | .attestCmd q => some (q, 8)
  | .rebuildCmd q => some (q, 9)
  | .endCtx q => some (q, 10)
  | .queryCmd q => some (q, 11)
  | .debugCmd q => some (q, 12)
  | .placeImage q => some (q, 13)
  | _ => none

/-- R371, R391: the module presents a logical device: one of sixteen behind a switch, one of two without, LD0 alone in ROM recovery. -/
def Presented (s : State) (ld : Nat) : Prop :=
  if s.pkg.boot = .recovery then ld = 0 else if s.pkg.switched = true then ld < 16 else ld < 2

/-- The SPDM requests: the request, its channel and its message. -/
def spdmOf : Instr → Option (Option SpdmReq × Nat × List Byte)
  | .getVersion c m => some (some .getVersion, c, m)
  | .getCapabilities c m => some (some .getCapabilities, c, m)
  | .negotiateAlgorithms c m => some (some .negotiateAlgorithms, c, m)
  | .getDigests c m => some (some .getDigests, c, m)
  | .getCertificate c m => some (some .getCertificate, c, m)
  | .challengeReq c m => some (some .challenge, c, m)
  | .getMeasurements c m => some (some .getMeasurements, c, m)
  | .keyExchange c m => some (some .keyExchange, c, m)
  | .finishReq c m => some (some .finish, c, m)
  | .keyUpdate c m => some (some .keyUpdate, c, m)
  | .heartbeatReq c m => some (some .heartbeat, c, m)
  | .endSession c m => some (some .endSession, c, m)
  | .vendorDefinedRequest c m => some (some .vendorDefined, c, m)
  | .unsupportedRequest c m => some (none, c, m)
  | _ => none

/-- R379: the place of a request in the order of SPDM, by phase and session (0 none, 1 opening, 2 open). -/
def InTurn (r : SpdmReq) (ph : SpdmPhase) (session : Nat) : Prop :=
  match r with
  | .getVersion => True
  | .getCapabilities => ph = .version
  | .negotiateAlgorithms => ph = .capabilities
  | .keyExchange => ph = .negotiated ∧ session = 0
  | .finish => session = 1
  | .keyUpdate => session = 2
  | .heartbeat => session = 2
  | .endSession => session = 2
  | .vendorDefined => session = 2
  | _ => ph = .negotiated

/-- R379, R391: a request that comes in its order is followed: it is well formed, a negotiation offers all that the responder does, and a TDISP
request reaches a module that takes one. -/
def Followed (s : State) (r : SpdmReq) (msg : List Byte) : Prop :=
  Config.spdmAccepts r.code msg = true ∧
  (r = .negotiateAlgorithms → ∀ a ∈ [SpdmAlg.sha384, .ecdsaP384, .ecdheP384, .aes256Gcm], a ∈ Config.spdmOffers msg) ∧
  (r = .vendorDefined → Config.tdispRequest msg ≠ none → s.pkg.boot = .running ∧ s.hasFeature 4 = true)

/-- R376: what a stop of interface q does: nothing where it is unlocked; else it is unlocked once its commands are complete, and stops till
then. -/
def Stopped (s t : State) (q : Nat) : Prop :=
  let x := s.qif q
  (x.tstate = .unlocked → t = s) ∧
  (x.tstate ≠ .unlocked →
    ((∀ f ∈ s.pkg.recs, ∀ h, f.host = some h → h.1 ≠ q) → x.cmds = [] → (x.due = [] ∨ x.tstate = .error) →
      t.qif q = { x with tstate := .unlocked, stopping := false, due := [] }) ∧
    (x.cmds ≠ [] → t.qif q = { x with stopping := true }))

/-- R391: ROM recovery: LD0 and interface 0 alone, in RUN; no other takes a command. -/
def InRecovery (t : State) : Prop :=
  t.pkg.boot = .recovery ∧ (t.qif 0).tstate = .run ∧ (t.qif 0).ld = 0 ∧ (∀ d ∈ t.pkg.lds, d.1 = 0) ∧
  ∀ q, q ≠ 0 → (t.qif q).tstate = .unlocked

/-- R390, R392: what a reset leaves of the package: no slot and no die holds anything, no core has an owner or a link, no capsule is VALID, and of
memory only what is not the package's own remains. -/
def Cold (s t : State) : Prop :=
  t.slots = [] ∧ t.dies = [] ∧ t.empties = [] ∧ t.now = 0 ∧ (∀ c, t.core c = { Core.reset with health := (t.core c).health }) ∧
  (∀ c ∈ t.pkg.caps, c.2.st = .void ∨ c.2.st = .deleted) ∧ t.pkg.caps.length = s.pkg.caps.length ∧
  (∀ a, ¬(2 ^ 51 ≤ a ∧ a < 0xF000000000000) → t.byteAt a = 0) ∧ ∀ a, 2 ^ 51 ≤ a → a < 0xF000000000000 → t.byteAt a = s.byteAt a

/-- R390: the policy word of a logical device, as it is measured. -/
def policyOf (d : LDev) : List Byte := leBytes 4 d.tscope.toNat ++ leBytes 4 d.fcnt.toNat

/-! ## One step, and the machine as a whole -/

/-- The word w stands where the slot whose turn it is fetches at an address (R29, R82, R193): the address is translated, an entry of its
core's instruction TLB covers it and lets the slot execute, and the word is not in error. -/
def FetchesWord (s : State) (a : Word) (w : BitVec 32) : Prop :=
  Translated a ∧ ∃ e, tlbFind (s.core s.curCore).itlb s.me.tenant a = some e ∧ (s.me.priv = true ∨ e.u = true) ∧ e.x = true ∧
    e.s2x = true ∧
    let pa := e.pa + (a.toNat % 2 ^ 57 - e.va)
    (∃ p, s.placeOf pa = some p) ∧ s.badWord pa = false ∧ w.toNat = (s.memLoad 0 pa 4).toNat

/-- R59: what the slot fetches before it issues, by position in its frame and address: the word at its program counter, and in a frame every
earlier word that its sequencer buffer does not hold. -/
def missingWords (x : Slot) : List (Nat × Word) :=
  let fpos := bits x.sw 4 4
  if x.frame = true then
    (List.range (fpos + 1)).filterMap (fun p =>
      if Tab.find? x.frameBuf p = none then some (p, pcOf (x.pc - BitVec.ofNat 64 (4 * (fpos - p)))) else none)
  else [(0, x.pc)]

/-- R29, R59: the slot whose turn it is fetches words in their order, and takes each. -/
def Fetches : State → List (Nat × Word) → State → Prop
  | s, [], u => u = s
  | s, (p, a) :: l, u => ∃ w, FetchesWord s a w ∧ Fetches (s.modMe (fun x => x.holdWord p w)) l u

/-- The core of the slot whose turn it is may issue (R300, R302, R390), the slot is not to stop (R304, R307), and it waits for no store of its
own to another core's window (R220). -/
def MayIssue (s : State) : Prop :=
  s.pkg.boot = .running ∧ (s.core s.curCore).health = .ok ∧ s.me.unwind = none ∧ s.me.stopReq ≠ .now_ ∧
    ∀ e ∈ s.me.out, e.loc.window = true → e.claim ≠ s.me.claims

/-- R29, R59: the word w is the next of the slot whose turn it is, in the sequencer buffer of its frame or else in memory, and u is the machine
as it issues: the slot has taken w, and holds what it has fetched if it is of a frame. -/
def Issues (s : State) (w : BitVec 32) (u : State) : Prop :=
  let held (v : Option (BitVec 32)) : Prop := s.me.frame = true ∧ Tab.find? s.me.frameBuf (bits s.me.sw 4 4) = v
  (held (some w) ∧ u = s.modMe (fun x => { x with word := w })) ∨
  ((s.me.frame = true → held none) ∧ Fetches s (missingWords s.me) u ∧ u.me.word = w)

/-- A cycle begins: time has moved on, the clocks are read, and what earlier cycles left to be given back or to end is done (R141, R308, R356). -/
def cycleBegun (s : State) : State := (State.readClocks { s with now := s.now + 1 }).giveBack.endContexts

/-- R23: the cause of slot k of core c stands: the word at which it is parked, evaluated now, would park for the same reason. -/
def CauseStands (s : State) (c k : Nat) : Prop :=
  let t : State := { s with curCore := c, curSlot := k }
  ∃ i u, decode t.me.word = .ok i ∧ exec (t.me.stepFrame i) (t.modMe Slot.wake) = .next u ∧
    u.me.st = .parked ∧ u.me.pend = .retry ∧ u.me.park = t.me.park

/-- A word that recognises an arrival it has made by park 6 (R153, R236). -/
def CountedWord (i : Instr) : Prop :=
  (∃ id lv, i = .bar id lv) ∨ (∃ d id, i = .sbar d id) ∨ ∃ d a b sc, i = .barm d a b sc

/-! ## Operands -/

/-- What the words of no table of rows name: vector registers that they read, source g registers, destination. -/
def otherOperands : Instr → Option (List VReg × List Reg × Option Reg)
  | .vext d a _ => some ([a], [], some d)
  | .br a _ _ => some ([], [a], none)
  | .skip a cond _ => some ([], if cond = 6 then [] else [a], none)
  | .call d _ => some ([], [], some d)
  | .callr d a => some ([], [a], some d)
  | .ret a => some ([], [a], none)
  | .wrs a _ => some ([], [a], none)
  | .spawn a b => some ([], spawnSrcs a b, none)
  | .spawnq a b c => some ([], [a, b, c], none)
  | .migr a => some ([], [a], none)
  | .rput _ a b => some ([], [a, b], none)
  | .tnow d a => some ([], [], if a = 14 then some a else some d)
  | .sbar d _ => some ([], [], some d)
  | .jwait a => some ([], [a], none)
  | .jpoll d a => some ([], [a], some d)
  | .scls a b => some ([], [a, b], none)
  | .xenq a b => some ([], [a, b], none)
  | .xret a b => some ([], [a, b], none)
  | .xcfg a b => some ([], [a, b], none)
  | .xstat d a => some ([], [a], some d)
  | .sysc a => some ([], [a], none)
  | .tlbinv a b => some ([], [a, b], none)
  | .movk d _ => some ([], [], some d)
  | .kmov a _ => some ([], [a], none)
  | .refldBase d a _ => some ([], [a], some d)
  | .refldShape d a _ => some ([], [a], some d)
  | .rbld a => some ([], [a], none)
  | .seal d a b => some ([], [a, b], some d)
  | .unseal d a b => some ([], [a, b], some d)
  | .keyld a b => some ([], [a, b], none)
  | .keyclr a => some ([], [a], none)
  | .ownset a b => some ([], [a, b], none)
  | _ => none

/-- What a word names: vector registers that it only writes, those that it reads, source g registers, destination. -/
def operandsOf (i : Instr) : Option (List VReg × List VReg × List Reg × Option Reg) :=
  let ofRow (r : Option Row) := r.map (fun q => (([], [], q.srcs, some q.dst) : List VReg × List VReg × List Reg × Option Reg))
  let ofVRow (r : Option VRow) := r.map (fun q => (q.vdst, q.vsrc, q.srcs, (none : Option Reg)))
  ofRow (integerRow i) <|> ofRow (multiplyRow i) <|> ofRow (immediateRow i) <|>
  (divisionOf i).map (fun q => ([], [], [q.2.1, q.2.2.1], some q.1)) <|> (floatRow i).map (fun q => ([], [], q.1, some q.2.1)) <|>
  ofVRow (vecIntRow i) <|> ofVRow (vecFloatRow i) <|> ofVRow (vecLaneRow i) <|> ofVRow (vecMixRow i) <|>
  (compareRow i).map (fun q => ([], [q.2.2.1, q.2.2.2.1], maskSrc q.2.2.2.2.1, some q.2.1)) <|>
  (memRow i).map (fun q => ([], [], q.srcs, q.dst)) <|>
  (vecMemOf i).map (fun q => if q.2.2.2.2.1 = true then ([], q.1 :: q.2.1, q.2.2.1 ++ maskSrc q.2.2.2.1, none)
    else ([q.1], q.2.1, q.2.2.1 ++ maskSrc q.2.2.2.1, none)) <|>
  (stampedOf i).map (fun q => ([], [], q.1, some q.2.1)) <|> (submitOf i).map (fun q => ([], [], [q.2.2.2.1, q.2.2.2.2], some q.2.2.1)) <|>
  (imageOf i).map (fun q => ([], [], [q.2.1, q.2.2.1], none)) <|> (otherOperands i).map (fun q => ([], q.1, q.2.1, q.2.2))

end Sys2Proof.Claims

open Sys2Proof Sys2Proof.Machine Sys2Proof.Claims

/-- R64, R65, R68 to R71: every integer register operation gives g[d] the value of its row of Table 4.1 in 1 clk, the multiplications the low
or high half of their product in 4 clk, and the immediate forms their values in 1 clk; nothing else changes. -/
def Obligations.IntegerInstructionsGiveTheirResults : Prop :=
  (RowsHold integerRow) ∧
  (RowsHold multiplyRow) ∧
  (RowsHold immediateRow)

/-- R66: a division captures its operands and parks with park 2, having changed nothing else; when it completes, its quotient or remainder fills
g[d], and the slot goes on; division by zero and the signed overflow give defined results. Any division in progress ends so. -/
def Obligations.DivisionsFillTheirResult : Prop :=
  (∀ (s : State) (i : Instr) (d a b : Reg) (f : Word → Word → Word → Prop), divisionOf i = some (d, a, b, f) →
    PassesG s true [a, b] (some d) →
    ∃ t u v, exec i s = .next t ∧ f (s.src a) (s.src b) v ∧ Parked s t 2 (.div d v) ∧ t.me.popDue = s.pops [a, b] ∧
      exec (.divisionComplete s.curCore s.curSlot) t = .next u ∧ Answered t u s.curCore s.curSlot d v) ∧
  (∀ (s : State) (c k : Nat) (d : Reg) (v : Word), (s.slot c k).st = .parked → (s.slot c k).pend = .div d v →
    ∃ t, exec (.divisionComplete c k) s = .next t ∧ Answered s t c k d v)

/-- R72 to R77, R91, R92, R94: scalar FP32: value, flags, latency 6; what a pattern means, the rounding with its flags, sum, product and fused
product-sum as the exact value rounded once, and the smaller and the larger operand.
Where it rests on readings or choices of the model, not on a rule: log entry 66 (`fcvt.f32i64` converts all 64 bits of its source, as R77 has it; R39
and R72 let it read 32). -/
def Obligations.ScalarFloatGivesResultAndFlags : Prop :=
  (PatternsMean fmtF32 ∧ RoundsRight fmtF32 ∧ ArithmeticRight fmtF32 ∧ SpecialsRight fmtF32 ∧ MinMaxRight fmtF32) ∧
  ∀ (s : State) (i : Instr) (srcs : List Reg) (d : Reg) (f : State → Nat × Fl) (ext : Nat → Word), floatRow i = some (srcs, d, f, ext) →
    PassesG s true srcs (some d) →
    ∃ t, exec i s = .next t ∧ Wrote s t srcs d (ext (f s).1) (f s).2 6

/-- R79, R80, R83: branches, jumps, calls and skips select the next word, and only a call writes a register.
Where it rests on readings or choices of the model, not on a rule: log entry 76. -/
def Obligations.TransfersSelectTheNextWord : Prop :=
  ∀ (s : State) (a : Reg) (cond n : BitVec 3) (off : BitVec 19),
    (PassesG s false [a] none → cond ≠ 6 → cond ≠ 7 → ∃ t, exec (.br a cond off) s = .next t ∧
      (Holds cond (sg s a) → WentOn s t [a] (wordsAway s off.toInt) s.me.sw) ∧
      (¬Holds cond (sg s a) → WentOn s t [a] (wordsAway s 1) s.me.sw)) ∧
    (PassesG s false [] none → ∃ t, exec (.jmp off) s = .next t ∧ WentOn s t [] (wordsAway s off.toInt) s.me.sw) ∧
    (PassesG s false [] (some a) → ∃ t, exec (.call a off) s = .next t ∧
      WroteTo s t [] a (s.me.pc + 4) 0 1 (wordsAway s off.toInt) s.me.sw) ∧
    (PassesG s false [a] none → cond ≠ 6 → cond ≠ 7 → ∃ t, exec (.skip a cond n) s = .next t ∧
      (Holds cond (sg s a) → WentOn s t [a] (wordsAway s (n.toNat + 1)) s.me.sw) ∧
      (¬Holds cond (sg s a) → WentOn s t [a] (wordsAway s 1) s.me.sw)) ∧
    (PassesG s false [] none → ∃ t, exec (.skip 0 6 n) s = .next t ∧ WentOn s t [] (wordsAway s (n.toNat + 1)) s.me.sw)

/-- R81: a jump through a register goes there, `callr` writing the link after it has read g[a]; a misaligned target raises F_ALIGN, an
uncanonical one F_ADDR, and then nothing is written.
Where it rests on readings or choices of the model, not on a rule: log entry 76. -/
def Obligations.RegisterJumpsGoOrFault : Prop :=
  ∀ (s : State) (d a : Reg) (i : Instr) (isCall : Bool), i = (if isCall then .callr d a else .ret a) →
    PassesG s false [a] (if isCall then some d else none) →
    ∃ t, exec i s = .next t ∧
      (un s a % 4 ≠ 0 → Stops s t 6 (s.src a) 0) ∧
      (un s a % 4 = 0 → ¬Canonical (s.src a) → Stops s t 5 (s.src a) 0) ∧
      (un s a % 4 = 0 → Canonical (s.src a) →
        if isCall then WroteTo s t [a] d (s.me.pc + 4) 0 1 (s.src a) s.me.sw else WentOn s t [a] (s.src a) s.me.sw)

/-- R56: `repf` opens a frame: bit 3 of `k.sw` is 1, the operands stand in their fields, replay and position are 0, and all other bits of
`k.sw` stay.
R58: where a slot goes on. In a frame: to the next word of the frame; from the last word back to the first, in the next replay; from
the last word of the last replay out of the frame, whose fields are cleared.
R57, R58, R84, R116: the register fields of every word that a frame may hold, stepped; immediates, the c and the m field never, nor a field that
holds a zero, a lane or a type code. -/
def Obligations.RepeatFramesReplayTheirWords : Prop :=
  (∀ (s : State) (n t sd sa sb : BitVec 4), PassesG s false [] none →
      ∃ (u : State) (sw : Word), exec (.repf n t sd sa sb) s = .next u ∧ WentOn s u [] (wordsAway s 1) sw ∧
        bit sw 3 = true ∧ bits sw 4 4 = 0 ∧ bits sw 8 4 = 0 ∧ bits sw 12 4 = n.toNat ∧ bits sw 16 4 = t.toNat ∧
        bits sw 20 4 = sd.toNat ∧ bits sw 24 4 = sa.toNat ∧ bits sw 28 4 = sb.toNat ∧
        bits sw 0 3 = bits s.me.sw 0 3 ∧ bits sw 32 32 = bits s.me.sw 32 32) ∧
  (∀ x : Slot,
      let n := bits x.sw 12 4
      let p := bits x.sw 4 4
      let r := bits x.sw 8 4
      (x.frame = false → x.advance = { x with pc := pcOf (x.pc + 4) }) ∧
      (x.frame = true → p < n → x.advance.pc = pcOf (x.pc + 4) ∧ bits x.advance.sw 4 4 = p + 1 ∧ bits x.advance.sw 8 4 = r ∧
        x.advance.frame = true) ∧
      (x.frame = true → p = n → r < bits x.sw 16 4 → x.advance.pc = pcOf (BitVec.ofInt 64 (x.pc.toNat - 4 * n)) ∧
        bits x.advance.sw 4 4 = 0 ∧ bits x.advance.sw 8 4 = r + 1 ∧ x.advance.frame = true) ∧
      (x.frame = true → p = n → r = bits x.sw 16 4 → x.advance.pc = pcOf (x.pc + 4) ∧ bits x.advance.sw 3 29 = 0) ∧
      (bits x.advance.sw 0 3 = bits x.sw 0 3 ∧ bits x.advance.sw 32 32 = bits x.sw 32 32 ∧
        x.advance = { x with pc := x.advance.pc, sw := x.advance.sw })) ∧
  (∀ (x : Slot) (d a b c m : Reg) (vd va vb : VReg) (imm : BitVec 18) (t : BitVec 2) (lane : BitVec 5), x.frame = true → 0 < x.vsize →
      vd.toNat < 4 * x.vsize → va.toNat < 4 * x.vsize → vb.toNat < 4 * x.vsize →
      x.stepFrame (.add d a b) = .add (stepG x 20 d) (stepG x 24 a) (stepG x 28 b) ∧
      x.stepFrame (.sel d a b c) = .sel (stepG x 20 d) (stepG x 24 a) (stepG x 28 b) c ∧
      x.stepFrame (.addi d a imm) = .addi (stepG x 20 d) (stepG x 24 a) imm ∧
      x.stepFrame (.ffma d a b c) = .ffma (stepG x 20 d) (stepG x 24 a) (stepG x 28 b) c ∧
      x.stepFrame (.clz d a) = .clz (stepG x 20 d) (stepG x 24 a) ∧
      x.stepFrame (.vaddI t vd va vb m) = .vaddI t (stepV x 20 vd) (stepV x 24 va) (stepV x 28 vb) m ∧
      x.stepFrame (.vceqI t d va vb m) = .vceqI t (stepG x 20 d) (stepV x 24 va) (stepV x 28 vb) m ∧
      x.stepFrame (.vbcast vd a m) = .vbcast (stepV x 20 vd) (stepG x 24 a) m ∧
      x.stepFrame (.vext d va lane) = .vext (stepG x 20 d) (stepV x 24 va) lane ∧
      x.stepFrame (.vdotI8i8 vd va vb m c) = .vdotI8i8 (stepV x 20 vd) (stepV x 24 va) (stepV x 28 vb) m c) ∧
  (∀ (x : Slot) (i : Instr), IsWord i → i.wf = true → frameMajor (majorOf (encode i)) = true → FieldsInWindow x (encode i) →
      (x.frame = true → encode (x.stepFrame i) = steppedWord x (encode i)) ∧ (x.frame = false → x.stepFrame i = i))

/-- R57: in a frame, a word of any other major raises F_FRAME, with the word in `k.fault`, and the frame fields are cleared; the level of the
word is checked first (R35).
R34, R54, R333: a word that is not assigned, a `kmov` to a register that is only read, and `sysc` off the compute cores raise F_ILLEGAL
with the word in `k.fault`, whatever else the state is.
R35, Table 21.1: a privileged word in user mode, and a word of the security core on another core, raise F_PRIV, before sources are
looked at and in a frame too.
R115: in every instruction that names vector registers, one beyond the window raises F_NOVREG with the word in `k.fault`, before sources are looked at; at a first replay the frame fields are cleared.
R17, R62: of any word that names sources, one with an empty source g register parks with park 1, and one that would pop an empty queue or
push to a full one with park 9; neither has had any effect.
R298: a source g or v register that holds an uncorrectable error raises F_DATA with its kind and number.
Where it rests on readings or choices of the model, not on a rule: log entries 22, 55. -/
def Obligations.RejectedWordsFault : Prop :=
  (∀ (s : State) (i : Instr), Word_ s i → frameMajor (opOf (encode i)).toNat = false → s.me.frame = true → s.me.park ≠ 6 →
      (levelOf i = .privileged → s.me.priv = true) → (levelOf i = .security → s.curCore = securityCore) →
      ∃ t, exec i s = .next t ∧ Stops s t 3 0 (wordOf i) true) ∧
  (∀ s : State,
      (∀ w, ∃ t, exec (.unassignedWord w) s = .next t ∧ Stops s t 1 0 (w.zeroExtend 64)) ∧
      (∀ i, illegalHere s i → ∃ t, exec i s = .next t ∧ Stops s t 1 0 (wordOf i))) ∧
  (∀ (s : State) (i : Instr), Word_ s i → i.wf = true →
      ((levelOf i = .privileged ∧ s.me.priv = false) ∨ (levelOf i = .security ∧ s.curCore ≠ securityCore)) →
      ∃ t, exec i s = .next t ∧ Stops s t 2 0 (wordOf i)) ∧
  (∀ (s : State) (i : Instr) (vd vs : List VReg) (srcs : List Reg) (dst : Option Reg), operandsOf i = some (vd, vs, srcs, dst) →
      (s.me.frame = true → frameMajor (majorOf (encode i)) = true) → (∃ v ∈ vd ++ vs, 4 * s.me.vsize ≤ v.toNat) →
      ∃ t, exec i s = .next t ∧ Stops s t 4 0 (wordOf i) (decide (bits s.me.sw 8 4 = 0))) ∧
  (∀ (s : State) (i : Instr) (vd vs : List VReg) (srcs : List Reg) (dst : Option Reg), operandsOf i = some (vd, vs, srcs, dst) →
      i.wf = true → ¬illegalHere s i → s.me.park ≠ 6 → (levelOf i = .privileged → s.me.priv = true) →
      (levelOf i = .security → s.curCore = securityCore) → (s.me.frame = true → frameMajor (majorOf (encode i)) = true) →
      (∀ v ∈ vd ++ vs, v.toNat < 4 * s.me.vsize) →
      let chained (r : Reg) : Prop := r = 14 ∧ s.onChain = true
      let empty := ∃ r ∈ srcs, s.me.isFull r = false ∧ ¬chained r
      let stuck := (s.pops srcs = true ∧ s.chainHead s.curCore s.curSlot = none) ∨
        (s.pushes dst = true ∧ s.chainFull s.curCore s.curSlot = true)
      let badG (r : Reg) : Prop := r ∈ srcs ∧ ¬chained r ∧ s.me.badG.getLsbD r.toNat = true
      let badV (v : VReg) : Prop := v ∈ vs ∧ 4 * s.me.vbase + v.toNat ∈ (s.core s.curCore).badV
      ∃ t, exec i s = .next t ∧
        (empty → Parked s t 1 .retry) ∧
        (¬empty → stuck → Parked s t 9 .retry) ∧
        (¬empty → ¬stuck → (∃ r, badG r) → (∀ v, ¬badV v) → ∃ r, badG r ∧ Stops s t 27 0 (BitVec.ofNat 64 (256 + r.toNat))) ∧
        (¬empty → ¬stuck → (∀ r, ¬badG r) → (∃ v, badV v) → ∃ v, badV v ∧ Stops s t 27 0 (BitVec.ofNat 64 (512 + v.toNat))))

/-- R117, Table 6.2: the integer element operations on every enabled element. -/
def Obligations.VectorIntegerOperationsGiveTable62 : Prop := VRowsHold vecIntRow

/-- R94, R118, Table 6.3, R121 to R125: the float element operations on every enabled element: sums and products as the exact value rounded once to
the element type, the smaller and the larger operand as R75 has them, and the four approximations by their tables and formulas.
Where it rests on readings or choices of the model, not on a rule: log entry 69 (`vrsq` of −0.0 is −∞, as Table 6.4 has it, not Table 6.5). -/
def Obligations.VectorFloatOperationsGiveTable63 : Prop :=
  VRowsHold vecFloatRow ∧ TablesRight ∧
  ∀ t : BitVec 2, ApproximationsRight (floatTy t) ∧ ApproximationSpecials (floatTy t) ∧
    PatternsMean (floatTy t).fmt ∧ RoundsRight (floatTy t).fmt ∧ ArithmeticRight (floatTy t).fmt ∧ SpecialsRight (floatTy t).fmt ∧
    MinMaxRight (floatTy t).fmt

/-- R126, Table 6.6, R120: lane instructions and integer sums. -/
def Obligations.LaneInstructionsGiveTable66 : Prop := VRowsHold vecLaneRow

/-- R90, R94 to R103, R120, R127 to R130: conversions, float sums and dot products. A conversion takes the exact value of its source and rounds it
once: to an integer with a clamp, to a floating format, or to the nearest log6 code.
Where it rests on readings or choices of the model, not on a rule: log entry 48 (the sum over one lane that holds a NaN is the canonical NaN; nv under a
scale of 255). -/
def Obligations.ConversionsAndDotProductsGiveResults : Prop :=
  VRowsHold vecMixRow ∧ PairsConvert ∧ LogCodesRight ∧ LogRoundsRight ∧ (∀ w ∈ [8, 16, 32, 64], IntegersRight w) ∧
  ∀ f ∈ [fmtF32, fmtF16, fmtBf16, fmtE4, fmtE5], PatternsMean f ∧ FloatsRight f ∧ RoundsRight f

/-- R119: a compare makes bit j of g[d] the relation of enabled element j, with zeros above, in 12 clk; no vector register is written. R126:
`vext` gives g[d] the lane, zero-extended. -/
def Obligations.VectorComparesWriteMasks : Prop :=
  (∀ (s : State) (i : Instr) (ty : ETy) (d : Reg) (a b : VReg) (m : Reg) (f : Nat → Nat → Bool × Fl),
    compareRow i = some (ty, d, a, b, m, f) → i.wf = true → Passes s .user true [] [a, b] (maskSrc m) (some d) →
    ∃ t v fl, exec i s = .next t ∧ Wrote s t (maskSrc m) d v fl 12 ∧
      (∀ j, v.getLsbD j = (decide (j < ty.count) && en s m j && (f (eu s ty a j) (eu s ty b j)).1)) ∧
      FlagsUnion s m ty.count (fun j => (f (eu s ty a j) (eu s ty b j)).2) fl) ∧
  (∀ (s : State) (d : Reg) (a : VReg) (lane : BitVec 5), Passes s .user true [] [a] [] (some d) →
    ∃ t, exec (.vext d a lane) s = .next t ∧ Wrote s t [] d ((ln s a lane.toNat).zeroExtend 64) 0 12)

/-- R217 steps 2 to 4, R193: an address in no region raises F_ADDR, a misaligned one F_ALIGN, and a translated one that no TLB entry covers, or
to which stage 2 denies the access, parks the slot for its walk; a leaf that denies the access raises F_PERM, a read of execute-only memory
F_SEALED, a frame at an unpopulated address F_ADDR; the first that applies, and nothing else happens.
R185 to R187, R193: where an aligned address leads that passes those checks: to own local memory, through the local window or the core's own
window; to another core's local memory; or to the frame of the TLB's entry.
Where it rests on readings or choices of the model, not on a rule: log entries 63, 65. -/
def Obligations.AddressesAreCheckedAndLeadToLocations : Prop :=
  (∀ (s : State) (i : Instr) (r : MemRow), memRow i = some r → i.wf = true → r.first s → PassesG s false r.srcs r.dst →
      let va := r.addr s
      ∃ t, exec i s = .next t ∧
        (NoRegion va → Stops s t 5 va 0) ∧
        (¬NoRegion va → va.toNat % r.size ≠ 0 → Stops s t 6 va 0) ∧
        (Translated va → va.toNat % r.size = 0 →
          (tlbFind (s.core s.curCore).dtlb s.me.tenant va = none → Parked s t 3 (walkOf s va r.acc r.rd r.wr)) ∧
          ∀ e, tlbFind (s.core s.curCore).dtlb s.me.tenant va = some e →
            (Denied e s.me.priv r.rd r.wr → Stops s t 7 va (BitVec.ofNat 64 r.acc.code)) ∧
            (SealedPage e s.me.priv r.rd → Stops s t 8 va 0) ∧
            (¬Denied e s.me.priv r.rd r.wr → ¬SealedPage e s.me.priv r.rd →
              (¬Stage2Allows e r.rd r.wr → Parked s t 3 (walkOf s va r.acc r.rd r.wr)) ∧
              (Stage2Allows e r.rd r.wr → s.placeOf (e.pa + (va.toNat % 2 ^ 57 - e.va)) = none → Stops s t 5 va 0)))) ∧
  (∀ (s : State) (va : Word) (size : Nat) (acc : Acc) (rd wr : Bool), va.toNat % size = 0 →
      (∀ o, LocalOffset s.curCore va s.curCore o →
        s.locate va size acc rd wr = .ok ⟨2 ^ 56 + s.curCore * 2 ^ 18 + o, .lmem s.curCore, .normal, false, false⟩) ∧
      (∀ n o, n ≠ s.curCore → LocalOffset s.curCore va n o →
        s.locate va size acc rd wr = .ok ⟨2 ^ 56 + n * 2 ^ 18 + o, .lmem n, .normal, false, true⟩) ∧
      (∀ e p, Translated va → tlbFind (s.core s.curCore).dtlb s.me.tenant va = some e →
        ¬Denied e s.me.priv rd wr → ¬SealedPage e s.me.priv rd → Stage2Allows e rd wr →
        s.placeOf (e.pa + (va.toNat % 2 ^ 57 - e.va)) = some p →
        s.locate va size acc rd wr = .ok ⟨e.pa + (va.toNat % 2 ^ 57 - e.va), p, e.ty, e.rp, false⟩))

/-- R217 steps 5 to 8: a type that the instruction does not accept raises F_MEMTYPE with the type in `k.fault`, a scope that cannot reach
F_SCOPE, a core window that refuses F_TARGET, one of a retired core F_DEAD (R302); a write to a replicated page parks the slot for its
collapse. R234, R235: `barm` at core scope raises F_SCOPE only where its widened scope does not reach, which is the model's choice.
Where it rests on readings or choices of the model, not on a rule: log entry 76. -/
def Obligations.MemoryTypesScopesAndTargets : Prop :=
  ∀ (s : State) (i : Instr) (r : MemRow) (l : Loc), memRow i = some r → i.wf = true → r.first s → PassesG s false r.srcs r.dst →
    s.locate (r.addr s) r.size r.acc r.rd r.wr = .ok l →
    ∃ t, exec i s = .next t ∧
      (r.accepts l = false → Stops s t 10 (r.addr s) (BitVec.ofNat 64 l.ty.code)) ∧
      (r.accepts l = true → ¬r.reach s l → Stops s t 11 (r.addr s) 0) ∧
      (r.accepts l = true → r.reach s l → ∀ n, l.window = true → l.place = .lmem n →
        (TargetRefused s n → Stops s t 12 (r.addr s) (BitVec.ofNat 64 n)) ∧
        (¬TargetRefused s n → (s.core n).health = .retired → Stops s t 30 (r.addr s) (BitVec.ofNat 64 n))) ∧
      (r.accepts l = true → r.reach s l → l.window = false → r.wr = true → l.rp = true → Parked s t 3 (.collapse (l.key / 2 ^ 16)))

/-- R27, R87, R219, R220, R298: a load of own local memory gives g[d] the bytes that the slot sees, extended, in 8 clk, and changes no byte of
memory; an uncorrectable error raises F_DATA.
R187, R216, R220: a load beyond own local memory parks with park 3, of a device page only once the slot's buffer is empty, else with
park 4; when its value returns, g[d] takes the bytes that the slot sees, or of stamped memory the newest visible version (R361), and no
byte of memory changes; of a device register it takes the thermal word or an entry of the capability list of BAR 0 (R382, R389), where one lies
there, and else a value that no rule gives; a place lost meanwhile raises F_DEAD or F_ADDR, an uncorrectable
error F_DATA. R389: the thermal word holds the count of throttle entries, the state and the junction's temperature. R382: an entry of the list holds
the identifier of a feature that is present and the offset of the next entry, 0 in the last.
Where it rests on readings or choices of the model, not on a rule: log entries 12, 26, 42, 82. -/
def Obligations.LoadsGiveWhatTheSlotSees : Prop :=
  (∀ (s : State) (i : Instr) (signed : Bool) (d a : Reg) (sz : BitVec 2) (sc : BitVec 3) (od : BitVec 2) (off : BitVec 11) (l : Loc),
      i = (if signed = true then .ldS d a sz sc od off else .ld d a sz sc od off) → i.wf = true → PassesG s false [a] (some d) →
      s.locate (ea s a off (szBytes sz)) (szBytes sz) .load true false = .ok l → l.place = .lmem s.curCore → l.window = false →
      ∃ t, exec i s = .next t ∧
        (badRead s s.curCore s.curSlot l (szBytes sz) = true → Stops s t 27 (BitVec.ofNat 64 ((ea s a off (szBytes sz)).toNat / 8 * 8)) 0) ∧
        (badRead s s.curCore s.curSlot l (szBytes sz) = false →
          ∃ v, Extends v (szBytes sz) signed (fun n => seen s (s.cipherKey s.curCore) (l.key + n)) ∧
            Wrote (entered s (od.toNat = 1) sc l (szBytes sz)) t [a] d v 0 8 ∧ ∀ k, t.byteAt k = s.byteAt k)) ∧
  ((∀ (s : State) (i : Instr) (signed : Bool) (d a : Reg) (sz : BitVec 2) (sc : BitVec 3) (od : BitVec 2) (off : BitVec 11) (l : Loc),
      i = (if signed = true then .ldS d a sz sc od off else .ld d a sz sc od off) → i.wf = true → PassesG s false [a] (some d) →
      s.locate (ea s a off (szBytes sz)) (szBytes sz) .load true false = .ok l → l.place ≠ .lmem s.curCore →
      (∀ n, l.window = true → l.place = .lmem n → ¬TargetRefused s n ∧ (s.core n).health ≠ .retired) →
      ∃ t, exec i s = .next t ∧
        (l.ty = .device → s.me.buf ≠ [] → Parked s t 4 .retry) ∧
        (l.ty ≠ .device ∨ s.me.buf = [] →
          Parked (entered s (od.toNat = 1) sc l (szBytes sz)) t 3 (.load d (ea s a off (szBytes sz)) l (szBytes sz) signed) ∧ t.me.popDue = s.pops [a])) ∧
    (∀ (s : State) (c k : Nat) (d : Reg) (va : Word) (l : Loc) (size : Nat) (signed : Bool),
      (s.slot c k).st = .parked → (s.slot c k).pend = .load d va l size signed →
      ∃ t, exec (.remoteLoadReturn c k) s = .next t ∧
        (∀ n, l.place = .lmem n → (s.core n).health = .retired → Faulted s t c k 30 va (BitVec.ofNat 64 n) false) ∧
        (∀ p, l.place = .pkg p → p ∉ s.pkg.podMembers → Faulted s t c k 5 va 0 false) ∧
        let ready := s.reachable l = true ∧ (l.ty = .device → s.ownStoresDone c k l.key size = true)
        let bad := if l.ty = .device then s.badWord l.key = true else badRead s c k l size = true
        let v := if l.ty = .stamped then s.stampedLoad (s.cipherKey c) l size
          else if l.ty = .device then s.memLoad 0 l.key size else s.slotLoad c k (s.cipherKey c) l.key size
        (s.lostPlace l va = none → ¬ready → t = s) ∧
        (s.lostPlace l va = none → ready → bad → Faulted s t c k 27 (BitVec.ofNat 64 (va.toNat / 8 * 8)) 0 false) ∧
        (s.lostPlace l va = none → ready → ¬bad → l.place ≠ .devReg →
          Answered s t c k d (extendTo signed size v) ∧ ∀ a, t.byteAt a = s.byteAt a) ∧
        (s.lostPlace l va = none → ready → ¬bad → l.place = .devReg →
          let o := l.key - 0xF000000000000
          let word := if o / 8 = 0x10 then some s.thermalWord else if 0x100 ≤ o then s.capWord ((o - 0x100) / 8) else none
          ∃ v, Answered { s with free := s.free + 1 } t c k d (extendTo signed size v) ∧ (∀ a, t.byteAt a = s.byteAt a) ∧
            ∀ w, word = some w → v.toNat = w.toNat / 2 ^ (8 * (l.key % 8)) % 2 ^ (8 * size)))) ∧
  (∀ s : State, ∃ tj, s.thermalWord.toNat = s.pkg.tcnt.toNat * 2 ^ 32 + (match s.pkg.thermal with
      | .normal => 0
      | .throttle => 1
      | .critical => 2) * 256 + tj ∧
    (s.pkg.thermal = .normal → tj < 95) ∧ (s.pkg.thermal = .throttle → tj < 105) ∧ (s.pkg.thermal = .critical → tj = s.pkg.tj.toNat)) ∧
  (∀ (s : State) (i : Nat), (∀ n ∈ s.capIds, n < 2 ^ 16) → i < 2 ^ 20 →
    let ids := [1, 2, 3].filter s.hasFeature ++ s.pkg.capList
    (∀ n, ids[i]? = some n → ∃ w, s.capWord i = some w ∧ bits w 0 16 = n ∧ bits w 24 8 = 0 ∧
      bits w 32 32 = if i + 1 < ids.length then 0x100 + 8 * (i + 1) else 0) ∧
    (ids[i]? = none → s.capWord i = none))

/-- R27, R87, R219, R220, R223: `st` and `stf` that pass their checks enter the buffer with the low bytes of g[d], and no byte of memory changes
yet; with four entries occupied the slot parks with park 4; a store to a device page waits until the buffer is empty, as a release until every earlier access of the slot is performed (R205, R216), and
then parks until it is performed.
R27, R133, R221, R223, R227: the oldest buffered store of a slot, for own local memory, is performed when it leaves, one store in a cycle, a vector
store lane by lane: its bytes are those stored, a `stf` sets its word full, and no other byte changes; for another place it leaves, in order,
and is performed when its acknowledgement returns, unless it is a release that misses its scope; a store to another core's window parks its
slot with park 3 until then (R187, R220). A device store is performed at its acknowledgement, and its slot goes on.
Where it rests on readings or choices of the model, not on a rule: log entry 42. -/
def Obligations.StoresAreBufferedAndPerformed : Prop :=
  (∀ (s : State) (i : Instr) (stf : Bool) (d a : Reg) (sz : BitVec 2) (sc : BitVec 3) (od : BitVec 2) (off : BitVec 11) (l : Loc),
      i = (if stf = true then .stf d a sc od off else .st d a sz sc od off) → (stf = true → sz = 3) → i.wf = true →
      PassesG s false [a, d] none →
      s.locate (ea s a off (szBytes sz)) (szBytes sz) .store false true = .ok l → l.rp = false →
      (if stf = true then localOrSync l = true else l.ty ≠ .stamped) →
      (∀ n, l.window = true → l.place = .lmem n → ¬TargetRefused s n ∧ (s.core n).health ≠ .retired) →
      ∃ t, exec i s = .next t ∧ (∀ k, t.byteAt k = s.byteAt k) ∧
        (l.ty ≠ .device → s.me.buf.length < 4 →
          Buffered (entered s (isRelease od) sc l (szBytes sz)) t [a, d]
            (entryOf s (ea s a off (szBytes sz)) l (szBytes sz) (s.src d) stf (isRelease od) sc)) ∧
        (l.ty ≠ .device → 4 ≤ s.me.buf.length → Parked s t 4 .retry) ∧
        (l.ty = .device → s.me.buf ≠ [] → Parked s t 4 .retry) ∧
        (l.ty = .device → s.me.buf = [] → isRelease od = true → s.quiet s.curCore s.curSlot = false →
          Parked (asWaiting s true sc) t 4 .retry) ∧
        (l.ty = .device → s.me.buf = [] → (isRelease od = false ∨ s.quiet s.curCore s.curSlot = true) →
          Parked (asIssued s (isRelease od) sc) t 3 (.devStore (ea s a off (szBytes sz)) l (szBytes sz) (s.src d)) ∧ t.me.popDue = s.pops [a, d])) ∧
  ((∀ (s : State) (c k : Nat) (e : StoreEnt) (rest : List StoreEnt), (s.slot c k).buf = e :: rest → s.mayLeave c k = true →
      ∃ t, exec (.storeBufferDrain c k) s = .next t ∧
        (e.loc.place = .lmem c → (s.slot c k).drainCyc = s.now + 1 → t = s) ∧
        (e.loc.place = .lmem c → (s.slot c k).drainCyc ≠ s.now + 1 → e.lanes = [] → e.loc.key % 8 + e.size ≤ 8 →
          ∃ u, Stored (s.modSlot c k (fun x => { x with buf := rest, drainCyc := s.now + 1 })) u (some (c, k)) e.ckey e.loc.key e.size e.data ∧
            t = (if e.stf = true then u.setWordFull e.loc.key true else u).endHolds c) ∧
        (e.loc.place ≠ .lmem c →
          let waits := e.loc.window = true ∧ e.claim = (s.slot c k).claims ∧
            ((s.slot c k).st = .ready ∨ ((s.slot c k).st = .parked ∧ (s.slot c k).pend = .retry))
          (∀ a, t.byteAt a = s.byteAt a) ∧ (t.slot c k).buf = rest ∧
          (t.slot c k).out = (s.slot c k).out ++ [{ e with loc := e.loc.rehome s }] ∧
          (waits → (t.slot c k).st = .parked ∧ (t.slot c k).pend = .ackWait ∧ ((s.slot c k).park ≠ 6 → (t.slot c k).park = 3)) ∧
          (¬waits → t.slot c k = { s.slot c k with buf := (t.slot c k).buf, out := (t.slot c k).out }))) ∧
    (∀ (s : State) (c k n : Nat) (e : StoreEnt), (∀ a l z v, (s.slot c k).pend ≠ .devStore a l z v) → (s.slot c k).out[n]? = some e →
      e.lanes = [] → e.loc.key % 8 + e.size ≤ 8 → s.reachable e.loc = true → s.lostPlace e.loc e.ea = none →
      missesScope c e = false → (∀ f ∈ (s.slot c k).out.take n, f.covers (e.loc.key / 8 * 8) 8 = false) →
      ∃ t u, exec (.storeAck c k n) s = .next t ∧
        Stored (s.modSlot c k (fun x => { x with out := x.out.eraseIdx n })) u (some (c, k)) e.ckey e.loc.key e.size e.data ∧
        t = ((if e.stf = true then u.setWordFull e.loc.key true else u).modSlot c k Slot.afterAck).endHolds c) ∧
    (∀ (s : State) (c k n : Nat) (va : Word) (l : Loc) (size : Nat) (v : Word), (s.slot c k).st = .parked →
      (s.slot c k).pend = .devStore va l size v → l.key % 8 + size ≤ 8 → s.lostPlace l va = none →
      ∃ t u, exec (.storeAck c k n) s = .next t ∧ Stored s u (some (c, k)) 0 l.key size v ∧ Resumed u t c k))

/-- R222: `ldx` and `ldc` wait for an empty buffer (park 4), then at their word (park 3); performed on a full word they give g[d] its value, and
`ldc` sets it empty, which costs other agents their reservations; on an empty word nothing comes about. No byte of memory changes. The demotion of
the order is counted once, when the word issues (R378). -/
def Obligations.FullEmptyLoadsTakeAFullWord : Prop :=
  ∀ (s : State) (i : Instr) (take : Bool) (d a : Reg) (sc : BitVec 3) (od : BitVec 2) (off : BitVec 11) (l : Loc),
    i = (if take = true then .ldc d a sc od off else .ldx d a sc od off) → i.wf = true → PassesG s false [a] (some d) →
    s.locate (ea s a off 8) 8 (if take = true then .atomic else .load) true take = .ok l → localOrSync l = true →
    (take = true → l.rp = false) →
    ∃ t, exec i s = .next t ∧
      (s.me.buf ≠ [] → Parked (asWaiting s (decide (od.toNat = 1)) sc) t 4 .retry) ∧
      (s.me.buf = [] →
        Parked ((asIssued s (decide (od.toNat = 1)) sc).touch s.curCore s.curSlot l.key 8) t 3 (.fullEmpty d (ea s a off 8) l take) ∧ t.me.popDue = s.pops [a] ∧
        (s.ownStoresDone s.curCore s.curSlot l.key 8 = true → s.reachable l = true →
          ∃ u, exec (.fullEmptyPerform s.curCore s.curSlot) t = .next u ∧
            (s.wordFull l.key = false → u = t) ∧
            (s.wordFull l.key = true → s.badWord l.key = true →
              Faulted t u s.curCore s.curSlot 27 (BitVec.ofNat 64 ((ea s a off 8).toNat / 8 * 8)) 0 false) ∧
            (s.wordFull l.key = true → s.badWord l.key = false →
              Answered (if take = true then (t.setWordFull l.key false).loseResv (some (s.curCore, s.curSlot)) l.key else t) u s.curCore s.curSlot d
                (s.memLoad (s.cipherKey s.curCore) l.key 8) ∧
              (∀ b, u.byteAt b = s.byteAt b) ∧ u.wordFull l.key = !take)))

/-- R224, R225, R226, R228: an atomic waits for an empty buffer, and as a release, at every scope, until all its slot's earlier accesses are performed (park 4); then it parks with park 3
until it is performed at its point. The demotion of its order is counted once, when it issues (R378).
R225, R226, R227: an atomic at its point reads and writes its location indivisibly: the new value stands there, g[d] takes the old one
sign-extended, and no byte outside it changes; `ldres` and a `cas` that does not match write nothing, and `ldres` sets the reservation.
Where it rests on readings or choices of the model, not on a rule: log entries 42, 89. -/
def Obligations.AtomicsReadAndWriteAtTheirPoint : Prop :=
  (∀ (s : State) (i : Instr) (op : AtOp) (d a : Reg) (sz : BitVec 1) (sc : BitVec 3) (od : BitVec 2) (b e : Option Reg) (r : MemRow) (l : Loc),
      atomOf i = some (op, d, a, sz, sc, od, b, e) → memRow i = some r → i.wf = true → PassesG s false r.srcs (some d) →
      s.locate (s.src a) (atBytes sz) r.acc r.rd r.wr = .ok l → plainLoc l = true → scopeOkAt sc s l → (r.wr = true → l.rp = false) →
      (∀ n, l.window = true → l.place = .lmem n → ¬TargetRefused s n ∧ (s.core n).health ≠ .retired) →
      ∃ t, exec i s = .next t ∧
        (s.me.buf ≠ [] ∨ (isRelease od = true ∧ s.quiet s.curCore s.curSlot = false) → Parked (asWaiting s (decide (od ≠ 0)) sc) t 4 .retry) ∧
        (s.me.buf = [] → (isRelease od = false ∨ s.quiet s.curCore s.curSlot = true) →
          Parked ((asIssued s (decide (od ≠ 0)) sc).touch s.curCore s.curSlot l.key (atBytes sz)) t 3
            (.atomic op d (s.src a) l (atBytes sz)
              (BitVec.ofNat 64 (((b.map s.src).getD 0).toNat % 2 ^ (8 * atBytes sz)))
              (BitVec.ofNat 64 (((e.map s.src).getD 0).toNat % 2 ^ (8 * atBytes sz)))) ∧
          t.me.popDue = s.pops r.srcs)) ∧
  (∀ (s : State) (c k : Nat) (op : AtOp) (d : Reg) (va : Word) (l : Loc) (sz : BitVec 1) (x e : Word),
      let size := atBytes sz
      (s.slot c k).st = .parked → (s.slot c k).pend = .atomic op d va l size x e → canPerform s c k l size va → op ≠ .stcnd →
      l.key % size = 0 →
      ∃ t, exec (.atomicPerform c k) s = .next t ∧
        (s.badWord l.key = true → Faulted s t c k 27 (BitVec.ofNat 64 (va.toNat / 8 * 8)) 0 false) ∧
        (s.badWord l.key = false →
          ∃ u, Answered u t c k d ((patAt s c l size).signExtend 64) ∧
            (op = .ldres → u = s.modSlot c k (fun y => { y with resv := some ⟨va.toNat / 64, l.key / 64, l.place⟩ })) ∧
            (op ≠ .ldres → newValue (8 * size) (patAt s c l size) (x.truncate _) (e.truncate _) op = none → u = s) ∧
            (op ≠ .ldres → ∀ v, newValue (8 * size) (patAt s c l size) (x.truncate _) (e.truncate _) op = some v →
              Stored s u (some (c, k)) (s.cipherKey c) l.key size (v.zeroExtend 64))))

/-- R228: `stcnd` at its point stores and answers 0 if the slot holds a reservation on its block, else it answers 1 and no byte of memory
changes; the reservation is gone either way.
R230, R232: a fence parks with park 4 until every earlier access is performed at its scope, then only goes on. R233: `wrs` parks with park 3
only while the slot's reservation is on the block of g[a] and its latch is clear; the reservation's loss ends that. R227: so does an
eviction of the block.
Where it rests on readings or choices of the model, not on a rule: log entry 76. -/
def Obligations.ReservationsAndFences : Prop :=
  (∀ (s : State) (c k : Nat) (d : Reg) (va : Word) (l : Loc) (sz : BitVec 1) (x e : Word),
      let size := atBytes sz
      (s.slot c k).st = .parked → (s.slot c k).pend = .atomic .stcnd d va l size x e → canPerform s c k l size va → l.key % size = 0 →
      ∃ t u, exec (.atomicPerform c k) s = .next t ∧ (t.slot c k).resv = none ∧
        ((∃ r, (s.slot c k).resv = some r ∧ r.blk = va.toNat / 64 ∧ r.key = l.key / 64) →
          Stored s u (some (c, k)) (s.cipherKey c) l.key size x ∧
          Answered (u.modSlot c k (fun y => { y with resv := none })) t c k d 0) ∧
        ((¬∃ r, (s.slot c k).resv = some r ∧ r.blk = va.toNat / 64 ∧ r.key = l.key / 64) →
          Answered (s.modSlot c k (fun y => { y with resv := none })) t c k d 1 ∧ ∀ a, t.byteAt a = s.byteAt a)) ∧
  ((∀ (s : State) (sc : BitVec 3), PassesG s false [] none →
      ∃ t, exec (.fence sc) s = .next t ∧
        (s.quietAt s.curCore s.curSlot sc.toNat = true → WentNext (asIssued s true sc) t []) ∧
        (s.quietAt s.curCore s.curSlot sc.toNat = false → Parked (asWaiting s true sc) t 4 .retry)) ∧
    (∀ (s : State) (a : Reg) (sc : BitVec 3), PassesG s false [a] none →
      let waits := s.latch s.curCore s.curSlot = false ∧ ∃ r, s.me.resv = some r ∧ r.blk = un s a / 64
      ∃ t, exec (.wrs a sc) s = .next t ∧
        (¬waits → WentNext s t [a]) ∧
        (waits → s.pops [a] = false → Parked s t 3 (.wrs sc)) ∧
        (waits → t.me.st = .parked ∧ t.me.pend = .wrs sc ∧ Popped s t [a])) ∧
    (∀ (s : State) (c k : Nat) (r : Resv), (s.slot c k).resv = some r →
      ∃ t, exec (.blockEviction c k) s = .next t ∧ t.slot c k = (s.slot c k).unreserve ∧ t = { s with slots := t.slots } ∧
        ∀ c' k', slotKey c' k' ≠ slotKey c k → t.slot c' k' = s.slot c' k'))

/-- R198, R234, R235: `barm` stops with F_GUARD at a pending guard record, waits until every earlier access is performed (park 4), then sends its arrival (park 3); the object counts it and g[d] takes
the generation arrived in: the last arrival opens the next generation with a count of 0 and goes on, any other counts itself there and parks with
park 6 until the generation has changed. A wake-up notice lets it go on once it has. R236: a `barm` whose arrival was counted does not arrive
again: it goes on if the object's generation is not the one in g[d], else it parks anew.
Where it rests on readings or choices of the model, not on a rule: log entries 52, 67, 76. -/
def Obligations.BarrierObjectsCountArrivals : Prop :=
  (∀ (s : State) (d a b : Reg) (sc : BitVec 3) (r : GuardRec), s.me.park ≠ 6 → PassesG s false [a, b] (some d) → s.me.guardRec = some r →
    ∃ t, exec (.barm d a b sc) s = .next t ∧ GuardStops s t r) ∧
  (∀ (s : State) (d a b : Reg) (sc : BitVec 3) (l : Loc), (Instr.barm d a b sc).wf = true → s.me.guardRec = none → s.me.park ≠ 6 →
    PassesG s false [a, b] (some d) → s.locate (s.src a) 8 .atomic true true = .ok l → plainLoc l = true →
    (∃ n, l.place = .home n) → 1 ≤ sc.toNat → l.rp = false →
    ∃ t, exec (.barm d a b sc) s = .next t ∧
      (s.quiet s.curCore s.curSlot = false → Parked (asWaiting s true sc) t 4 .retry) ∧
      (s.quiet s.curCore s.curSlot = true →
        Parked (asIssued s true sc) t 3 (.barmSent d (s.src a) l (un s b % 2 ^ 32)) ∧ t.me.popDue = s.pops [a, b])) ∧
  (∀ (s : State) (c k : Nat) (d : Reg) (va : Word) (l : Loc) (n : Nat), (s.slot c k).st = .parked → (s.slot c k).pend = .barmSent d va l n →
    s.reachable l = true → s.badWord l.key = false → l.key % 8 = 0 →
    let obj := s.memLoad (s.cipherKey c) l.key 8
    let gen := obj.toNat / 2 ^ 32
    let cnt := obj.toNat % 2 ^ 32
    ∃ t u, exec (.atomicPerform c k) s = .next t ∧
      (n ≤ cnt + 1 →
        Stored s u (some (c, k)) (s.cipherKey c) l.key 8 (BitVec.ofNat 64 ((gen + 1) % 2 ^ 32 * 2 ^ 32)) ∧
        Answered u t c k d (BitVec.ofNat 64 gen)) ∧
      (cnt + 1 < n → cnt + 1 < 2 ^ 32 →
        Stored s u (some (c, k)) (s.cipherKey c) l.key 8 (BitVec.ofNat 64 (gen * 2 ^ 32 + (cnt + 1))) ∧
        (∀ a, t.byteAt a = u.byteAt a ∧ t.tagOf a = u.tagOf a ∧ t.wordFull a = s.wordFull a ∧ t.badWord a = u.badWord a) ∧
        t.slot c k = { (if d = 14 ∧ s.chained c k = true then u.slot c k else (u.slot c k).setReg d (BitVec.ofNat 64 gen)).parkFor 6
          (.barm d l.key (BitVec.ofNat 32 gen)) with popDue := false } ∧
        (∀ c' k', t.chainOut c' k' =
          if (s.slot c k).popDue = true ∧ c' = upstream c ∧ k' = k then (s.chainOut c' k').tail
          else if (d = 14 ∧ s.chained c k = true) ∧ c' = c ∧ k' = k then s.chainOut c' k' ++ [(s.pushDue c s.now, BitVec.ofNat 64 gen)]
          else s.chainOut c' k') ∧
        (∀ c' k', slotKey c' k' ≠ slotKey c k → ¬((d = 14 ∧ s.chained c k = true) ∧ slotKey c' k' = slotKey (downstream c) k) →
          t.slot c' k' = u.slot c' k'))) ∧
  (∀ (s : State) (c k : Nat) (d : Reg) (key : Nat) (gen : BitVec 32), (s.slot c k).st = .parked → (s.slot c k).pend = .barm d key gen →
    s.badWord key = false → (s.memLoad (s.cipherKey c) key 8).toNat / 2 ^ 32 % 2 ^ 32 ≠ gen.toNat →
    exec (.barmWakeNotice c k) s = .next (s.modSlot c k Slot.wakeNext)) ∧
  (∀ (s : State) (c k : Nat) (d : Reg) (key : Nat) (gen : BitVec 32), (s.slot c k).st = .parked → (s.slot c k).pend = .barm d key gen →
    s.badWord key = true ∨ (s.memLoad (s.cipherKey c) key 8).toNat / 2 ^ 32 % 2 ^ 32 = gen.toNat →
    exec (.barmWakeNotice c k) s = .next s) ∧
  (∀ (s : State) (d a b : Reg) (sc : BitVec 3) (l : Loc), s.me.park = 6 → s.locate (s.me.reg a) 8 .atomic true true = .ok l →
    s.me.badG.getLsbD d.toNat = false → s.me.badG.getLsbD a.toNat = false → s.badWord l.key = false →
    let gen := BitVec.ofNat 32 ((s.memLoad (s.cipherKey s.curCore) l.key 8).toNat / 2 ^ 32)
    (gen.zeroExtend 64 ≠ s.me.reg d → exec (.barm d a b sc) s = .next (s.modMe (fun x => (x.setPark 0).advance))) ∧
    (gen.zeroExtend 64 = s.me.reg d → ∃ t, exec (.barm d a b sc) s = .next t ∧ Parked s t 6 (.barm d l.key gen)))

/-- R131 to R133: a vector memory instruction checks its enabled lanes in rising order: the first that is outside the slot's local window
raises F_ADDR, the first misaligned one F_ALIGN, with its address. A load then gives each enabled lane of vd the bytes that the slot sees
and leaves the others; an uncorrectable error raises F_DATA. No byte of memory changes.
R133, R134: a vector store whose lanes are good puts one entry into the buffer that holds its enabled lanes in rising order, or parks with
park 4 if four are there; with no lane enabled it only goes on; from 12 clk after the issue (R22) the entry leaves lane by lane, each lane a 4-byte store of its own at its
address, one in a cycle, and gives up its place in the buffer with the last. -/
def Obligations.VectorMemoryMovesEnabledLanes : Prop :=
  (∀ (s : State) (i : Instr) (d : VReg) (idx : List VReg) (srcs : List Reg) (m : Reg) (store : Bool) (addr : State → Nat → Word),
      vecMemOf i = some (d, idx, srcs, m, store, addr) →
      (if store = true then Passes s .user false [] (d :: idx) (srcs ++ maskSrc m) none else Passes s .user false [d] idx (srcs ++ maskSrc m) none) →
      let bad (j : Nat) : Bool := s.loadBad s.curCore s.curSlot (laneAddr s (addr s j)) 4
      ∃ t, exec i s = .next t ∧ (∀ a, t.byteAt a = s.byteAt a) ∧
        (∀ j code, FirstBadLane s m (addr s) j code → Stops s t code (addr s j) 0) ∧
        (LanesGood s m (addr s) → store = false →
          (∀ j < 32, en s m j = true → bad j = true → (∀ i < j, en s m i = true → bad i = false) →
            Stops s t 27 (BitVec.ofNat 64 ((addr s j).toNat / 8 * 8)) 0) ∧
          ((∀ j < 32, en s m j = true → bad j = false) →
            VWrote (touched s m (addr s)) t (srcs ++ maskSrc m) d
              (fun j => if en s m j = true then
                some (seen s (s.cipherKey s.curCore) (laneAddr s (addr s j) + 3) ++ seen s (s.cipherKey s.curCore) (laneAddr s (addr s j) + 2) ++
                  seen s (s.cipherKey s.curCore) (laneAddr s (addr s j) + 1) ++ seen s (s.cipherKey s.curCore) (laneAddr s (addr s j)))
                else none) 0))) ∧
  ((∀ (s : State) (i : Instr) (d : VReg) (idx : List VReg) (srcs : List Reg) (m : Reg) (addr : State → Nat → Word),
      vecMemOf i = some (d, idx, srcs, m, true, addr) → Passes s .user false [] (d :: idx) (srcs ++ maskSrc m) none → LanesGood s m (addr s) →
      ∃ t, exec i s = .next t ∧ (∀ a, t.byteAt a = s.byteAt a) ∧
        (lanesOn s m = [] → WentNext s t (srcs ++ maskSrc m)) ∧
        (lanesOn s m ≠ [] → 4 ≤ s.me.buf.length → Parked s t 4 .retry) ∧
        (lanesOn s m ≠ [] → s.me.buf.length < 4 → ∃ e : StoreEnt,
          e.lanes = (lanesOn s m).map (fun j => (laneAddr s (addr s j), ln s d j)) ∧ e.loc.place = .lmem s.curCore ∧ e.rel = false ∧ e.stf = false ∧
          e.ckey = s.cipherKey s.curCore ∧ e.claim = s.me.claims ∧ e.due = s.now + 12 ∧
          Buffered (touched s m (addr s)) t (srcs ++ maskSrc m) e)) ∧
    (∀ (s : State) (c k : Nat) (e : StoreEnt) (rest : List StoreEnt), (s.slot c k).buf = e :: rest → s.mayLeave c k = true →
      e.loc.place = .lmem c → (s.slot c k).drainCyc ≠ s.now + 1 →
      ∀ (key : Nat) (w : Lane) (ls : List (Nat × Lane)), e.lanes = (key, w) :: ls → key % 4 = 0 →
      ∃ t u, exec (.storeBufferDrain c k) s = .next t ∧
        Stored (s.modSlot c k (fun x => { x with buf := (if ls = [] then rest else { e with lanes := ls } :: rest), drainCyc := s.now + 1 })) u
          (some (c, k)) e.ckey key 4 (w.zeroExtend 64) ∧
        t = u.endHolds c))

/-- R138 to R140, Table 2.7: a claim makes a fresh thread in the slot, the vector registers of its window and the bytes of its scratchpad zero and every
word of the scratchpad full; the head that can claim earliest on a core that accepts arrivals takes its
place and leaves its link.
R139: what a claim takes: the lowest slot that is free for it, contiguous free granules, and room in the pool; nothing while the kernel's
slots are all taken or its capsule is not VALID.
Where it rests on readings or choices of the model, not on a rule: log entries 10, 76, 87. -/
def Obligations.ArrivalsClaimFreshThreads : Prop :=
  ((∀ (s : State) (c : Nat) (r : Room) (a : Arrival), r.slot < 16 → r.vbase + r.vsize ≤ 16 →
      (∀ o n, r.spad = some (o, n) → o + n ≤ 2 ^ 18) → Claimed s (s.claim c r a) c r a) ∧
    (∀ (s : State) (c : Nat),
      (∀ a r, s.accepts c = true → earliestHead (s.claimingHeads c) = some (a, r) →
        ∃ t, exec (.arrivalClaim c) s = .next t ∧ t = (s.modCore c (fun x => { x with links := x.links.erase a })).claim c r a ∧
          a ∈ (s.core c).links ∧ s.room c a.kern (decide (a.src = .migrant)) = some r ∧ (s.core c).owner = s.ctxOwner a.ctx) ∧
      (s.accepts c = false ∨ s.claimingHeads c = [] → exec (.arrivalClaim c) s = .next s))) ∧
  (∀ (s : State) (c : Nat) (k : KernRef) (bare : Bool) (r : Room), s.room c k bare = some r →
      (s.slot c r.slot).claimable = true ∧ r.slot < slotsOf c ∧ (∀ j < r.slot, (s.slot c j).claimable = false) ∧
      (∀ g, r.vbase ≤ g → g < r.vbase + r.vsize → (s.core c).vmap.getLsbD g = false) ∧ r.vbase + r.vsize ≤ 16 ∧
      (∃ q cap, s.kernel? k = some q ∧ s.capsule? k.handle = some cap ∧ cap.st = .valid ∧
        r.vsize = (if bare = true then 0 else q.vsize) ∧
        ((s.slotsOn c).filter (fun p => p.2.st != .free && p.2.kern.any (fun x => x.handle = k.handle && x.kernel = k.kernel))).length < q.slots ∧
        (r.spad = none ↔ bare = true ∨ q.spad = 0) ∧
        ∀ o n, r.spad = some (o, n) → n = q.spad ∧ (s.core c).poolBase + 64 ≤ o ∧ o + n + 64 ≤ (s.core c).poolBase + (s.core c).poolSize))

/-- R143, R144, R172 to R174: `spawn` checks its target, then its entry, then waits for an empty buffer (park 4). On its own core the child claims
at once or, where it is not admitted, runs inline: g15 takes the address of the next word with the old inline bit, the inline bit is set,
and the slot goes on at the entry. Another core is asked (park 3); it claims or refuses; then the spawner goes on or runs the child
inline. -/
def Obligations.SpawnStartsAChildOrRunsItInline : Prop :=
  (∀ (s : State) (a b : Reg), PassesG s false (spawnSrcs a b) none → s.me.st = .ready →
    ∃ t, exec (.spawn a b) s = .next t ∧
      (3071 < un s a ∨ (s.core (un s a)).owner ≠ (s.core s.curCore).owner → Stops s t 12 0 (s.src a)) ∧
      (un s a ≤ 3071 → (s.core (un s a)).owner = (s.core s.curCore).owner →
        (s.entryKernel s.me (s.src b) = none → Stops s t 15 0 (s.src b)) ∧
        ∀ r, s.entryKernel s.me (s.src b) = some r →
          (s.me.buf ≠ [] → Parked s t 4 .retry) ∧
          (s.me.buf = [] → un s a ≠ s.curCore →
            Parked s t 3 (.spawn (un s a) (s.src b) r.kernel (handed s) none) ∧ t.me.popDue = s.pops (spawnSrcs a b)) ∧
          (s.me.buf = [] → un s a = s.curCore → s.admits s.curCore r = none → ∃ sw, InlineSw s.me.sw sw true ∧
            WroteTo s t (spawnSrcs a b) 15 (BitVec.ofNat 64 (s.me.pc.toNat + 4 + s.me.inline_.toNat)) 0 1 (pcDown (s.src b)) sw) ∧
          (s.me.buf = [] → un s a = s.curCore → ∀ room, s.admits s.curCore r = some room →
            t = ((s.take (spawnSrcs a b)).claim s.curCore room (spawnArrival s.me s.now (s.src b) r (handed s))).advance ∧
            (t.slot s.curCore room.slot).pc = pcDown (s.src b) ∧ (t.slot s.curCore room.slot).st = .ready ∧
            (∀ q, (t.slot s.curCore room.slot).reg q =
              if 1 ≤ q.toNat ∧ q.toNat ≤ 4 then s.me.reg q else 0) ∧
            (∀ q, (t.slot s.curCore room.slot).isFull q = decide (q.toNat ≤ 4)) ∧ t.me.pc = s.me.advance.pc))) ∧
  (∀ (s : State) (c k n kn : Nat) (e : Word) (regs : List Word) (kr : KernRef), (s.slot c k).st = .parked →
    (s.slot c k).pend = .spawn n e kn regs none → (s.slot c k).kern = some kr → (s.core n).claimCyc ≠ s.now + 1 →
    ∃ t, exec (.spawnPacket c k) s = .next t ∧
      (s.admits n { kr with kernel := kn } = none → t = s.modSlot c k (fun y => { y with pend := .spawn n e kn regs (some false) })) ∧
      (∀ room, s.admits n { kr with kernel := kn } = some room →
        t = (s.claim n room (spawnArrival (s.slot c k) s.now e { kr with kernel := kn } regs)).modSlot c k
          (fun y => { y with pend := .spawn n e kn regs (some true) }))) ∧
  (∀ (s : State) (c k n kn : Nat) (e : Word) (regs : List Word) (ok : Bool), (s.slot c k).st = .parked →
    (s.slot c k).pend = .spawn n e kn regs (some ok) →
    ∃ t, exec (.spawnAnswer c k) s = .next t ∧
      (ok = true → Resumed s t c k) ∧
      (ok = false → (t.slot c k).st = .ready ∧ (t.slot c k).pc = pcDown e ∧ (t.slot c k).inline_ = true ∧
        (t.slot c k).reg 15 = BitVec.ofNat 64 ((s.slot c k).pc.toNat + 4 + (s.slot c k).inline_.toNat) ∧
        (∀ r, r ≠ 15 → (t.slot c k).reg r = (s.slot c k).reg r) ∧ t.mem = s.mem))

/-- R145, R176, R198: `quit` stops with F_GUARD at a pending guard record; an inline child returns to the address in g15 with the inline bit that
stands in its bit 0; any other slot becomes FREE, keeping its stores under way. R146, R177: `migr` checks that the thread may move, its
address and the owner of the core there; to its own core it only goes on, else it parks with park 3 until every earlier access is
performed; then the packet leaves for the core and the slot becomes FREE. A register with an uncorrectable error is not carried: F_DATA (R298).
Where it rests on readings or choices of the model, not on a rule: log entry 13. -/
def Obligations.QuitAndMigrationFreeTheSlot : Prop :=
  (∀ s : State, PassesG s false (if s.me.inline_ = true then [15] else []) none →
    ∃ t, exec .quit s = .next t ∧
      (∀ r, s.me.guardRec = some r → GuardStops s t r) ∧
      (s.me.guardRec = none → s.me.inline_ = true → ¬Canonical (s.me.reg 15) → Stops s t 5 (s.me.reg 15) 0) ∧
      (s.me.guardRec = none → s.me.inline_ = true → Canonical (s.me.reg 15) → ∃ sw, InlineSw s.me.sw sw (bit (s.me.reg 15) 0) ∧
        WentOn s t [] (pcDown (s.me.reg 15)) sw) ∧
      (s.me.guardRec = none → s.me.inline_ = false → Freed s t s.curCore s.curSlot)) ∧
  (∀ (s : State) (a : Reg), PassesG s false [a] none →
    let moves := s.me.vsize = 0 ∧ s.me.spad = none ∧ s.me.chain = false ∧ s.me.inline_ = false
    ∃ t, exec (.migr a) s = .next t ∧
      (¬moves → Stops s t 14 (s.src a) 0) ∧
      (moves → ∀ l, s.locate (s.src a) 1 .load true false = .ok l →
        (l.place = .devReg → Stops s t 5 (s.src a) 0) ∧
        (l.place ≠ .devReg → owningCore l = none → Stops s t 14 (s.src a) 0) ∧
        (∀ n, owningCore l = some n →
          ((s.core n).owner ≠ (s.core s.curCore).owner → Stops s t 12 (s.src a) (BitVec.ofNat 64 n)) ∧
          ((s.core n).owner = (s.core s.curCore).owner →
            (n = s.curCore → WentNext s t [a]) ∧
            (n ≠ s.curCore → ∀ i, FirstBadG s.me 10 i → Stops s t 27 0 (BitVec.ofNat 64 (256 + i))) ∧
            (n ≠ s.curCore → CarriesWhole s.me 10 → Parked s t 3 (.migr n) ∧ t.me.popDue = s.pops [a]))))) ∧
  (∀ (s : State) (c k n : Nat) (kr : KernRef), (s.slot c k).st = .parked → (s.slot c k).pend = .migr n → (s.slot c k).kern = some kr →
    s.quiet c k = true → CarriesWhole (s.slot c k) 10 →
    ∃ t a, exec (.migrationPacketDeparture c k) s = .next t ∧ (t.slot c k).st = .free ∧ a ∈ (t.core n).links ∧
      a.src = .migrant ∧ a.pc = pcOf ((s.slot c k).pc + 4) ∧ a.tenant = (s.slot c k).tenant ∧ a.kern = kr ∧ a.task = (s.slot c k).task ∧
      a.regs = (List.range' 1 10).map (fun i => (BitVec.ofNat 4 i, (s.slot c k).reg (BitVec.ofNat 4 i), (s.slot c k).isFull (BitVec.ofNat 4 i))))

/-- R157, R158, R175: `spawnq` checks its entry and its control word, waits until every earlier access is performed (park 3), and sends a task
record with g1 to g8, none of which may hold an uncorrectable error (R298); then it parks until the record is accepted.
R148, R179: `rput` names a slot of a core of its quad with the same owner; with four writes under way the slot parks with park 3; else the
write leaves and the slot goes on. A write that arrives fills its register and sets the latch, unless the slot has become another
claim's or FREE; it is then discarded. -/
def Obligations.TasksAndRegistersAreSent : Prop :=
  (∀ (s : State) (a b c : Reg), PassesG s false [a, b, c] none →
      ∃ t, exec (.spawnq a b c) s = .next t ∧
        (s.entryKernel s.me (s.src a) = none → Stops s t 15 0 (s.src a)) ∧
        (∀ r, s.entryKernel s.me (s.src a) = some r →
          (¬ControlWord (s.src b) → Stops s t 16 0 (s.src b)) ∧
          (ControlWord (s.src b) → ∀ i, FirstBadG s.me 8 i → Stops s t 27 0 (BitVec.ofNat 64 (256 + i))) ∧
          (ControlWord (s.src b) → CarriesWhole s.me 8 → s.quiet s.curCore s.curSlot = false → Parked s t 3 .retry) ∧
          (ControlWord (s.src b) → CarriesWhole s.me 8 → s.quiet s.curCore s.curSlot = true →
            t.me.st = .parked ∧ t.me.park = 3 ∧ t.me.pend = .taskSent ∧ t.me.pc = s.me.pc ∧ Popped s t [a, b, c] ∧
            t.pkg = { s.pkg with recs := s.pkg.recs ++ [recordOf s a b c r] } ∧
            (t.core s.curCore).seq = (s.core s.curCore).seq + 1 ∧ t.mem = s.mem))) ∧
  ((∀ (s : State) (d a b : Reg), PassesG s false [a, b] none →
      let tc := quadCore s.curCore (un s b / 16 % 4)
      let busy := 4 ≤ (s.pkg.rputs.filter (fun r => r.core = s.curCore && r.slot = s.curSlot)).length
      ∃ t, exec (.rput d a b) s = .next t ∧
        (isCompute s.curCore = false → Stops s t 12 0 0) ∧
        (isCompute s.curCore = true → (s.core tc).owner ≠ (s.core s.curCore).owner → Stops s t 12 0 (BitVec.ofNat 64 tc)) ∧
        (isCompute s.curCore = true → (s.core tc).owner = (s.core s.curCore).owner →
          (busy → Parked s t 3 .retry) ∧
          (¬busy → t.me = s.me.advance ∧ Popped s t [a, b] ∧ t.mem = s.mem ∧
            t.pkg = { s.pkg with rputs := s.pkg.rputs ++
              [⟨s.curCore, s.curSlot, tc, un s b % 16, (s.slot tc (un s b % 16)).claims, s.me.tenant, d, s.src a⟩] }))) ∧
    (∀ (s : State) (c k : Nat) (r : RputFlight), s.pkg.rputs.find? (fun x => x.core = c && x.slot = k) = some r →
      (s.core r.tcore).health ≠ .stopped →
      let x := s.slot r.tcore r.tslot
      let gone := x.st = .free ∨ x.claims ≠ r.claim ∨ x.tenant ≠ r.tenant
      ∃ t, exec (.rputFill c k) s = .next t ∧ t.pkg = { s.pkg with rputs := s.pkg.rputs.erase r } ∧
        (gone ∨ r.d = 0 → t.slots = s.slots ∧ t.cores = s.cores) ∧
        (¬gone → r.d ≠ 0 → r.tslot < 16 →
          (t.slot r.tcore r.tslot).isFull r.d = true ∧
          (t.slot r.tcore r.tslot).reg r.d = (if s.now < x.wbDue ∧ x.wbRegs.getLsbD r.d.toNat = true then x.reg r.d else r.v) ∧
          (∀ q, q ≠ r.d → (t.slot r.tcore r.tslot).reg q = x.reg q) ∧
          (x.pend ≠ .latch → x.waitCyc ≠ s.now + 1 → t.latch r.tcore r.tslot = true))))

/-- R150, R180: `wait` goes on and clears a set latch, with which another setting of the same cycle counts as one, else parks with park 8 until it is set; `yield` leaves the latch, and also goes on after 256
clk. A setting of the latch, as by the arrival of an `rput`, wakes a slot that is parked on it: one in `wait` takes the setting and goes on with
its latch clear, one in `yield` goes on with its latch set. R147, R181: `chset` and `chclr` set and clear the chain bit, `chset` not on service and security cores. -/
def Obligations.WaitsAndTheChainBit : Prop :=
  (∀ s : State, PassesG s false [] none → ∃ t, exec .wait s = .next t ∧
    (s.latch s.curCore s.curSlot = false → Parked s t 8 .latch) ∧
    (s.latch s.curCore s.curSlot = true → s.curSlot < 16 → t.me = { s.me.advance with waitCyc := s.now + 1 } ∧ t.latch s.curCore s.curSlot = false ∧
      (∀ k, k ≠ s.curSlot → t.latch s.curCore k = s.latch s.curCore k) ∧ t = { s with slots := t.slots, cores := t.cores } ∧
      ∀ c k, s.other c k → t.slot c k = s.slot c k)) ∧
  (∀ s : State, PassesG s false [] none → ∃ t, exec .yield s = .next t ∧
    (s.latch s.curCore s.curSlot = false → Parked s t 8 (.yieldTill (s.now + 256))) ∧
    (s.latch s.curCore s.curSlot = true → WentNext s t [])) ∧
  (∀ (s : State) (c k n : Nat), (s.slot c k).st = .parked → (s.slot c k).pend = .yieldTill n →
    ∃ t, exec (.yieldTimeout c k) s = .next t ∧ (s.now < n → t = s) ∧ (n ≤ s.now → t = s.modSlot c k Slot.wakeNext)) ∧
  (∀ (s : State) (c k : Nat), k < 16 → (s.slot c k).st = .parked →
    ((s.slot c k).pend = .latch → s.setLatch c k = s.modSlot c k (fun x => { x.wakeNext with waitCyc := s.now + 1 })) ∧
    (∀ n, (s.slot c k).pend = .yieldTill n →
      (s.setLatch c k).slot c k = (s.slot c k).wakeNext ∧ (s.setLatch c k).latch c k = true ∧
      (∀ j, j ≠ k → (s.setLatch c k).latch c j = s.latch c j) ∧ ∀ c' k', slotKey c' k' ≠ slotKey c k → (s.setLatch c k).slot c' k' = s.slot c' k')) ∧
  (∀ (s : State) (c k : Nat) (r : RputFlight), s.pkg.rputs.find? (fun x => x.core = c && x.slot = k) = some r →
    (s.core r.tcore).health ≠ .stopped → r.d ≠ 0 → r.tslot < 16 →
    let x := s.slot r.tcore r.tslot
    x.st = .parked → x.claims = r.claim → x.tenant = r.tenant →
    ∃ t, exec (.rputFill c k) s = .next t ∧
      (x.pend = .latch ∨ (∃ n, x.pend = .yieldTill n) →
        (t.slot r.tcore r.tslot).st = .ready ∧ (t.slot r.tcore r.tslot).park = 0 ∧ (t.slot r.tcore r.tslot).pc = x.advance.pc) ∧
      (x.pend = .latch → ∀ j, t.latch r.tcore j = s.latch r.tcore j) ∧
      (∀ n, x.pend = .yieldTill n → t.latch r.tcore r.tslot = true)) ∧
  (∀ s : State, PassesG s false [] none → ∃ t sw, exec .chset s = .next t ∧
    WentOn s t [] (({ s.me with sw := sw } : Slot).advance).pc (({ s.me with sw := sw } : Slot).advance).sw ∧
    (∀ n < 64, bit sw n = if n = 1 ∧ isCompute s.curCore = true then true else bit s.me.sw n)) ∧
  (∀ s : State, PassesG s false [] none → ∃ t sw, exec .chclr s = .next t ∧
    WentOn s t [] (({ s.me with sw := sw } : Slot).advance).pc (({ s.me with sw := sw } : Slot).advance).sw ∧
    (∀ n < 64, bit sw n = if n = 1 then false else bit s.me.sw n))

/-- R151 to R153, R182, R198: `bar` stops with F_GUARD at a pending guard record, waits until every earlier access is performed (park 4), and
arrives; the arrival that makes the count releases the generation, and every slot that waits in it goes on at its next word; any other parks with
park 6. The core-level barrier takes its count from the slots of the core that are not FREE. R153: a word whose
arrival was counted does not arrive again. R350, R370: a package arrival is counted at the root, and released 120 clk after the last; of the slots in
`sbar`, those whose die's E has passed the stamp go on with it then, the others wait for it, and one that is STOPPED takes it (R293).
Where it rests on readings or choices of the model, not on a rule: log entries 11, 52, 57, 89. -/
def Obligations.HardwareBarriersCountAndRelease : Prop :=
  (∀ (s : State) (id : BitVec 6) (lv : BitVec 3), (Instr.bar id lv).wf = true → PassesG s false [] none → s.me.park ≠ 6 →
    s.me.guardRec = none → s.curSlot < 16 →
    let ready := s.quiet s.curCore s.curSlot = true
    let inst := barInst lv.toNat s.curCore
    let b := s.bar lv.toNat inst id.toNat
    ∃ t, exec (.bar id lv) s = .next t ∧
      (¬ready → Parked s t 4 .retry) ∧
      (ready → lv = 5 → Parked s t 6 (.barSent id.toNat none)) ∧
      (ready → lv ≠ 0 → lv ≠ 5 → b.arr + 1 < b.count →
        t.me.st = .parked ∧ t.me.park = 6 ∧ t.me.pend = .barrier lv.toNat inst id.toNat b.gen none ∧ t.me.pc = s.me.pc ∧
        t.me.bgen = decide (b.gen % 2 = 1) ∧ t.bar lv.toNat inst id.toNat = { b with arr := b.arr + 1 } ∧ t.mem = s.mem) ∧
      (ready → lv ≠ 0 → lv ≠ 5 → b.count ≤ b.arr + 1 →
        t.bar lv.toNat inst id.toNat = { b with gen := b.gen + 1, arr := 0 } ∧ t.mem = s.mem ∧
        t.me.st = .ready ∧ t.me.park = 0 ∧ t.me.pc = s.me.advance.pc ∧
        (∀ c k, k < 16 → s.other c k → (∃ d, (s.slot c k).pend = .barrier lv.toNat inst id.toNat b.gen d) → (s.slot c k).st = .parked →
          t.slot c k = (s.slot c k).wakeNext) ∧
        (∀ c k, k < 16 → s.other c k → (∀ d, (s.slot c k).pend ≠ .barrier lv.toNat inst id.toNat b.gen d) → t.slot c k = s.slot c k)) ∧
      (ready → lv = 0 → (s.core s.curCore).barArr + 1 < s.busySlots s.curCore → s.me.st ≠ .free →
        t.me.st = .parked ∧ t.me.park = 6 ∧ (t.core s.curCore).barArr = (s.core s.curCore).barArr + 1 ∧
        (t.core s.curCore).barGen = (s.core s.curCore).barGen) ∧
      (ready → lv = 0 → s.busySlots s.curCore ≤ (s.core s.curCore).barArr + 1 → s.me.st ≠ .free →
        t.me.st = .ready ∧ t.me.park = 0 ∧ t.me.pc = s.me.advance.pc ∧ (t.core s.curCore).barArr = 0 ∧
        (t.core s.curCore).barGen = (s.core s.curCore).barGen + 1 ∧ t.mem = s.mem ∧
        (∀ c k, k < 16 → s.other c k → (s.slot c k).st = .parked →
          (∃ d, (s.slot c k).pend = .barrier 0 s.curCore 0 (s.core s.curCore).barGen d) → t.slot c k = (s.slot c k).wakeNext) ∧
        (∀ c k, k < 16 → s.other c k → (∀ d, (s.slot c k).pend ≠ .barrier 0 s.curCore 0 (s.core s.curCore).barGen d) → t.slot c k = s.slot c k))) ∧
  (∀ (s : State) (id : BitVec 6) (lv : BitVec 3) (r : GuardRec), (Instr.bar id lv).wf = true → PassesG s false [] none → s.me.park ≠ 6 →
    s.me.guardRec = some r → ∃ t, exec (.bar id lv) s = .next t ∧ GuardStops s t r) ∧
  (∀ (s : State) (id : BitVec 6) (lv : BitVec 3), s.me.park = 6 →
    let cur := s.currentGen lv.toNat (barInst lv.toNat s.curCore) id.toNat
    ∃ t, exec (.bar id lv) s = .next t ∧
      (s.me.bgen = decide (cur % 2 = 1) → Parked s t 6 (.barrier lv.toNat (barInst lv.toNat s.curCore) id.toNat cur none)) ∧
      (s.me.bgen ≠ decide (cur % 2 = 1) → t = s.modMe (fun x => { (x.setPark 0).advance with stampIn := false }))) ∧
  (∀ (s : State) (c k id : Nat) (d : Option Reg), (s.slot c k).st = .parked → (s.slot c k).pend = .barSent id d →
    let b := s.bar 5 0 id
    ∃ t, exec (.pkgBarrierArrival c k) s = .next t ∧
      (t.slot c k).pend = .barrier 5 0 id b.gen d ∧ (t.slot c k).bgen = decide (b.gen % 2 = 1) ∧ (t.slot c k).st = .parked ∧
      (b.arr + 1 < b.count → t.bar 5 0 id = { b with arr := b.arr + 1 } ∧ t.pkg.rels = s.pkg.rels) ∧
      (b.count ≤ b.arr + 1 → t.bar 5 0 id = { b with gen := b.gen + 1, arr := 0 } ∧
        t.pkg.rels = s.pkg.rels ++ [(id, b.gen, s.now + 120, s.latest 4)])) ∧
  (∀ (s : State) (id gen due r : Nat), s.pkg.rels.find? (fun x => x.1 = id && decide (x.2.2.1 ≤ s.now)) = some (id, gen, due, r) →
    ∃ t, exec (.pkgBarrierRelease id) s = .next t ∧ t.pkg.rels = s.pkg.rels.erase (id, gen, due, r) ∧ t.mem = s.mem ∧
      t.bar 5 0 id = { s.bar 5 0 id with stamp := r } ∧
      (∀ c k inst d, k < 16 → (s.slot c k).st = .stopped → (s.slot c k).pend = .barrier 5 inst id gen (some d) → (t.slot c k).st = .stopped ∧
        (clkE s (dieOf c) ≤ r → t.slot c k = { s.slot c k with pend := .sbarRel d r s.now }) ∧
        (r < clkE s (dieOf c) → (t.slot c k).pend = .none ∧ (t.slot c k).stampIn = true ∧
          (d ≠ 0 → (s.slot c k).wbDue ≤ s.now → (t.slot c k).reg d = BitVec.ofNat 64 r))) ∧
      ∀ c k inst, k < 16 → (s.slot c k).st = .parked →
        ((s.slot c k).pend = .barrier 5 inst id gen none → t.slot c k = (s.slot c k).wakeNext) ∧
        (∀ d, (s.slot c k).pend = .barrier 5 inst id gen (some d) →
          (clkE s (dieOf c) ≤ r → t.slot c k = { s.slot c k with pend := .sbarRel d r s.now }) ∧
          (r < clkE s (dieOf c) → t.slot c k =
            (if d = 14 ∧ s.chained c k = true then s.slot c k else (s.slot c k).setReg d (BitVec.ofNat 64 r)).wakeNext)))

/-- R356, R359: `tnow` gives g[d] and g[a] the E and the L of the core's die in 4 clk; g14 pushes while the chain bit is set, and g0 discards.
R363 to R365: `sts` and `scas` wait until nothing of the slot is under way (park 4); `sts`, `scas` and `ldas` raise F_MEMTYPE on a page that
is not stamped and F_WIDEN on a widened die, and else park with park 10, a store under the stamp L of its die.
Where it rests on readings or choices of the model, not on a rule: log entry 20. -/
def Obligations.ClockReadsAndStampedAccesses : Prop :=
  (∀ (s : State) (d a : Reg), (Instr.tnow d a).wf = true → PassesG s false [] (if a = 14 then some a else some d) →
      let e := BitVec.ofNat 64 (clkE s (dieOf s.curCore))
      let l := BitVec.ofNat 64 (clkL s (dieOf s.curCore))
      ∃ t, exec (.tnow d a) s = .next t ∧
        (∀ r, t.me.reg r =
          if r = 0 then 0 else if r = d ∧ s.pushes (some d) = false then e else if r = a ∧ s.pushes (some a) = false then l else s.me.reg r) ∧
        (∀ r, t.me.isFull r = (s.me.isFull r || (decide (r = d) && !s.pushes (some d)) || (decide (r = a) && !s.pushes (some a)))) ∧
        t.me.pc = s.me.advance.pc ∧ t.me.sw = s.me.advance.sw ∧ t.me.fst = s.me.fst ∧
        ((d ≠ 0 ∧ s.pushes (some d) = false) ∨ (a ≠ 0 ∧ s.pushes (some a) = false) → t.me.wbDue = s.now + 4) ∧
        (∀ c k, t.chainOut c k = if c = s.curCore ∧ k = s.curSlot then
          s.chainOut c k ++ (if s.pushes (some d) = true then [(s.pushDue c (s.now + 4), e)] else []) ++
            (if s.pushes (some a) = true then [(s.pushDue c (s.now + 4), l)] else [])
          else s.chainOut c k) ∧
        SameButChains s t ∧ (s.onChain = false → OnlyMe s t)) ∧
  (∀ (s : State) (i : Instr) (srcs : List Reg) (d a : Reg) (acc : Acc) (rd wr : Bool) (p : State → Loc → Pend),
      stampedOf i = some (srcs, d, a, acc, rd, wr, p) → PassesG s false srcs (some d) →
      ∃ t, exec i s = .next t ∧
        (wr = true → s.quiet s.curCore s.curSlot = false → Parked s t 4 .retry) ∧
        ((wr = true → s.quiet s.curCore s.curSlot = true) → ∀ l, s.locate (s.src a) 8 acc rd wr = .ok l →
          (l.ty ≠ .stamped → Stops s t 10 (s.src a) (BitVec.ofNat 64 l.ty.code)) ∧
          (l.ty = .stamped → Widened s (dieOf s.curCore) → Stops s t 26 0 0) ∧
          (l.ty = .stamped → ¬Widened s (dieOf s.curCore) → Parked (s.demoteHome l) t 10 (p s l) ∧ t.me.popDue = s.pops srcs)))

/-- R361 to R364: a stamped store at its home: F_WIDEN or, past Dlate, F_LATESTAMP is answered; a `scas` that meets an uncorrectable error
raises F_DATA (R298), one that does not match takes the newest version's stamp and word; any other becomes the newest version under a stamp above the one before, or is held while there is no room. A
held store takes its turn so at the start of the cycle in which there is room, the longest waiting of its line first. It
is performed once the home's E passes its stamp: memory then holds the newest visible version, and no byte of another line changes. At a home
in a package that has left the pod it meets F_ADDR, one that is held too, at the start of the next cycle (R355).
Where it rests on readings or choices of the model, not on a rule: log entries 39, 67, 81. -/
def Obligations.StampedStoresBecomeVersions : Prop :=
  (∀ (s : State) (c k : Nat) (cas : Bool) (d : Reg) (va v e : Word) (l : Loc) (stamp : Nat), (s.slot c k).st = .parked →
    (s.slot c k).pend = .stamped cas d va l stamp v e .sent → s.lostPlace l va = none →
    let h := s.homeClockDie l
    let at_ (st : StampStage) : Pend := .stamped cas d va l stamp v e st
    let late := stamp + (s.die h).dlate < clkE s h ∨ stamp < Tab.get 0 s.pkg.asOf (l.key / 64)
    let first := s.heldBefore (l.key / 64) s.pkg.stampSeq = false
    ∃ t, exec (.stampedStoreArrival c k) s = .next t ∧
      (¬Widened s h → ¬late → first →
        TakesTurn { s with pkg := { s.pkg with stampSeq := s.pkg.stampSeq + 1 } } t c k cas d va v e l stamp s.pkg.stampSeq) ∧
      (Widened s h ∨ late ∨ ¬first → OnlyVersions s t ∧ t.pkg.vers = s.pkg.vers ∧
        (∀ c' k', slotKey c' k' ≠ slotKey c k → t.slot c' k' = s.slot c' k') ∧
        (Widened s h → (t.slot c k).pend = at_ (.answered 26 0)) ∧
        (¬Widened s h → late → (t.slot c k).pend = at_ (.answered 24 0)) ∧
        (¬Widened s h → ¬late → ¬first → (t.slot c k).pend = at_ (.held s.pkg.stampSeq)))) ∧
  (∀ (s : State) (c k : Nat) (cas : Bool) (d : Reg) (va v e : Word) (l : Loc) (stamp n : Nat), k < 16 → Tab.wf Slot.reset s.slots = true →
    (s.slot c k).st = .parked → (s.slot c k).pend = .stamped cas d va l stamp v e (.held n) → s.lostPlace l va = none →
    (∀ c' k', k' < 16 → slotKey c' k' ≠ slotKey c k → ∀ m, heldOn (l.key / 64) (s.slot c' k') = some m → n < m) →
    ∃ t, exec (.versionAppend (l.key / 64)) s = .next t ∧ TakesTurn s t c k cas d va v e l stamp n) ∧
  (∀ (s : State) (line : Nat), (∀ p ∈ s.slots, heldOn line p.2 = none) → exec (.versionAppend line) s = .next s) ∧
  (∀ (s t : State) (c k : Nat) (cas : Bool) (d : Reg) (va v e : Word) (l : Loc) (stamp n : Nat), k < 16 → s.todo = [] → step s = .next t →
    (t.slot c k).st = .parked → (t.slot c k).pend = .stamped cas d va l stamp v e (.held n) →
    roomFor (t.versions (l.key / 64)) (homeSees t l) = true ∨ t.lostPlace l va ≠ none → .event (.versionAppend (l.key / 64)) ∈ t.todo) ∧
  (∀ (s : State) (c k : Nat) (cas : Bool) (d : Reg) (va v e w : Word) (l : Loc) (stamp n : Nat), (s.slot c k).st = .parked →
    (s.slot c k).pend = .stamped cas d va l stamp v e (.commit n w) → s.lostPlace l va = none →
    let sees := homeSees s l
    let line := l.key / 64
    ∃ t, exec (.commitWaitEnd c k) s = .next t ∧
      (sees ≤ n → t = s) ∧
      (n < sees →
        (t.slot c k).pend = .stamped cas d va l stamp v e (.answered 0 w) ∧
        (∀ i < 8, t.rawRead (64 * line + 8 * i) 8 = ((visibleOf (s.versions line) sees).words.getD i (0, 0)).1.toNat ∧
          t.tagOf (64 * line + 8 * i) = ((visibleOf (s.versions line) sees).words.getD i (0, 0)).2) ∧
        (∀ a, a / 64 ≠ line → t.byteAt a = s.byteAt a) ∧
        (cas = false ∨ w = e → t.badWord l.key = false) ∧
        (∀ a, a / 8 ≠ l.key / 8 → t.badWord a = s.badWord a))) ∧
  (∀ (s : State) (c k p : Nat) (cas : Bool) (d : Reg) (va v e : Word) (l : Loc) (stamp : Nat) (st : StampStage), (s.slot c k).st = .parked →
    (s.slot c k).pend = .stamped cas d va l stamp v e st → l.place = .pkg p → p ∉ s.pkg.podMembers →
    (st = .sent → ∃ t, exec (.stampedStoreArrival c k) s = .next t ∧ Faulted s t c k 5 va 0 false) ∧
    (∀ n, st = .held n → k < 16 → Tab.wf Slot.reset s.slots = true →
      (∀ c' k', k' < 16 → slotKey c' k' ≠ slotKey c k → ∀ m, heldOn (l.key / 64) (s.slot c' k') = some m → n < m) →
      ∃ t, exec (.versionAppend (l.key / 64)) s = .next t ∧ Faulted s t c k 5 va 0 false) ∧
    (∀ n w, st = .commit n w → ∃ t, exec (.commitWaitEnd c k) s = .next t ∧ Faulted s t c k 5 va 0 false)) ∧
  (∀ (s : State) (c k code : Nat) (cas : Bool) (d : Reg) (va v e w : Word) (l : Loc) (stamp : Nat), (s.slot c k).st = .parked →
    (s.slot c k).pend = .stamped cas d va l stamp v e (.answered code w) →
    ∃ t, exec (.stampedAnswer c k) s = .next t ∧
      (code = 0 → Answered s t c k d w) ∧ (code = 24 → Faulted s t c k 24 va 0 false) ∧ (code = 26 → Faulted s t c k 26 0 0 false))

/-- R365, R366: an as-of load at its home: F_WIDEN where the home is widened; else, once E passes its stamp by Dlate and no waiting store could
still stand at or below it, g[d] takes the word of the newest version at or below the stamp; with none, F_OLDSTAMP. R370: `sbar` checks as a
barrier does, raises F_WIDEN on a widened die, and arrives at the package barrier; g[d] takes the release stamp once the die's E exceeds
it; one whose arrival was counted does not arrive again (R153), and takes the stamp once, when it is released or, stopped meanwhile, then. A
pending guard record stops an `sbar` with F_GUARD (R198). No store is admitted at or below the stamp of an answer any more (R366).
Where it rests on readings or choices of the model, not on a rule: log entries 39, 81. -/
def Obligations.AsOfLoadsAndStampedBarriers : Prop :=
  (∀ (s : State) (c k stamp : Nat) (d : Reg) (va : Word) (l : Loc), (s.slot c k).st = .parked → (s.slot c k).pend = .ldas d va l stamp false →
    s.lostPlace l va = none →
    ∃ t, exec (.ldasArrival c k) s = .next t ∧
      (Widened s (s.homeClockDie l) → Faulted s t c k 26 0 0 false) ∧
      (¬Widened s (s.homeClockDie l) → t = s.modSlot c k (fun x => { x with pend := .ldas d va l stamp true }))) ∧
  (∀ (s : State) (c k stamp : Nat) (d : Reg) (va : Word) (l : Loc), (s.slot c k).st = .parked → (s.slot c k).pend = .ldas d va l stamp true →
    s.lostPlace l va = none →
    let h := s.homeClockDie l
    let ready := stamp + (s.die h).dlate < clkE s h ∧ s.heldUpTo (l.key / 64) stamp = false
    let below := (s.versions (l.key / 64)).filter (fun v => decide (v.stamp ≤ stamp))
    ∃ t, exec (.asOfAnswer c k) s = .next t ∧
      (¬ready → t = s) ∧
      (ready → below = [] → Faulted s t c k 25 va 0 false) ∧
      (ready → ∀ v, below.getLast? = some v →
        (s.badWord l.key = true → Faulted s t c k 27 (BitVec.ofNat 64 (va.toNat / 8 * 8)) 0 false) ∧
        (s.badWord l.key = false → Answered { s with pkg := { s.pkg with asOf := t.pkg.asOf } } t c k d (v.wordAs (s.cipherKey c) l.key) ∧
          ∀ m, Tab.get 0 t.pkg.asOf m = if m = l.key / 64 then max (Tab.get 0 s.pkg.asOf m) (stamp + 1) else Tab.get 0 s.pkg.asOf m))) ∧
  (∀ (s : State) (d : Reg) (id : BitVec 6) (r : GuardRec), PassesG s false [] (some d) → s.me.park ≠ 6 → s.me.guardRec = some r →
    ∃ t, exec (.sbar d id) s = .next t ∧ GuardStops s t r) ∧
  (∀ (s : State) (d : Reg) (id : BitVec 6), PassesG s false [] (some d) → s.me.park ≠ 6 → s.me.guardRec = none →
    ∃ t, exec (.sbar d id) s = .next t ∧
      (Widened s (dieOf s.curCore) → Stops s t 26 0 0) ∧
      (¬Widened s (dieOf s.curCore) → s.quiet s.curCore s.curSlot = false → Parked s t 4 .retry) ∧
      (¬Widened s (dieOf s.curCore) → s.quiet s.curCore s.curSlot = true →
        Parked (s.modMe (fun x => { x with stampIn := false })) t 6 (.barSent id.toNat (some d)))) ∧
  (∀ (s : State) (d : Reg) (id : BitVec 6), s.me.park = 6 →
    let cur := s.currentGen 5 0 id.toNat
    ∃ t, exec (.sbar d id) s = .next t ∧
      (s.me.bgen = decide (cur % 2 = 1) → Parked s t 6 (.barrier 5 0 id.toNat cur (some d))) ∧
      (s.me.bgen ≠ decide (cur % 2 = 1) → s.me.stampIn = true → t = s.modMe (fun x => { (x.setPark 0).advance with stampIn := false })) ∧
      (s.me.bgen ≠ decide (cur % 2 = 1) → s.me.stampIn = false →
        let r := (s.bar 5 0 id.toNat).stamp
        (clkE s (dieOf s.curCore) ≤ r → Parked s t 6 (.sbarRel d r s.now)) ∧
        (r < clkE s (dieOf s.curCore) → t.me.st = s.me.st ∧ t.me.park = 0 ∧ t.me.pc = s.me.advance.pc ∧
          (∀ n, ¬(d = 14 ∧ s.onChain = true) → t.me.reg n = if n = d ∧ d ≠ 0 then BitVec.ofNat 64 r else s.me.reg n)))) ∧
  (∀ (s : State) (c k r due : Nat) (d : Reg), (s.slot c k).st = .stopped → (s.slot c k).pend = .sbarRel d r due →
    ∃ t, exec (.sbarRelease c k) s = .next t ∧ (clkE s (dieOf c) ≤ r → t = s) ∧
      (r < clkE s (dieOf c) → (t.slot c k).st = .stopped ∧ (t.slot c k).pend = .none ∧ (t.slot c k).stampIn = true ∧
        (d ≠ 0 → (s.slot c k).wbDue ≤ s.now → (t.slot c k).reg d = BitVec.ofNat 64 r))) ∧
  (∀ (s : State) (c k r due : Nat) (d : Reg), (s.slot c k).st = .parked → (s.slot c k).pend = .sbarRel d r due →
    ∃ t, exec (.sbarRelease c k) s = .next t ∧
      (clkE s (dieOf c) ≤ r → t = s) ∧ (r < clkE s (dieOf c) → Answered s t c k d (BitVec.ofNat 64 r)))

/-- R241 to R243, R250, R277: `mxq` and `cpq` wait until the slot's stores and accesses are performed and for the translation of the descriptor's
address, answer 0 with a code for a descriptor that they cannot reach or that names no cluster, and else send a request (park 3). The target
applies Table 14.2 in order, and accepts the job with the next identifier and the scale codes of that cycle, or refuses; the answer fills
g[d], an acceptance making the completion register empty. A descriptor word with an uncorrectable error raises F_DATA (R298).
Where it rests on readings or choices of the model, not on a rule: log entries 16, 41, 67. -/
def Obligations.JobsAreAcceptedOrRefused : Prop :=
  (∀ (s : State) (i : Instr) (copy : Bool) (fn : Nat) (d a b : Reg), submitOf i = some (copy, fn, d, a, b) → i.wf = true →
    PassesG s false [a, b] (some d) →
    ∃ t, exec i s = .next t ∧
      (s.me.buf ≠ [] → Parked s t 4 .retry) ∧
      (s.me.buf = [] → s.quiet s.curCore s.curSlot = false → Parked s t 3 .retry) ∧
      (s.me.buf = [] → s.quiet s.curCore s.curSlot = true →
        (un s a % 8 ≠ 0 → RefusedJob s t [a, b] d 1) ∧
        (un s a % 8 = 0 → leads s (s.src a) true false = .walk →
          Parked s t 3 (walkOf s (s.src a) (.desc d) true false) ∧ t.me.popDue = s.pops [a, b]) ∧
        (un s a % 8 = 0 → (∃ f, leads s (s.src a) true false = .fault f) → RefusedJob s t [a, b] d 1) ∧
        (un s a % 8 = 0 → (∃ l, leads s (s.src a) true false = .ok l) → un s a % 64 ≠ 0 → RefusedJob s t [a, b] d 1) ∧
        ∀ l1 l2 cluster, DescriptorAt s (s.src a) l1 l2 cluster →
          (383 < cluster → RefusedJob (s.touch s.curCore s.curSlot l1.key 8) t [a, b] d 2) ∧
          (cluster ≤ 383 → Parked (s.touch s.curCore s.curSlot l1.key 8) t 3 (.jobReq copy fn d (s.src a) l1 l2 (s.src b) cluster) ∧
            t.me.popDue = s.pops [a, b]))) ∧
  (∀ (s : State) (c k : Nat) (d : Reg) (va : Word) (rd wr : Bool) (p q r : Word), (s.slot c k).st = .parked →
    (s.slot c k).pend = .walk va (.desc d) rd wr p q r → WalkEnds s c k va (.desc d) rd wr p q r .bad →
    ∃ t, exec (.translationWalkComplete c k) s = .next t ∧ Answered (s.modSlot c k (fun x => { x with fault := 1 })) t c k d 0) ∧
  (∀ (s : State) (c k fn cluster : Nat) (copy : Bool) (d : Reg) (va : Word) (l1 l2 : Loc) (cap : Word), (s.slot c k).st = .parked →
    (s.slot c k).pend = .jobReq copy fn d va l1 l2 cap cluster →
    (s.unit cluster copy).accCyc ≠ s.now + 1 → (s.cluster cluster).touchCyc ≠ s.now + 1 → s.reachable l1 = true → s.reachable l2 = true →
    let dws := descriptor s c l1 l2
    let refusal := refusalCode s cluster copy fn d dws cap (s.slot c k).tenant (s.core c).owner
    let reached := s.lostPlace l1 va = none ∧ s.lostPlace l2 va = none
    let bad (i : Nat) : Bool := s.badWord (if i < 8 then l1.key + 8 * i else l2.key + 8 * (i - 8))
    let whole := reached ∧ ∀ i < 14, bad i = false
    let n := (s.unit cluster copy).issued + 1
    ∃ t, exec (.jobRequest c k) s = .next t ∧ t.mem = s.mem ∧
      (¬reached → t = s.modSlot c k (fun y => { y with pend := .jobAns d copy cluster (.refused 1) })) ∧
      (reached → ∀ i < 14, bad i = true → (∀ j < i, bad j = false) → Faulted s t c k 27 (va + BitVec.ofNat 64 (8 * i)) 0 false) ∧
      (whole → ∀ code, refusal = some code → t = s.modSlot c k (fun y => { y with pend := .jobAns d copy cluster (.refused code) })) ∧
      (whole → refusal = none → ∃ j : Job,
        (t.slot c k).pend = .jobAns d copy cluster (.accepted (cluster * 2 ^ 23 + copy.toNat * 2 ^ 22 + ((n - 1) % (2 ^ 22 - 1) + 1)) j.creg) ∧
        (t.unit cluster copy).jobs = (s.unit cluster copy).jobs ++ [j] ∧ (t.unit cluster copy).issued = n ∧
        j.seq = n ∧ j.fn = fn ∧ j.dws = dws ∧ j.tenant = (s.slot c k).tenant ∧ j.owner = (s.core c).owner ∧ j.stage = .queued ∧
        (bit (j.fl.zeroExtend 64) 6 = true ↔ ∃ i < 14, s.guardKey (if i < 8 then l1.key + 8 * i else l2.key + 8 * (i - 8)) = true) ∧
        j.core = c ∧ j.slot = k ∧ j.claim = (s.slot c k).claims ∧ j.creg.toNat = bits (dws.getD 0 0) 35 4 ∧
        (copy = false → bits (dws.getD 0 0) 16 2 = 1 →
          j.scaleA = s.scaleCodes cluster (bits (dws.getD 4 0) 32 16) (ceilDiv (bits (dws.getD 1 0) 16 21) 32) ∧
          j.scaleB = s.scaleCodes cluster (bits (dws.getD 4 0) 48 16) (ceilDiv (bits (dws.getD 1 0) 16 21) 32)))) ∧
  (∀ (s : State) (c k cluster : Nat) (copy : Bool) (d : Reg) (ans : JobAns), (s.slot c k).st = .parked →
    (s.slot c k).pend = .jobAns d copy cluster ans →
    ∃ t, exec (.jobAnswer c k) s = .next t ∧
      (∀ id creg, ans = .accepted id creg → Answered (s.modSlot c k (fun x => x.setFull creg.toNat false)) t c k d (BitVec.ofNat 64 id)) ∧
      (∀ code, ans = .refused code → Answered (s.modSlot c k (fun x => { x with fault := BitVec.ofNat 64 code })) t c k d 0))

/-- R279, R281: `jpoll` asks the job's target (park 3), whose answer fills g[d] with the state of a job of the tenant (0 pending, 1 complete, 2
none of the tenant's); `jwait` parks with park 5 while it is pending, and else goes on. -/
def Obligations.JobsArePolledAndAwaited : Prop :=
  (∀ (s : State) (d a : Reg), PassesG s false [a] (some d) →
    ∃ t u, exec (.jpoll d a) s = .next t ∧ Parked s t 3 (.asked (.jpoll d (s.src a))) ∧ t.me.popDue = s.pops [a] ∧
      State.happen t (.reply s.curCore s.curSlot) = .next u ∧
      Answered t u s.curCore s.curSlot d (BitVec.ofNat 64 (s.jobStatus s.me.tenant (s.src a)))) ∧
  (∀ (s : State) (c k : Nat) (d : Reg) (id : Word), (s.slot c k).st = .parked → (s.slot c k).pend = .asked (.jpoll d id) →
    Answered s (s.reply c k) c k d (BitVec.ofNat 64 (s.jobStatus (s.slot c k).tenant id))) ∧
  (∀ (s : State) (a : Reg), PassesG s false [a] none →
    ∃ t, exec (.jwait a) s = .next t ∧
      (s.jobStatus s.me.tenant (s.src a) = 0 → Parked s t 5 (.jwait (s.src a)) ∧ t.me.popDue = s.pops [a]) ∧
      (s.jobStatus s.me.tenant (s.src a) ≠ 0 → WentNext s t [a])) ∧
  (∀ (s : State) (tenant : BitVec 8) (cluster n : Nat) (copy : Bool),
    let u := s.unit cluster copy
    cluster < 384 → 1 ≤ n → n ≤ u.issued → u.issued < n + 2 ^ 21 → u.through_ ≤ u.issued →
    s.jobStatus tenant (BitVec.ofNat 64 (cluster * 2 ^ 23 + copy.toNat * 2 ^ 22 + ((n - 1) % (2 ^ 22 - 1) + 1))) =
      if u.past.getD (u.issued - n) 0 ≠ tenant then 2 else if n ≤ u.through_ then 1 else 0)

/-- R244, R247, R252 to R256, R279, R294: the next job of a target starts by reading its shape record or list, unless an image transfer holds its
tile or its ring group is not complete; a group that is complete starts together, once no transfer holds a tile of it, or ends with
RING_MISMATCH; one that waits for a page or a stopped core in that read goes on with it; a ring group that is not complete after 1,250,000 clk
ends its job with RING_TIMEOUT. What a part of a job computes is what the model's own `Work.part` gives. R211: a running job does its work part by part, what it writes in one word at once, and a part whose page is
absent waits. The rest of its work done, it ends with its code and detail; the oldest job, once it has ended, completes: status word and faulting
address come to stand in its descriptor, the status word fills its completion register, an event is posted where it may, it leaves the
queue, and every slot that waits for a complete job goes on; a page that comes in lets waiting jobs go on. A soft error ends the running
job before its next write but `last` with DATA_ERROR, its location as the detail and the address of the last write; its tile is cleared; where a
corrupt entry of the scale store ends it, that entry then reads back as 255.
Where it rests on readings or choices of the model, not on a rule: log entries 14, 40, 47, 77. -/
def Obligations.JobsStartEndAndComplete : Prop :=
  (∀ (s : State) (cluster : Nat) (copy : Bool) (j : Job), s.openingJob cluster copy = none → s.nextJob cluster copy = some j →
    let s1 := if j.stage = .queued then s.setJob cluster false { j with stage := .waiting s.now } else s
    ∃ t, exec (.jobStart cluster copy) s = .next t ∧
      let held (n : Nat) (x : Job) : Prop := x.tile ∈ (s.cluster n).accLock.map (·.1)
      (copy = true ∨ (j.rmask = 0 ∧ ¬held cluster j) → Begun s t cluster copy j) ∧
      (copy = false → j.rmask = 0 → held cluster j → t = s) ∧
      (copy = false → j.rmask ≠ 0 → s1.ringGroup cluster j = none → t = s1) ∧
      (copy = false → j.rmask ≠ 0 → ∀ l, s1.ringGroup cluster j = some l →
        (l.all (fun p => ringFits p.2 j) = true → (∃ p ∈ l, held p.1 p.2) → t = s1) ∧
        (l.all (fun p => ringFits p.2 j) = true → (∀ p ∈ l, ¬held p.1 p.2) →
          t = l.foldl (fun u p => u.beginJob p.1 false { p.2 with ring := ringOf l }) s1) ∧
        (l.all (fun p => ringFits p.2 j) = false →
          t = l.foldl (fun u p => u.setJob p.1 false { p.2 with stage := .ended 4 0 p.2.fl 0 }) s1))) ∧
  (∀ (s : State) (cluster : Nat) (copy : Bool) (j : Job), s.openingJob cluster copy = some j →
    ∃ t, exec (.jobStart cluster copy) s = .next t ∧ (j.pageWait = true → t = s) ∧ (j.pageWait = false → Begun s t cluster copy j)) ∧
  (∀ (s : State) (cluster : Nat) (copy : Bool) (j : Job), Begun s (s.beginJob cluster copy j) cluster copy j) ∧
  (∀ (s : State) (cluster since : Nat) (j : Job), s.nextJob cluster false = some j → j.stage = .waiting since →
    ∃ t, exec (.ringTimeout cluster) s = .next t ∧
      (s.now < since + 1250000 ∨ s.ringGroup cluster j ≠ none → t = s) ∧
      (since + 1250000 ≤ s.now → s.ringGroup cluster j = none → t = s.setJob cluster false { j with stage := .ended 3 0 j.fl 0 })) ∧
  (∀ (s : State) (cluster : Nat) (copy : Bool) (j : Job),
    (s.unit cluster copy).jobs.find? (fun x => decide (x.stage = .running) && x.seq = j.seq && !x.pageWait) = some j →
    j.pos < j.parts cluster copy →
    let t := s.jobPart cluster copy j.seq
    let r := (workOf s j none).part j cluster copy j.pos
    State.happen s (.jobPart cluster copy j.seq) = .next t ∧
      (∀ u, r = .ok u () → ∃ n w, 1 ≤ n ∧ n ≤ 8 ∧ runParts j cluster copy n j.pos (workOf s j none) = .at_ w (j.pos + n) ∧
        w.last.toNat / 8 = u.last.toNat / 8 ∧ t = w.s.setJob cluster copy { j with pos := j.pos + n, fl := w.fl, last := w.last, bs := w.bs }) ∧
      (r = .wait → t = s.setJob cluster copy { j with pageWait := true }) ∧
      (∀ u c d a, r = .fail u c d a → t = u.s.endWork cluster copy j c d u.fl a)) ∧
  (∀ (s : State) (cluster : Nat) (copy : Bool) (j : Job), s.runningJob cluster copy = some j → j.pageWait = false →
    let r := runParts j cluster copy (j.parts cluster copy - j.pos) j.pos (workOf s j none)
    ∃ t, exec (.jobWorkEnd cluster copy) s = .next t ∧
      (∀ u i, r = .at_ u i →
        t = u.s.endWork cluster copy j (j.codeAtEnd cluster copy).1 (j.codeAtEnd cluster copy).2 u.fl 0) ∧
      (∀ u i page, r = .waits u i page →
        t = u.s.setJob cluster copy { j with pos := i, fl := u.fl, last := u.last, bs := u.bs, pageWait := page }) ∧
      (∀ u c d a, r = .ends u c d a → t = u.s.endWork cluster copy j c d u.fl a)) ∧
  (∀ (s : State) (cluster : Nat) (copy : Bool) (j : Job) (code detail : Nat) (fl : BitVec 8) (faddr : Word),
    let ended : Job := { j with stage := .ended code detail fl faddr, pageWait := false, bs := [] }
    (code ≠ 6 ∨ copy = true → s.endWork cluster copy j code detail fl faddr = s.setJob cluster copy ended) ∧
    (code = 6 → copy = false → s.endWork cluster copy j code detail fl faddr = (s.clearTile cluster j.tile).setJob cluster copy ended) ∧
    (∀ i c, i < edgeOf cluster → c < edgeOf cluster → (s.clearTile cluster j.tile).accEl cluster j.tile i c = ⟨0, false⟩)) ∧
  (∀ (s : State) (cluster detail last : Nat) (copy : Bool) (j : Job), s.runningJob cluster copy = some j → j.pageWait = false →
    let scaled := j.fn = 5 ∧ bits j.kindWord 52 2 ≠ 0
    let located := (copy = true ∧ (detail = 4 ∨ (detail = 3 ∧ scaled))) ∨ (copy = false ∧ (detail = j.tile ∨ detail = 2 ∨ detail = 3))
    let r := runParts j cluster copy (j.parts cluster copy - j.pos) j.pos (workOf s j (some (last, detail)))
    ∃ t u, exec (.engineSoftError cluster copy detail last) s = .next t ∧ (¬located → t = s) ∧
      (∀ w i, r = .at_ w i → u = w.s.endWork cluster copy j 6 detail w.fl w.last) ∧
      (∀ w i page, r = .waits w i page →
        u = w.s.setJob cluster copy { j with pos := i, fl := w.fl, last := w.last, bs := w.bs, pageWait := page }) ∧
      (∀ w c d a, r = .ends w c d a → u = w.s.endWork cluster copy j c d w.fl a) ∧
      let met := (∃ w i, r = .at_ w i) ∨ ∃ w d a, r = .ends w 6 d a
      (located → ¬(detail = 3 ∧ met) → t = u) ∧
      (located → detail = 3 → met → ∃ n < 65536, (t.cluster cluster).scale = Tab.set (127 : Byte) (u.cluster cluster).scale n 255 ∧
        t = { u with free := u.free + 1, clusters := t.clusters } ∧ ∀ m, (t.cluster m).mx = (u.cluster m).mx ∧ (t.cluster m).acc = (u.cluster m).acc)) ∧
  (∀ (w : Work) (j : Job) (va : Word) (n v m d : Nat),
    (w.cut = some (0, d) → w.write j va n v = .fail w 6 d w.last) ∧
    (w.cut = some (m + 1, d) → w.write j va n v = { w with cut := some (m, d) }.writeNow j va n v) ∧
    (w.cut = none → w.write j va n v = w.writeNow j va n v)) ∧
  (∀ (s : State) (cluster : Nat) (copy : Bool) (j : Job) (rest : List Job) (code detail : Nat) (fl : BitVec 8) (faddr : Word),
    (s.unit cluster copy).jobs = j :: rest → j.stage = .ended code detail fl faddr → s.unanswered cluster copy j = false →
    j.pageWait = false → s.reachable j.line2 = true →
    (j.line2.rp = true → exec (.jobComplete cluster copy) s = .next (s.setJob cluster copy { j with pageWait := true })) ∧
    (j.line2.rp = false → ∃ t u, exec (.jobComplete cluster copy) s = .next t ∧
      Reported s u cluster copy j (statusOf s cluster copy j code detail fl) faddr ∧
      (t.unit cluster copy).jobs = rest ∧ (t.unit cluster copy).through_ = j.seq ∧
      let v := if j.mayPost = true then
          u.postEvent (clusterDie cluster) j.ckey j.tenant (bits (j.dws.getD 0 0) 40 8) (bits (j.dws.getD 0 0) 48 16) 1
        else u
      t.mem = v.mem ∧ t.empties = v.empties ∧ t.pkg.evqs = v.pkg.evqs ∧
      (∀ c k r, (t.slot c k).reg r = (u.slot c k).reg r ∧ (t.slot c k).isFull r = (u.slot c k).isFull r) ∧
      ∀ c k id, k < 16 → (v.slot c k).st = .parked → (v.slot c k).pend = .jwait id → t.jobStatus (v.slot c k).tenant id ≠ 0 →
        t.slot c k = (v.slot c k).wakeNext)) ∧
  (∀ (s : State) (d ck q tag status : Nat) (tenant : BitVec 8), q < 256 →
    let e := s.evq tenant.toNat q
    let t := s.postEvent d ck tenant q tag status
    let w0 := e.base + 16 * (e.tail % 2 ^ e.s)
    (e.valid = false → t = s) ∧
    (e.valid = true → s.wordFull w0 = true → t.mem = s.mem ∧ t.evq tenant.toNat q = { e with lost := (e.lost + 1) % 2 ^ 32 }) ∧
    (e.valid = true → s.wordFull w0 = false → w0 % 16 = 0 → t.evq tenant.toNat q = { e with tail := e.tail + 1 } ∧
      t.wordFull w0 = true ∧ t.wordFull (w0 + 8) = true ∧ t.wordAs ck w0 = BitVec.ofNat 64 ((clkE s d + clkL s d) / 2) ∧
      t.wordAs ck (w0 + 8) = BitVec.ofNat 64 (tag % 2 ^ 16 + 2 ^ 16 * status + 2 ^ 24 * d + 2 ^ 32 * tenant.toNat) ∧
      ∀ a, a / 16 ≠ w0 / 16 → t.byteAt a = s.byteAt a)) ∧
  (∀ (s : State) (cluster : Nat) (copy : Bool), ∃ t, exec (.jobPageIn cluster copy) s = .next t ∧
    (t.unit cluster copy).jobs = (s.unit cluster copy).jobs.map (fun j => { j with pageWait := false }) ∧ t.mem = s.mem ∧ t.slots = s.slots)

/-- R282, R250: `scls` raises F_SCALE off the scale server, F_ADDR, F_ALIGN and F_TARGET as it says, F_DATA for an uncorrectable error, and else
sends 64 codes (park 3), which it reads as a load does (R198); they come to stand in the scale store of every named engine of the tile, and
the slot goes on.
Where it rests on readings or choices of the model, not on a rule: log entry 41. -/
def Obligations.ScaleCodesReachTheEngines : Prop :=
  (∀ (s : State) (a b : Reg) (o : Nat), PassesG s false [a, b] none → LocalOffset s.curCore (s.src a) s.curCore o →
    let w := s.src b
    let named (n : Nat) : Prop := ∃ i j, i < 4 ∧ j < 8 ∧ bit w i = true ∧ n = 8 * (4 * tileOf s.curCore + i) + j
    let bad (i : Nat) : Bool := s.loadBad s.curCore s.curSlot (2 ^ 56 + s.curCore * 2 ^ 18 + o + 8 * i) 8
    ∃ t, exec (.scls a b) s = .next t ∧
      (¬ScaleServer s w → Stops s t 18 0 0) ∧
      (ScaleServer s w → o % 64 ≠ 0 → Stops s t 6 (s.src a) 0) ∧
      (ScaleServer s w → o % 64 = 0 → (∃ n, named n ∧ (s.core n).owner ≠ (s.core s.curCore).owner) →
        ∃ n, named n ∧ (s.core n).owner ≠ (s.core s.curCore).owner ∧ Stops s t 12 0 (BitVec.ofNat 64 n)) ∧
      (ScaleServer s w → o % 64 = 0 → (∀ n, named n → (s.core n).owner = (s.core s.curCore).owner) →
        (∀ i < 8, bad i = true → (∀ j < i, bad j = false) → Stops s t 27 (s.src a + BitVec.ofNat 64 (8 * i)) 0) ∧
        ((∀ i < 8, bad i = false) → Parked (s.touch s.curCore s.curSlot (2 ^ 56 + s.curCore * 2 ^ 18 + o) 64) t 3 (.scls (bits w 0 4) (bits w 16 10)
          ((List.range 64).map (fun i => seen s (s.cipherKey s.curCore) (2 ^ 56 + s.curCore * 2 ^ 18 + o + i)))) ∧ t.me.popDue = s.pops [a, b]))) ∧
  (∀ (s : State) (a b : Reg), PassesG s false [a, b] none → ScaleServer s (s.src b) → (∀ o, ¬LocalOffset s.curCore (s.src a) s.curCore o) →
    ∃ t, exec (.scls a b) s = .next t ∧ Stops s t 5 (s.src a) 0) ∧
  (∀ (s : State) (c k mask block : Nat) (codes : List Byte), (s.slot c k).st = .parked → (s.slot c k).pend = .scls mask block codes →
    ∃ t, exec (.scaleStoreWrite c k) s = .next t ∧ (t.slot c k) = (s.slot c k).wakeNext ∧ t.mem = s.mem ∧
      ∀ i n, i < 4 → t.scaleCodes (4 * tileOf c + i) n 1 =
        if mask.testBit i = true ∧ 64 * block ≤ n ∧ n < 64 * block + 64 then [codes.getD (n - 64 * block) 127]
        else s.scaleCodes (4 * tileOf c + i) n 1)

/-- R252, R255, R280: `accld` and `accst` wait until the slot's accesses are performed, raise F_ALIGN for an image that is not 64-byte aligned,
go through its pages in order (an absent one is waited for, one that no TLB entry covers parks the slot for its walk, one that is denied
or of another type faults), raise F_CAP with the code of the check that a capability fails, and else take the tile's lock (park 5) or wait
for it (park 7). The transfer is performed whole: every element and mark of the tile, or every byte of the image and no other; then the lock is
free and the slot goes on. An erroneous word of an image that is read raises F_DATA (R298), and a page in a package that has left the pod
F_ADDR (R355).
Where it rests on readings or choices of the model, not on a rule: log entries 16, 53, 65. -/
def Obligations.AccumulatorImagesMoveWhole : Prop :=
  (∀ (s : State) (i : Instr) (load : Bool) (a b : Reg) (tile : Nat), imageOf i = some (load, a, b, tile) → PassesG s false [a, b] none →
    let va := s.src a
    let cluster := bits (s.src b) 23 9
    let pages := imagePages va (8 * edgeOf cluster * edgeOf cluster + edgeOf cluster * edgeOf cluster / 8)
    ∃ t, exec i s = .next t ∧
      (s.me.buf ≠ [] → Parked s t 4 .retry) ∧
      (s.me.buf = [] → s.quiet s.curCore s.curSlot = false → Parked s t 3 .retry) ∧
      (s.me.buf = [] → s.quiet s.curCore s.curSlot = true → va.toNat % 64 ≠ 0 → Stops s t 6 va 0) ∧
      (s.me.buf = [] → s.quiet s.curCore s.curSlot = true → va.toNat % 64 = 0 →
        (∀ pre p post ls, pages = pre ++ p :: post → ImageLeads s load pre ls →
          (NoRegion p → Stops s t 5 p 0) ∧
          (¬NoRegion p → ¬Translated p → Stops s t 10 p 0) ∧
          (Translated p → ∀ l, leads s p load (!load) = .ok l → plainLoc l = false → Stops s t 10 p (BitVec.ofNat 64 l.ty.code)) ∧
          (Translated p → ∀ f, leads s p load (!load) = .fault f → Stops s t f.num p (if f = .perm ∧ load = false then 1 else 0)) ∧
          (Translated p → leads s p load (!load) = .walk →
            let absent := s.resolveVa (dieOf s.curCore) s.me.tenant p s.me.priv load (!load) = .absent
            (absent → Parked s t 3 .retry) ∧ (¬absent → Parked s t 3 (walkOf s p (.image (!load)) load (!load))))) ∧
        (∀ ls, ImageLeads s load pages ls →
          let check := if 383 < cluster then some 2 else
            s.capCheck cluster (s.src b) (decide (bits (s.src b) 6 17 = 0)) s.me.tenant (s.core s.curCore).owner 2
          (∀ code, check = some code → Stops s t 17 0 (BitVec.ofNat 64 code)) ∧
          (check = none → load = false → ∀ l, ls.find? (·.rp) = some l → Parked s t 3 (.collapse (l.key / 2 ^ 16))) ∧
          (check = none → (load = false → ∀ l ∈ ls, l.rp = false) →
            (s.tileLocked cluster tile = true → Parked s t 7 (.acc load va ls cluster tile false) ∧ t.me.popDue = s.pops [a, b]) ∧
            (s.tileLocked cluster tile = false → t.me.st = .parked ∧ t.me.park = 5 ∧ t.me.pend = .acc load va ls cluster tile true ∧
              t.me.popDue = s.pops [a, b] ∧ t.tileLocked cluster tile = true ∧ t.mem = s.mem))))) ∧
  (∀ (s : State) (c k cluster tile : Nat) (load running : Bool) (va : Word) (pages : List Loc), (s.slot c k).st = .parked →
    (s.slot c k).pend = .acc load va pages cluster tile running → (running = false → s.tileLocked cluster tile = false) →
    let size := 8 * edgeOf cluster * edgeOf cluster + edgeOf cluster * edgeOf cluster / 8
    let edge := edgeOf cluster
    let key (n : Nat) : Nat := (imageAt va pages n).1
    let bad (n : Nat) : Bool := s.badWord (key (8 * n))
    let halves := (imagePages va size).zip pages
    let kept := ∀ p ∈ halves, s.lostPlace p.2 p.1 = none
    ∃ t, exec (.accLockRelease c k) s = .next t ∧
      (∀ pre p post f, halves = pre ++ p :: post → (∀ q ∈ pre, s.lostPlace q.2 q.1 = none) → s.lostPlace p.2 p.1 = some f →
        (t.slot c k).st = .stopped ∧ bits (t.slot c k).cause 0 8 = f.1.num ∧ (t.slot c k).faddr = f.2.1 ∧ (t.slot c k).fault = f.2.2 ∧
          t.mem = s.mem) ∧
      (kept → load = true → ∀ n < size / 8, bad n = true → (∀ m < n, bad m = false) →
        (t.slot c k).st = .stopped ∧ bits (t.slot c k).cause 0 8 = 27 ∧ (t.slot c k).faddr = va + BitVec.ofNat 64 (8 * n) ∧ t.mem = s.mem) ∧
      (kept → load = true → (∀ n < size / 8, bad n = false) → t.mem = s.mem ∧ (t.slot c k) = (s.slot c k).wakeNext ∧
        ∀ i j, i < edge → j < edge →
        let n := edge * i + j
        (t.accEl cluster tile i j).v = s.wordAs (s.cipherKey c) (key (8 * n)) ∧
        (t.accEl cluster tile i j).mark = (s.memLoad (s.cipherKey c) (key (8 * edge * edge + n / 8)) 1).getLsbD (n % 8)) ∧
      (kept → load = false → (t.slot c k).pc = (s.slot c k).wakeNext.pc ∧ (t.slot c k).st = .ready ∧
        (∀ i j, t.accEl cluster tile i j = s.accEl cluster tile i j) ∧
        (va.toNat % 64 = 0 → (∀ l ∈ pages, l.key % 8 = 0) → (∀ m n, m < size → n < size → key m = key n → m = n) →
          (∀ n < size,
            let b := byteOf (t.wordAs (s.cipherKey c) (key n)) (key n % 8)
            (n < 8 * edge * edge → b = byteOf (s.accEl cluster tile (n / 8 / edge) (n / 8 % edge)).v (n % 8)) ∧
            (8 * edge * edge ≤ n → ∀ i < 8, b.getLsbD i =
              let e := 8 * (n - 8 * edge * edge) + i
              (s.accEl cluster tile (e / edge) (e % edge)).mark) ∧
            ((imageAt va pages n).2.ty = .sync → t.wordFull (key n) = true)) ∧
          ∀ a, (∀ n < size, key n / 8 ≠ a / 8) → t.byteAt a = s.byteAt a)) ∧
      (∀ e ∈ (t.cluster cluster).accLock, ¬(e.1 = tile ∧ e.2 = (c, k))))

/-- R268, R271, R283, Table 15.1: `xenq` waits until its accesses are performed, then checks its record, its queue, the origin core, the room in
the queue and the window's entry, in that order; the token joins the tail of its queue, and the entry is ARMED with the token's sequence
number, position and gate.
R271, R284: `xret` waits until its accesses are performed, then checks its result word, the window's owner and tenant, the entry, and unless
it is LATE its row; the result sets out, and the slot waits with park 3 for the window's answer.
Where it rests on readings or choices of the model, not on a rule: log entries 13, 17, 18, 19, 67. -/
def Obligations.TokensAndResultsSetOut : Prop :=
  (∀ (s : State) (a b : Reg), PassesG s false [a, b] none →
      ∃ t, exec (.xenq a b) s = .next t ∧ WaitsFirst s t ∧
        (Settled s → (s.src a).toNat % 32 ≠ 0 → (∃ o, LocalOffset s.curCore (s.src a) s.curCore o) → Stops s t 6 (s.src a) 0) ∧
        (Settled s → ∀ key, (s.src a).toNat % 32 = 0 → OwnBytes s (s.src a) 32 key →
          let l := ownBytes s key 32
          let qw := s.src b
          let d := bits qw 12 3
          let n := bits qw 0 12
          let q := s.xq d n
          let o := tokOrigin l
          let formed := l.getD 31 0 = 0 ∧ o ≤ 3071 ∧ tokRslot l < 1024 ∧ tokInst l < 8
          (¬formed → Stops s t 19 (s.src a) 0) ∧
          (formed → ¬QueueOpen s qw q → Stops s t 20 0 qw) ∧
          (formed → QueueOpen s qw q → (s.core o).owner ≠ (s.core s.curCore).owner → Stops s t 12 0 (BitVec.ofNat 64 o)) ∧
          (formed → QueueOpen s qw q → (s.core o).owner = (s.core s.curCore).owner →
            ((s.core o).health = .retired → Stops s t 30 0 (BitVec.ofNat 64 o)) ∧
            ((s.core o).health = .ok → ∀ p, TokenPlace s d q p →
              (p = none → Stops s t 22 0 qw) ∧
              (∀ onDie, p = some onDie →
                (¬(∃ w, (s.core o).win = some w ∧ EntryTakes s w o l) →
                  Stops s t 21 0 (BitVec.ofNat 64 (o + 2 ^ 12 * tokRslot l + 2 ^ 22 * tokInst l))) ∧
                (∀ w, (s.core o).win = some w → EntryTakes s w o l →
                  GoesOn s t [a, b] ∧
                  (t.xq d n).toks = q.toks ++ [⟨l, s.now * 4 / 5, s.now⟩] ∧ (t.xq d n).onDie = q.onDie + onDie.toNat ∧
                  (onDie = true → WinFits w → w.k ≤ 8 →
                    let st := s.winWord w o (tokRslot l) 0x10
                    let st' := t.winWord w o (tokRslot l) 0x10
                    bits st' 0 2 = 1 ∧ bits st' 32 32 = tokPos l ∧
                    bits st' 8 8 = (if bits st 0 2 = 0 then 2 ^ tokInst l else bits st 8 8 + 2 ^ tokInst l) ∧
                    bits st' 16 16 = (if bits st 0 2 = 0 then 0 else bits st 16 16) ∧
                    t.winWord w o (tokRslot l) 8 = BitVec.ofNat 64 (tokSeq l) ∧ t.winGate w o (tokRslot l) (tokInst l) = tokGate l ∧
                    (∀ x, x / 64 ≠ w.key o (tokRslot l) 0 / 64 → t.byteAt x = s.byteAt x)))))))) ∧
  (∀ (s : State) (a b : Reg), PassesG s false [a, b] none →
      let w := s.src b
      let o := bits w 0 12
      let named := bits w 26 38 = 0 ∧ o ≤ 3071
      let ours := (s.core o).owner = (s.core s.curCore).owner ∧ ((s.core o).win ≠ none → (s.core o).winTenant = s.me.tenant)
      ∃ t, exec (.xret a b) s = .next t ∧ WaitsFirst s t ∧
        (Settled s →
          (¬named → Stops s t 19 0 0) ∧
          (named → ¬ours → Stops s t 12 0 (BitVec.ofNat 64 o)) ∧
          (named → ours → (∀ win, (s.core o).win = some win → win.n ≤ bits w 12 10 ∨ win.k ≤ bits w 22 3) → Stops s t 19 0 0) ∧
          (named → ours → ∀ win, (s.core o).win = some win → bits w 12 10 < win.n → bits w 22 3 < win.k →
            let sent (row : Option (List Lane)) : Prop :=
              t.me.st = .parked ∧ t.me.park = 3 ∧ t.me.pend = .xret o ∧ t.me.pc = s.me.pc ∧ t.me.g = s.me.g ∧ t.me.popDue = s.pops [a, b] ∧
              t.pkg = { s.pkg with results := s.pkg.results ++ [⟨o, bits w 12 10, bits w 22 3, row, some (s.curCore, s.curSlot)⟩] } ∧
              t = { s with slots := t.slots, pkg := t.pkg } ∧ ∀ c k, s.other c k → t.slot c k = s.slot c k
            (bit w 25 = true → sent none) ∧
            (bit w 25 = false → (s.src a).toNat % 4 ≠ 0 → Stops s t 6 (s.src a) 0) ∧
            (bit w 25 = false → (s.src a).toNat % 4 = 0 → ∀ key, 1 ≤ win.w → OwnBytes s (s.src a) (4 * win.w) key →
              sent (some ((List.range win.w).map (fun i => (s.memLoad (s.cipherKey s.curCore) (key + 4 * i) 4).truncate 32)))))))

/-- R261, R270, R285, Tables 15.2, 16.6 and 16.7: `xcfg` waits until its accesses are performed, raises F_ALIGN, and else parks with park 3 with
what it has read, until its outcome is in effect: it stands in `k.fault`, and the slot goes on. A window's record configures the window of
its own core, with every entry FREE, every counter zero; a queue's record configures the queue for its tenant and capsule; and nothing is
configured with another outcome than 0. R286: `xstat` parks with park 3 for its answer, the status word of a queue that is assigned to its
tenant or of its core's window, and 0 for any other selector. Either raises F_DATA where it would take the state of an entry of the core's window
from a word with an uncorrectable error (R298).
Where it rests on readings or choices of the model, not on a rule: log entries 16, 17, 18, 67. -/
def Obligations.QueuesAndWindowsAreConfigured : Prop :=
  (∀ (s : State) (a b : Reg), PassesG s false [a, b] none →
    let sel := s.src b
    let size := if bit sel 63 = true then 8 else 64
    ∃ t, exec (.xcfg a b) s = .next t ∧ WaitsFirst s t ∧
      (Settled s → (s.src a).toNat % size ≠ 0 → Stops s t 6 (s.src a) 0) ∧
      (Settled s → (s.src a).toNat % size = 0 → ∀ key, OwnBytes s (s.src a) size key →
        Parked s t 3 (.asked (.xcfg sel (ownWords s key (size / 8)))) ∧ t.me.popDue = s.pops [a, b] ∧
        ∃ u, State.happen t (.reply s.curCore s.curSlot) = .next u ∧
          ((∀ w e, ¬BadEntry s s.curCore sel w e) → u.me.st = .ready ∧ u.me.pc = s.me.advance.pc))) ∧
  (∀ (s : State) (c k : Nat) (sel : Word) (l : List Word), (s.slot c k).st = .parked → (s.slot c k).pend = .asked (.xcfg sel l) →
    let x := s.slot c k
    ∃ t, State.happen s (.reply c k) = .next t ∧
      (∀ w e, windowOf (l.getD 0 0) ≠ none → BadEntry s c sel w e →
        Faulted s t c k 27 (BitVec.ofNat 64 (0xFFFFFF0000000000 + w.base + e * w.stride + 16)) 0 false) ∧
      (bit sel 63 = true → windowOf (l.getD 0 0) = none ∨ (∀ w e, ¬BadEntry s c sel w e) →
        let r := l.getD 0 0
        let code := if windowOf r = none ∨ bits sel 0 63 ≠ 0 ∨ isCompute c = false then 2 else if 0 < s.winActive c then 1 else 0
        (k < 16 → t.slot c k = { ({ x with fault := BitVec.ofNat 64 code } : Slot).wakeNext with resv := (t.slot c k).resv }) ∧
        (code ≠ 0 → t.mem = s.mem ∧ (t.core c).win = (s.core c).win) ∧
        (code = 0 → ∀ w, windowOf r = some w →
          (t.core c).win = some w ∧ (t.core c).winPtr = 0 ∧ (t.core c).winErr = 0 ∧ (t.core c).winFlags = 0 ∧ (t.core c).winTenant = x.tenant ∧
          ∀ e < w.n, bits (t.winWord w c e 0x10) 0 2 = 0 ∧ t.wordFull (w.key c e 0) = false)) ∧
      (bit sel 63 = false →
        let q := s.xq (bits sel 12 3) (bits sel 0 12)
        let h := (x.kern.map (·.handle)).getD 0
        let spill := s.areaPages c x (l.getD 3 0) (32 * bits (l.getD 4 0) 0 25)
        let fire := s.areaPages c x (l.getD 5 0) ((bits (l.getD 0 0) 47 4 + 1) * fireBytes (bits (l.getD 0 0) 16 12 + 1))
        let code :=
          if 2 ^ 15 ≤ sel.toNat then 2
          else if q.assigned = false ∨ q.xten ≠ x.tenant ∨ (q.handle ≠ h ∧ (bit (q.dw 0) 30 = true ∨ q.toks ≠ [])) then 3
          else if queueRecordOk l = false ∨ s.entryKernel x (l.getD 2 0) = none then 2
          else if (q.toks ≠ [] ∨ q.busy ≠ []) ∧ sameFixed l q.cfg = false then 1
          else if spill = none ∨ fire = none then 4 else 0
        t.slot c k = ({ x with fault := BitVec.ofNat 64 code } : Slot).wakeNext ∧ t.mem = s.mem ∧
        (code ≠ 0 → t.dies = s.dies) ∧
        (code = 0 → ∀ sp fp, spill = some sp → fire = some fp →
          let q' := t.xq (bits sel 12 3) (bits sel 0 12)
          q'.cfg = l ∧ q'.tenant = x.tenant ∧ q'.handle = h ∧ q'.ctx = x.ctx ∧ q'.ckey = s.cipherKey c ∧ q'.spillPa = sp ∧
          q'.firePa = fp ∧ q'.toks = q.toks ∧ q'.busy = q.busy ∧ q'.onDie = q.onDie ∧
          ∀ d n, d ≠ bits sel 12 3 ∨ n ≠ bits sel 0 12 → t.xq d n = s.xq d n))) ∧
  (∀ (s : State) (d a : Reg), PassesG s false [a] (some d) →
    ∃ t u v, exec (.xstat d a) s = .next t ∧ Parked s t 3 (.asked (.xstat d (s.src a))) ∧ t.me.popDue = s.pops [a] ∧
      State.happen t (.reply s.curCore s.curSlot) = .next u ∧
      ((∀ w e, ¬BadEntry s s.curCore (s.src a) w e) → Answered t u s.curCore s.curSlot d v)) ∧
  (∀ (s : State) (c k : Nat) (d : Reg) (sel : Word), (s.slot c k).st = .parked → (s.slot c k).pend = .asked (.xstat d sel) →
    let q := s.xq (bits sel 12 3) (bits sel 0 12)
    let v : Word :=
      if bit sel 63 = true then (if bits sel 0 63 = 0 ∧ isCompute c = true then windowWord s c else 0)
      else if sel.toNat < 2 ^ 15 ∧ q.assigned = true ∧ q.xten = (s.slot c k).tenant then queueWord s q else 0
    ∃ t, State.happen s (.reply c k) = .next t ∧ ((∀ w e, ¬BadEntry s c sel w e) → Answered s t c k d v) ∧
      ∀ w e, BadEntry s c sel w e → Faulted s t c k 27 (BitVec.ofNat 64 (0xFFFFFF0000000000 + w.base + e * w.stride + 16)) 0 false)

/-- R262 to R267: a queue whose head has reached the age limit is aged, and at twice the limit promoted. A firing decision of a cycle in which
no queue of the die was configured picks the queue that comes before every other that is eligible; tokens past their deadline leave as
LATE results, at most B others are fired: they are written as a fire record to the lowest fire buffer that is not busy, and an arrival
with the buffer's address, the count, the queue's number and the deadline's midpoint in g1 to g4 is delivered.
R271, R272, R284: a result that reaches its window is recorded if its entry is ARMED, its instance is recorded and has no result; else it is
discarded and counted. An entry with every result is COMPLETE; the entries at the pointer are combined and released in order. The slot
whose `xret` waited goes on, or takes F_DEAD where the window's core has been retired.
Where it rests on readings or choices of the model, not on a rule: log entries 17, 18, 19, 67. -/
def Obligations.QueuesFireAndResultsReturn : Prop :=
  ((∀ (s : State) (d n : Nat),
      let q := s.xq d n
      let reached (k : Nat) : Prop := q.toks ≠ [] ∧ k * bits (q.dw 1) 0 32 ≤ q.headAge (s.now * 4 / 5)
      (∃ t, exec (.ageLimitReached d n) s = .next t ∧ (¬reached 1 → t = s) ∧
        (reached 1 → t.xq d n = { q with aged := true } ∧ (∀ d' n', d' ≠ d ∨ n' ≠ n → t.xq d' n' = s.xq d' n') ∧ t = { s with dies := t.dies })) ∧
      (∃ t, exec (.promotion d n) s = .next t ∧ (¬reached 2 → t = s) ∧
        (reached 2 → t.xq d n = { q with promoted := true } ∧ (∀ d' n', d' ≠ d ∨ n' ≠ n → t.xq d' n' = s.xq d' n') ∧ t = { s with dies := t.dies }))) ∧
    (∀ (s : State) (d : Nat), Tab.wf XQueue.reset (s.die d).xq →
      ∃ t, exec (.firingDecision d) s = .next t ∧
        ((s.die d).cfgCyc = s.now + 1 ∨ (∀ p ∈ (s.die d).xq, p.2.eligible s.now = false) → t = s) ∧
        ((s.die d).cfgCyc ≠ s.now + 1 → ∀ n q, (n, q) ∈ (s.die d).xq → q.eligible s.now = true →
          (∀ p ∈ (s.die d).xq, p.2.eligible s.now = true → p ≠ (n, q) → Before (n, q) p) →
          let r := takeTokens (s.deadlineE d) (bits (q.dw 0) 16 12 + 1) (q.toks.filter (fun x => decide (x.at_ < s.now)))
          let late := r.2.1.map (fun x => (⟨tokOrigin x.bytes, tokRslot x.bytes, tokInst x.bytes, none, none⟩ : ResultFlight))
          (t.xq d n).toks = r.2.2 ++ q.toks.filter (fun x => !decide (x.at_ < s.now)) ∧
          t.pkg.results = s.pkg.results ++ late ∧ (r.1 = [] → t.mem = s.mem ∧ (t.xq d n).busy = q.busy) ∧
          (r.1 ≠ [] → ∀ buf, buf < bits (q.dw 0) 47 4 + 1 → buf ∉ q.busy → (∀ i < buf, i ∈ q.busy) →
            let size := fireBytes (bits (q.dw 0) 16 12 + 1)
            let spot (i : Nat) : Nat := areaAt q.firePa (q.dw 5).toNat (buf * size + i)
            let bytes := fireRecord (bits (q.dw 0) 16 12 + 1) (bits (q.dw 7) 0 21) r.1
            let regs := [q.dw 5 + BitVec.ofNat 64 (buf * size), BitVec.ofNat 64 r.1.length, BitVec.ofNat 64 (4096 * d + n),
              BitVec.ofNat 64 (s.midpoint d)]
            (t.xq d n).busy = buf :: q.busy ∧
            ((∀ i j, i < size → j < size → spot i = spot j → i = j) → (∀ p ∈ q.firePa, p % 8 = 0) → ∀ i < bytes.length, i < size →
              byteOf (t.wordAs q.ckey (spot i)) (spot i % 8) = bytes.getD i 0) ∧
            ((∀ m ∈ s.rpMappings, ∀ i < size, meets m.2 (spot i / 2 ^ 16 * 2 ^ 16) (2 ^ 16) = false) →
              ∀ x, (∀ i < size, x / 8 ≠ spot i / 8) → t.byteAt x = s.byteAt x) ∧
            ∀ pc kn, (s.capsule? q.handle).bind (·.entry q.entry) = some (pc, kn) →
              (bit (q.dw 0) 31 = false → ∃ a, (t.core (bits (q.dw 0) 32 12)).links = (s.core (bits (q.dw 0) 32 12)).links ++ [a] ∧
                a.src = .fire ∧ a.pc = pc ∧ a.tenant = q.tenant ∧ a.ctx = q.ctx ∧ a.task.fire = some ⟨d, n, buf⟩ ∧
                a.regs = (List.range 4).map (fun i => (BitVec.ofNat 4 (i + 1), regs.getD i 0, true))) ∧
              (bit (q.dw 0) 31 = true → ∃ f, t.pkg.recs = s.pkg.recs ++ [f] ∧ f.task.pc = pc ∧ f.task.ctl = q.dw 6 ∧ f.task.tenant = q.tenant ∧
                f.task.regs = regs ++ [0, 0, 0, 0] ∧ f.task.full = 0x0F ∧ f.task.fire = some ⟨d, n, buf⟩))))) ∧
  ((∀ (s : State) (idx : Nat) (r : ResultFlight), s.pkg.results[idx]? = some r → (s.core r.origin).health ≠ .stopped →
      ∃ t, exec (.windowResult idx) s = .next t ∧ t.pkg.results = s.pkg.results.eraseIdx idx ∧
        ((s.core r.origin).health = .retired → t.mem = s.mem ∧
          ∀ c k, r.issuer = some (c, k) → (s.slot c k).st = .parked → (∀ i, (s.slot c k).pend = .xret i →
            (t.slot c k).st = .stopped ∧ bits (t.slot c k).cause 0 8 = 30 ∧ (t.slot c k).fault = BitVec.ofNat 64 r.origin)) ∧
        ((s.core r.origin).health = .ok →
          let taken (w : WinCfg) : Prop :=
            let st := s.winWord w r.origin r.rslot 0x10
            r.rslot < w.n ∧ r.inst < w.k ∧ s.winBad w r.origin r.rslot = false ∧ bits st 0 2 = 1 ∧ bit st (8 + r.inst) = true ∧ bit st (16 + r.inst) = false
          (∀ c k i, r.issuer = some (c, k) → (s.slot c k).st = .parked → (s.slot c k).pend = .xret i → (s.slot c k).resv = none → k < 16 →
            (t.slot c k).st = .ready ∧ (t.slot c k).pc = (s.slot c k).wakeNext.pc) ∧
          ((∀ w, (s.core r.origin).win = some w → ¬taken w) → t.mem = s.mem ∧
            (t.core r.origin).winErr = min (2 ^ 32 - 1) ((s.core r.origin).winErr + 1)) ∧
          (∀ w, (s.core r.origin).win = some w → taken w → WinFits w → w.k ≤ 8 → 1 ≤ w.n →
            let st := s.winWord w r.origin r.rslot 0x10
            ((∃ i < w.k, i ≠ r.inst ∧ bit st (16 + i) = false) → bits (s.winWord w r.origin (s.core r.origin).winPtr 0x10) 0 2 ≠ 2 →
              (s.core r.origin).winPtr < w.n →
              let st' := t.winWord w r.origin r.rslot 0x10
              (∀ i < 64, bit st' i = (bit st i || decide (i = 16 + r.inst) || (decide (i = 24 + r.inst) && r.row.isNone))) ∧
              (t.core r.origin).winErr = (s.core r.origin).winErr ∧
              ∀ l, r.row = some l → ∀ j < w.w,
                (t.memLoad (s.cipherKey r.origin) (w.key r.origin r.rslot (0x40 + 4 * w.w * (1 + r.inst) + 4 * j)) 4).toNat = (l.getD j 0).toNat)))) ∧
    (∀ (s : State) (w : WinCfg) (c e : Nat), WinFits w → e < w.n → w.k ≤ 8 →
      let st := s.winWord w c e 0x10
      let t := s.releaseEntry w c e
      bits (t.winWord w c e 0x10) 0 2 = 0 ∧
      t.winWord w c e 0 = BitVec.ofNat 64 (bits st 32 32 + ((List.range 8).filter (fun i => bit st (24 + i))).length * 2 ^ 32) ∧
      t.wordFull (w.key c e 0) = true ∧ (t.core c).winPtr = (e + 1) % w.n ∧
      (∀ i, (t.core c).winFlags.getLsbD i = true ↔
        (s.core c).winFlags.getLsbD i = true ∨ ∃ j < w.w, (combined s w c e j w.k).2.getLsbD i = true) ∧
      ∀ j < w.w, (t.memLoad (s.cipherKey c) (w.key c e (0x40 + 4 * j)) 4).toNat % 2 ^ 32 = (combined s w c e j w.k).1 % 2 ^ 32))

/-- R323, R331 to R334: `nop`; `trap` and `bkpt` take F_TRAP and F_BKPT; `anchor` takes F_BKPT where its number is in the breakpoint set of the
context, and else goes on; `halt` clears a set notice bit, or idles with park 8; `eret` resumes the slot that `k.tgt` selects, if it is
STOPPED, and the issuing slot loses its reservation; `tlbinv` waits for earlier accesses and removes the entries that its kind covers.
R296 to R298, R333, Table 18.4: `sysc` raises F_ILLEGAL off compute cores, F_DATA where a register that its packet carries has an
uncorrectable error, and else parks with park 10; once the slot's accesses are performed the packet's service answers NOSERVICE for an
unknown number, UNREACHABLE where a range is not reachable, DENIED where a word of one has an error, and else what it finds; g1 to g3 take
the answer, full, and the slot goes on.
Where it rests on readings or choices of the model, not on a rule: log entries 22, 23, 79. -/
def Obligations.SystemInstructionsAndCalls : Prop :=
  ((∀ s : State, PassesG s false [] none → ∃ t, exec .nop s = .next t ∧ WentNext s t []) ∧
    (∀ s : State, PassesG s false [] none → ∃ t, exec .trap s = .next t ∧ Stops s t 28 0 ((encode .trap).zeroExtend 64)) ∧
    (∀ s : State, PassesG s false [] none → ∃ t, exec .bkpt s = .next t ∧ Stops s t 29 0 ((encode .bkpt).zeroExtend 64)) ∧
    (∀ s : State, PassesG s false [] none →
      let listed := ∃ r n, s.me.kern = some r ∧ s.anchorAt s.me s.me.pc = some n ∧
        n ∈ (Tab.get Ctx.reset s.pkg.ctxs s.me.ctx).bkpts
      ∃ t, exec .anchor s = .next t ∧ (listed → Stops s t 29 0 ((encode .anchor).zeroExtend 64)) ∧ (¬listed → WentNext s t [])) ∧
    (∀ s : State, PassesP s [] none → ∃ t, exec .halt s = .next t ∧
      (s.me.notice = true → t.me = { s.me.advance with notice := false } ∧ OnlyMe s t) ∧ (s.me.notice = false → Parked s t 8 .idle)) ∧
    (∀ s : State, PassesP s [] none →
      let c := s.me.tgtCore
      let k := s.me.tgtSlot
      ∃ t, exec .eret s = .next t ∧
        (¬ReachesCore s c → Stops s t 12 0 (BitVec.ofNat 64 c)) ∧
        (ReachesCore s c → (s.slot c k).st ≠ .stopped → t.me = { s.me.advance with resv := none } ∧ OnlyMe s t) ∧
        (ReachesCore s c → s.other c k → (s.slot c k).st = .stopped →
          t.me = { s.me.advance with resv := none } ∧ t = { s with slots := t.slots, cores := t.cores } ∧ Regrouped s t c ∧
          t.slot c k = resumed (s.slot c k) ∧
          ∀ c' k', s.other c' k' → slotKey c' k' ≠ slotKey c k → t.slot c' k' = s.slot c' k')) ∧
    (∀ (s : State) (a b : Reg), PassesP s [a, b] none →
      let out (e : TlbEnt) : Prop := Covered (s.src b) (s.src a) (BitVec.ofNat 8 s.me.tgtIndex) e
      ∃ t, exec (.tlbinv a b) s = .next t ∧
        (s.quiet s.curCore s.curSlot = false → t = s) ∧
        (s.quiet s.curCore s.curSlot = true →
          (∀ c e, (e ∈ (t.core c).itlb ↔ e ∈ (s.core c).itlb ∧ ¬out e) ∧ (e ∈ (t.core c).dtlb ↔ e ∈ (s.core c).dtlb ∧ ¬out e)) ∧
          (∀ c e, e ∈ (t.cluster c).tlb2 ↔ e ∈ (s.cluster c).tlb2 ∧ ¬out e) ∧ t.mem = s.mem ∧ t.pkg = s.pkg ∧
          (s.me.st = .ready → s.curSlot < 16 → t.me.pc = s.me.advance.pc ∧ t.me.g = s.me.g) ∧
          ∀ c k, k < 16 → s.other c k → (s.slot c k).st = .parked → ∀ va acc rd wr x y z, (s.slot c k).pend = .walk va acc rd wr x y z →
            (s.src b).toNat ≤ 3 → (t.slot c k).st = .ready ∧ (t.slot c k).pc = (s.slot c k).pc))) ∧
  ((∀ (s : State) (a : Reg), isCompute s.curCore = false →
      ∃ t, exec (.sysc a) s = .next t ∧ Stops s t 1 0 ((encode (.sysc a)).zeroExtend 64)) ∧
    (∀ (s : State) (a : Reg), isCompute s.curCore = true → PassesG s false [a] none →
      ∃ t, exec (.sysc a) s = .next t ∧
        (CarriesWhole s.me 15 → Parked s t 10 (.sysc (s.src a) none) ∧ t.me.popDue = s.pops [a]) ∧
        ∀ i, FirstBadG s.me 15 i → Stops s t 27 0 (BitVec.ofNat 64 (256 + i))) ∧
    (∀ (s : State) (c k : Nat) (n : Word), isCompute c = true → (s.slot c k).st = .parked → (s.slot c k).pend = .sysc n none →
      ∃ t, exec (.syscallPacket c k) s = .next t ∧
        (s.quiet c k = false → t = s) ∧
        (s.quiet c k = true → Config.serviceKnown n = false →
          ∃ v2 v3, t.slot c k = { s.slot c k with pend := .sysc n (some (2, v2, v3)) } ∧ t.mem = s.mem) ∧
        (s.quiet c k = true → Config.serviceKnown n = true →
          (s.ptrReach c (s.slot c k) n = .absent → t = s) ∧
          (s.ptrReach c (s.slot c k) n = .unreachable →
            ∃ v2 v3, t.slot c k = { s.slot c k with pend := .sysc n (some (1, v2, v3)) } ∧ t.mem = s.mem) ∧
          (s.ptrReach c (s.slot c k) n = .error →
            ∃ v2 v3, t.slot c k = { s.slot c k with pend := .sysc n (some (3, v2, v3)) } ∧ t.mem = s.mem) ∧
          (s.ptrReach c (s.slot c k) n = .ok → (Config.service s.free n (s.slot c k).tenant).1 ≠ 0 →
            t.slot c k = { s.slot c k with pend := .sysc n (some (Config.service s.free n (s.slot c k).tenant)) } ∧ t.mem = s.mem) ∧
          (s.ptrReach c (s.slot c k) n = .ok → (Config.service s.free n (s.slot c k).tenant).1 = 0 → Config.servicePtrs n = [] →
            t.slot c k = { s.slot c k with pend := .sysc n (some (Config.service s.free n (s.slot c k).tenant)) } ∧ t.mem = s.mem))) ∧
    (∀ (s : State) (c k : Nat) (n v1 v2 v3 : Word), (s.slot c k).st = .parked → (s.slot c k).pend = .sysc n (some (v1, v2, v3)) →
      ∃ t, exec (.syscallAnswer c k) s = .next t ∧ (t.slot c k).st = .ready ∧ (t.slot c k).pc = (s.slot c k).wakeNext.pc ∧ t.mem = s.mem ∧
        (∀ r, (t.slot c k).reg r = if r = 1 then v1 else if r = 2 then v2 else if r = 3 then v3 else (s.slot c k).reg r) ∧
        (t.slot c k).isFull 1 = true ∧ (t.slot c k).isFull 2 = true ∧ (t.slot c k).isFull 3 = true ∧
        ∀ c' k', slotKey c' k' ≠ slotKey c k → t.slot c' k' = s.slot c' k'))

/-- R54, R326 to R330: `movk` gives g[d] any of registers 0 to 41 in 2 clk, the privileged ones at a target within reach. A read of a
target beyond reach takes F_TARGET, one of a register with an uncorrectable error F_DATA (R298).
R19, R20, R54, R326: `kmov` to a register that no one writes, and a value that a register does not take, raise F_ILLEGAL; `k.sw`, the fault
registers, `k.fst` and `k.owner` take g[a]. R327 to R330: `k.tgt` takes a value with zero reserved bits; a target beyond reach takes F_TARGET;
slot registers change only of a STOPPED slot that is not protected, core registers only of a core that is not protected and has no READY or
PARKED slot; `k.sk` follows R19, R20 and R326; `k.pre` pre-empts or releases its group; and a level or die register then reads back what Table
21.2 keeps.
Where it rests on readings or choices of the model, not on a rule: log entries 21, 22, 40, 54, 55, 61. -/
def Obligations.KernelRegistersAreReadAndWritten : Prop :=
  ((∀ (s : State) (d : Reg) (k : BitVec 9), k.toNat ≤ 13 → PassesG s false [] (some d) →
      ∃ t, exec (.movk d k) s = .next t ∧ Wrote s t [] d (slotWord s s.curCore s.curSlot k.toNat) 0 2) ∧
    (∀ (s : State) (d : Reg) (k : BitVec 9), 14 ≤ k.toNat → k.toNat ≤ 41 → PassesP s [] (some d) →
      let x := s.slot s.me.tgtCore s.me.tgtSlot
      let ix := s.me.tgtIndex
      let open_ := x.st = .stopped ∧ bit (s.core s.me.tgtCore).owner 39 = false
      let badG := k.toNat = 16 ∧ open_ ∧ x.badG.getLsbD (ix % 16) = true
      let badV := k.toNat = 18 ∧ open_ ∧ ix % 64 < 4 * x.vsize ∧ 4 * x.vbase + ix % 64 ∈ (s.core s.me.tgtCore).badV
      ∃ t, exec (.movk d k) s = .next t ∧
        (ReachesTarget s k.toNat → badG → Stops s t 27 0 (BitVec.ofNat 64 (256 + ix % 16))) ∧
        (ReachesTarget s k.toNat → badV → Stops s t 27 0 (BitVec.ofNat 64 (512 + ix % 64))) ∧
        (k.toNat = 14 ∨ (ReachesTarget s k.toNat ∧ ¬badG ∧ ¬badV) → Wrote s t [] d (privWord s k.toNat) 0 2) ∧
        (k.toNat ≠ 14 → ¬ReachesTarget s k.toNat → Stops s t 12 0 (BitVec.ofNat 64 s.me.tgtCore)))) ∧
  ((∀ (s : State) (a : Reg) (k : BitVec 9), k.toNat ≤ 5 ∨ k.toNat = 11 →
      ∃ t, exec (.kmov a k) s = .next t ∧ Stops s t 1 0 ((encode (.kmov a k)).zeroExtend 64)) ∧
    (∀ (s : State) (a : Reg), PassesG s false [a] none →
      ∃ t u, exec (.kmov a 6) s = .next t ∧ exec (.kmov a 12) s = .next u ∧
        (SwWritable s (s.src a) → t.me = { s.me with sw := s.src a, frameBuf := [], pc := pcOf (s.me.pc + 4) } ∧ Popped s t [a] ∧
          (∀ c k, s.other c k → t.slot c k = s.slot c k) ∧ SameButChains s t) ∧
        (¬SwWritable s (s.src a) → Stops s t 1 0 ((encode (.kmov a 6)).zeroExtend 64)) ∧
        (bits (s.src a) 5 59 = 0 → SlotGoes s u [a] (fun x => { x with fst := s.src a })) ∧
        (bits (s.src a) 5 59 ≠ 0 → Stops s u 1 0 ((encode (.kmov a 12)).zeroExtend 64))) ∧
    (∀ (s : State) (a : Reg), PassesP s [a] none →
      (∃ t, exec (.kmov a 7) s = .next t ∧ SlotGoes s t [a] (fun x => { x with epc := s.src a })) ∧
      (∃ t, exec (.kmov a 8) s = .next t ∧ SlotGoes s t [a] (fun x => { x with cause := s.src a })) ∧
      (∃ t, exec (.kmov a 9) s = .next t ∧ SlotGoes s t [a] (fun x => { x with fault := s.src a })) ∧
      (∃ t, exec (.kmov a 10) s = .next t ∧ SlotGoes s t [a] (fun x => { x with faddr := s.src a })) ∧
      (∃ t, exec (.kmov a 14) s = .next t ∧
        (bits (s.src a) 12 4 = 0 ∧ bits (s.src a) 20 12 = 0 → SlotGoes s t [a] (fun x => { x with tgt := s.src a })) ∧
        (¬(bits (s.src a) 12 4 = 0 ∧ bits (s.src a) 20 12 = 0) → Stops s t 1 0 ((encode (.kmov a 14)).zeroExtend 64)))) ∧
    (∀ (s : State) (a : Reg), Passes s .security false [] [] [a] none →
      ∃ t, exec (.kmov a 13) s = .next t ∧ (t.core s.curCore).owner = BitVec.ofNat 64 (if bit (s.src a) 39 = true then bits (s.src a) 0 40 else bits (s.src a) 0 32) ∧
        t.me = s.me.advance ∧ Popped s t [a] ∧
        (∀ c, c ≠ s.curCore → (t.core c).owner = (s.core c).owner) ∧ t.mem = s.mem ∧ t.pkg = s.pkg) ∧
    (∀ (s : State) (a : Reg) (k : BitVec 9), 15 ≤ k.toNat → k.toNat ≤ 41 → PassesP s [a] none →
      let c := s.me.tgtCore
      let j := s.me.tgtSlot
      let v := s.src a
      let open_ := (s.slot c j).st = .stopped ∧ bit (s.core c).owner 39 = false
      let still := bit (s.core c).owner 39 = false ∧ s.running c = false
      ∃ t, exec (.kmov a k) s = .next t ∧
        (¬ReachesTarget s k.toNat → Stops s t 12 0 (BitVec.ofNat 64 c)) ∧
        (ReachesTarget s k.toNat →
          (k.toNat = 15 → s.other c j → v = 1 → (s.slot c j).st = .stopped →
            t.slot c j = resumed (s.slot c j) ∧ t.me = s.me.advance) ∧
          (k.toNat = 15 → v = 2 → (s.slot c j).st = .stopped → s.other c j → (t.slot c j).st = .free) ∧
          (k.toNat = 15 → ((v ≠ 1 ∧ v ≠ 2) ∨ (s.slot c j).st ≠ .stopped) → WentNext s t [a]) ∧
          (16 ≤ k.toNat → k.toNat ≤ 20 → ¬open_ → WentNext s t [a]) ∧
          (k.toNat = 16 → open_ → s.other c j → j < 16 →
            (∀ r, (t.slot c j).reg r = if r = BitVec.ofNat 4 s.me.tgtIndex ∧ r ≠ 0 then v else (s.slot c j).reg r) ∧
            (t.slot c j).full = (s.slot c j).full) ∧
          (k.toNat = 17 → open_ → s.other c j → t.slot c j = { s.slot c j with full := v.truncate 16 ||| 1 }) ∧
          (k.toNat = 18 → open_ → s.other c j → LaneWritten s t c (s.slot c j) s.me.tgtIndex v ∧ t.slot c j = s.slot c j) ∧
          (k.toNat = 19 → open_ → s.other c j → SkWritten s t c j s.me.tgtIndex v ((encode (.kmov a k)).zeroExtend 64) ∧
            (13 < s.me.tgtIndex → WentNext s t [a])) ∧
          (k.toNat = 20 → open_ → s.other c j → t.slot c j = { s.slot c j with
            guardRec := if bit v 63 = true then some ⟨bits v 48 12, bits v 0 18, bits v 32 16⟩ else none }) ∧
          (k.toNat = 19 → s.me.tgtIndex = 13 → s.curCore ≠ securityCore → open_ → Stops s t 2 0 ((encode (.kmov a k)).zeroExtend 64)) ∧
          ((21 ≤ k.toNat ∧ k.toNat ≤ 25) ∨ k.toNat = 41 → ¬still → WentNext s t [a]) ∧
          (still → (k.toNat = 21 → (t.core c).vmap = v.truncate 16) ∧
            (k.toNat = 22 → (t.core c).poolBase = bits v 0 18 ∧ (t.core c).poolSize = bits v 32 18) ∧
            (k.toNat = 23 → (t.core c).latch = v.truncate 16) ∧
            (k.toNat = 24 → s.pops [a] = false →
              ChainWritten s.now (s.chainOut c (s.me.tgtIndex % 16)) (t.chainOut c (s.me.tgtIndex % 16)) s.me.tgtIndex v ∧
              ∀ c' k', ¬(c' = c ∧ k' = s.me.tgtIndex % 16) → t.chainOut c' k' = s.chainOut c' k') ∧
            (k.toNat = 25 → (t.core c).barGen = bits v 0 32 ∧ (t.core c).barArr = bits v 32 5) ∧
            (k.toNat = 41 → s.me.tgtIndex % 2 = 0 → (t.core c).win =
              if v = 0 then none else if (windowOf v).isSome = true then windowOf v else (s.core c).win) ∧
            (k.toNat = 41 → s.me.tgtIndex % 2 = 1 → (t.core c).winErr = bits v 32 32 ∧ (t.core c).winTenant = BitVec.ofNat 8 (bits v 16 8) ∧
              (t.core c).winFlags = BitVec.ofNat 5 (bits v 11 5) ∧ (t.core c).winPtr = bits v 0 10)) ∧
          (k.toNat = 26 → (t.core c).wten = v.truncate 8) ∧
          (k.toNat = 27 → PreWritten s t c v) ∧
          (∀ r, Keeps s k.toNat v r → privWord t k.toNat = r ∧ (s.me.st = .ready → t.me.pc = s.me.advance.pc ∧ t.me.g = s.me.g) ∧
            (k.toNat ≠ 37 → t.mem = s.mem ∧ ∀ c' k', s.other c' k' → t.slot c' k' = s.slot c' k')))))

/-- R256, R292, R307 to R309, R330: what the controls of slots, cores and event queues do: `k.sctl` resumes or frees a STOPPED slot; `k.pre` puts
every core of its group into immediate or anchor-drain pre-emption, or releases it; a slot that is due stops at a boundary of its turn,
with no cause and with its registers kept; the limit of a drain turns it into immediate mode; a slot that is resumed after its group has come
to rest lets the group take arrivals again; once a group is quiescent its service core is
told; an event queue that is enabled has an empty ring; and a fault notice reaches the service core.
Where it rests on readings or choices of the model, not on a rule: log entries 9, 21, 40, 51, 62. -/
def Obligations.ControlsStopResumeAndNotify : Prop :=
  (∀ (s : State) (c k : Nat),
    (∃ t, exec (.sctlResume c k) s = .next t ∧ ((s.slot c k).st ≠ .stopped → t = s) ∧
      ((s.slot c k).st = .stopped →
        t.slot c k = resumed (s.slot c k) ∧ (∀ c' k', slotKey c' k' ≠ slotKey c k → t.slot c' k' = s.slot c' k') ∧
        t = { s with slots := t.slots, cores := t.cores } ∧ Regrouped s t c)) ∧
    (∃ t, exec (.sctlFree c k) s = .next t ∧ ((s.slot c k).st ≠ .stopped → t = s) ∧
      ((s.slot c k).st = .stopped → (t.slot c k).st = .free ∧ t.mem = s.mem))) ∧
  (∀ (s : State) (core : Nat) (whole : Bool) (limit : Nat),
    let inGroup (c : Nat) : Prop := c = core ∨ (whole = true ∧ c < 3072 ∧ (s.core c).owner = (s.core core).owner)
    ∃ t u v, exec (.preImmediate core whole) s = .next t ∧ exec (.preAnchorDrain core whole limit) s = .next u ∧
      exec (.preRelease core whole) s = .next v ∧
      (∀ c, inGroup c → (t.core c).pre = .immediate ∧ (u.core c).pre = .drain (s.now + limit) ∧ (v.core c).pre = .off ∧
        (t.core c).quiesced = false ∧ (u.core c).quiesced = false ∧
        (v.core c).links = (s.core c).links.filter (fun a => a.record.isNone)) ∧
      (∀ c, ¬inGroup c → t.core c = s.core c ∧ u.core c = s.core c ∧ v.core c = s.core c) ∧
      (∀ c k, k < 16 →
        let x := s.slot c k
        let runs := inGroup c ∧ (x.st = .ready ∨ x.st = .parked)
        (runs → t.slot c k = { x with stopReq := .now_ } ∧ u.slot c k = { x with stopReq := .anchor } ∧ v.slot c k = { x with stopReq := .none_ }) ∧
        (¬runs → t.slot c k = x ∧ u.slot c k = x ∧ v.slot c k = x)) ∧
      t = { s with cores := t.cores, slots := t.slots } ∧ u = { s with cores := u.cores, slots := u.slots } ∧ v.mem = s.mem) ∧
  (∀ (s : State) (c k : Nat), k < 16 →
    let x := s.slot c k
    let due := s.now % 16 = k ∧ x.stopReq = .now_ ∧ (x.st = .ready ∨ (x.st = .parked ∧ x.pend.deferred = false))
    ∃ t, exec (.preemptStop c k) s = .next t ∧ (¬due → t = s) ∧
      (due → (t.slot c k).st = .stopped ∧ (t.slot c k).epc = x.againAt ∧ (t.slot c k).cause = x.cause ∧ (t.slot c k).resv = none ∧
        (t.slot c k).stopReq = .none_ ∧ (t.slot c k).buf = x.buf ∧ t.mem = s.mem ∧
        ((∀ i r, x.pend ≠ .barSent i r) → (t.slot c k).sw = x.sw) ∧ (t.slot c k).g = x.g ∧
        (∀ d r n, x.pend = .sbarRel d r n → (t.slot c k).pend = x.pend) ∧
        (∀ l i n g d, x.pend = .barrier l i n g d → (t.slot c k).pend = x.pend) ∧
        (x.pend = .none → (t.slot c k).pend = if x.park = 6 then x.owed else .none) ∧ (t.slot c k).owed = .none)) ∧
  (∀ (s : State) (core : Nat), ∃ t, exec (.drainLimitExpiry core) s = .next t ∧
    (∀ n, (s.core core).pre = .drain n → n ≤ s.now → t.core core = { s.core core with pre := .immediate, preExpired := true } ∧
      (∀ c, c ≠ core → t.core c = s.core c) ∧ t = { s with cores := t.cores, slots := t.slots } ∧
      ∀ c k, k < 16 → t.slot c k = if c = core ∧ (s.slot c k).stopReq = .anchor then { s.slot c k with stopReq := .now_ } else s.slot c k) ∧
    ((∀ n, (s.core core).pre = .drain n → s.now < n) → t = s)) ∧
  (∀ (s : State) (core : Nat),
    let g := (s.core core).preGroup
    let told := (s.core core).pre ≠ .off ∧ (s.core core).quiesced = false ∧ g.head? = some core ∧ s.quiescent g = true
    ∃ t, exec (.quiescenceNotice core) s = .next t ∧ (¬told → t = s) ∧
      (told → (∀ c ∈ g, (t.core c).quiesced = true) ∧ Noticed s t (serviceCore (tileOf core)) ∧
        Tab.get [] t.pkg.got (tileOf core) = Tab.get [] s.pkg.got (tileOf core) ++ [.quiescence (tileOf core) (s.stoppedList g)])) ∧
  (∀ (s : State) (tenant q : Nat) (w : Word),
    ∃ t u, exec (.evqEnable tenant q w) s = .next t ∧ exec (.evqDisable tenant q) s = .next u ∧
      t.evq tenant q = ⟨true, bits w 12 40 * 4096, bits w 0 5, 0, 0⟩ ∧
      (∀ i < 2 * 2 ^ bits w 0 5, t.wordAs 0 (bits w 12 40 * 4096 + 8 * i) = 0 ∧ t.wordFull (bits w 12 40 * 4096 + 8 * i) = false) ∧
      (∀ x, ¬(bits w 12 40 * 4096 ≤ x ∧ x < bits w 12 40 * 4096 + 16 * 2 ^ bits w 0 5) → t.byteAt x = s.byteAt x) ∧
      u.evq tenant q = { s.evq tenant q with valid := false } ∧ u.mem = s.mem) ∧
  (∀ (s : State) (tile : Nat) (n : Notice),
    s.pkg.notices.find? (fun m => match m with | .fault x _ => x = tile | _ => false) = some n →
    ∃ t, exec (.faultNotice tile) s = .next t ∧ t.pkg.notices = s.pkg.notices.erase n ∧
      Tab.get [] t.pkg.got tile = Tab.get [] s.pkg.got tile ++ [n] ∧ Noticed s t (serviceCore tile))

/-- R191 to R197, R255, R277, R291, R298: the walk of a waiting slot ends in an entry, which the TLBs take while the slot issues again; in F_ADDR,
with kind 2 for a fetch, or DESC_FAULT where a job descriptor was to be read; in F_DATA for a bad table word; in the wait for the hypervisor,
of which the tile's service core is told and which ends in a retry or F_ADDR; or in an absent page: for an accumulator image the slot waits;
else F_PAGE, or where an upcall is armed and a record is free, a record, the arrival of the handler at link 4, and a wait that the notice
with its token ends. What a walk answers is said level by level: where it comes to a table, the table's frame of stage 2, its place and the entry decide
between F_DATA, the hypervisor, F_ADDR, an absent page, the next table, and an entry with the page, its memory type and the permissions of
both stages.
Where it rests on readings or choices of the model, not on a rule: log entries 38, 45, 51, 63, 64, 65, 67, 75, 76. -/
def Obligations.TranslationWaitsEnd : Prop :=
  (∀ (s : State) (c k : Nat) (va : Word) (acc : Acc) (rd wr : Bool) (ptab s2b s2l : Word) (r : WalkRes), (s.slot c k).st = .parked →
    (s.slot c k).pend = .walk va acc rd wr ptab s2b s2l → WalkEnds s c k va acc rd wr ptab s2b s2l r →
    let x := s.slot c k
    ∃ t, exec (.translationWalkComplete c k) s = .next t ∧
      (∀ e, r = .entry e → t.slot c k = x.wake ∧ (x.wake.st = .ready ∧ x.wake.pc = x.pc) ∧ t.mem = s.mem ∧
        (if acc = .fetch then e ∈ (t.core c).itlb else e ∈ (t.core c).dtlb) ∧
        (isCompute c = true → e ∈ (t.cluster (clusterOf c)).tlb2) ∧ ∀ c' k', slotKey c' k' ≠ slotKey c k → t.slot c' k' = s.slot c' k') ∧
      (r = .bad → NoTranslation s t c k va acc) ∧
      (r = .data → Faulted s t c k 27 (BitVec.ofNat 64 (va.toNat / 8 * 8)) 0 false) ∧
      (r = .stage2 → (t.slot c k).st = .parked ∧ (t.slot c k).pend = .stage2 va acc ∧ (t.slot c k).pc = x.pc ∧ (t.slot c k).g = x.g ∧
        (x.park ≠ 6 → (t.slot c k).park = 3) ∧ t.mem = s.mem ∧
        Tab.get [] t.pkg.got (tileOf c) = Tab.get [] s.pkg.got (tileOf c) ++ [.stage2 (tileOf c) c k va] ∧
        ∀ c' k', slotKey c' k' ≠ slotKey c k → t.slot c' k' = s.slot c' k') ∧
      (∀ d, r = .absent → acc = .image d → t = s.modSlot c k (fun y => { y with pend := .retry })) ∧
      (r = .absent → (∀ d, acc ≠ .image d) →
        ((∀ kr cap area pc kernel i, ¬UpcallAt s x kr cap area pc kernel i) → Faulted s t c k 9 va (BitVec.ofNat 64 acc.code) false) ∧
        (∀ kr cap area pc kernel i, UpcallAt s x kr cap area pc kernel i → x.resv = none →
          let token := s.pkg.tokens % 2 ^ 16
          (t.slot c k).st = .parked ∧ (t.slot c k).pend = .page token ∧ (t.slot c k).pc = x.pc ∧ (t.slot c k).g = x.g ∧
          (x.park ≠ 6 → (t.slot c k).park = 3) ∧
          (∃ a, (t.core c).links = (s.core c).links ++ [a] ∧ a.src = .upcall ∧ a.link = 4 ∧ a.pc = pc ∧ a.tenant = x.tenant ∧
            a.regs = [(1, area.va + BitVec.ofNat 64 (32 * i), true), (2, BitVec.ofNat 64 token, true)] ∧ a.cause = some (c, k)) ∧
          (∀ j < 32, byteOf (t.wordAs (s.cipherKey c) (area.pa + 32 * i + j)) ((area.pa + 32 * i + j) % 8) =
            (faultRecord va x.pc token k acc.code c x.tenant).getD j 0) ∧
          (∀ y, y / 8 < (area.pa + 32 * i) / 8 ∨ (area.pa + 32 * i + 31) / 8 < y / 8 → t.byteAt y = s.byteAt y)))) ∧
  (∀ (s : State) (c k token tk : Nat), k < 16 → (s.slot c k).st = .parked → (s.slot c k).pend = .page tk →
    ∃ t, exec (.pageFaultCompletionNotice c k token) s = .next t ∧ (token ≠ tk → t = s) ∧
      (token = tk → (t.slot c k).st = .ready ∧ (t.slot c k).pc = (s.slot c k).pc ∧ t.latch c k = true ∧
        ∀ a ∈ t.pkg.areas, ∀ u ∈ a.used, ¬(u.core = c ∧ u.slot = k))) ∧
  (∀ (s : State) (c k : Nat) (va : Word) (acc : Acc), (s.slot c k).st = .parked → (s.slot c k).pend = .stage2 va acc →
    ∃ t u, exec (.stage2Resolution c k true) s = .next t ∧ t = s.modSlot c k Slot.wake ∧
      exec (.stage2Resolution c k false) s = .next u ∧ NoTranslation s u c k va acc) ∧
  (∀ (s : State) (tenant : BitVec 8) (ptab s2b s2l va : Word) (rd wr fetch : Bool) (n tab : Nat), n < 5 → ComesTo s ptab s2b s2l va n tab →
    WalkAnswers s tenant ptab s2b s2l va rd wr fetch n tab)

/-- R199, R208 to R210, R227, R351, R352: a collapse clears the replication bit of every mapping of the pages that hold its 64 KiB, drops every
TLB entry and reservation on them, and lets the writers that wait issue again; a home granule that moves gets its new die and loses the
reservations on it; requests under way are performed at the new home, after which the old one stops forwarding; a release that misses its
scope is counted and goes on as a plain store, or starts the armed handler, which holds the buffer of its thread. What the old home's E has let
be seen stays seen.
Where it rests on readings or choices of the model, not on a rule: log entries 30, 43, 81, 90. -/
def Obligations.PagesMoveAndReleasesMiss : Prop :=
  (∀ (s : State) (page own c k : Nat), k < 16 → (s.slot c k).st = .parked → (s.slot c k).pend = .collapse own → OfPages s page (own * 2 ^ 16) 1 →
    ∃ t, exec (.replicaCollapseComplete page) s = .next t ∧ (t.slot c k).st = .ready ∧ (t.slot c k).pc = (s.slot c k).pc ∧
      (∀ c' e, e ∈ (t.core c').dtlb ↔ e ∈ (s.core c').dtlb ∧ ¬OfPages s page e.pa e.size) ∧
      (∀ c' k', k' < 16 → ∀ r, (t.slot c' k').resv = some r → ¬OfPages s page (64 * r.key) 64) ∧
      ((∀ m ∈ s.rpMappings, m.1 % 8 = 0) → ∀ m ∈ s.rpMappings, (∃ q ∈ m.2, OfPages s page q.1 q.2) → bit (t.entryAt m.1) 60 = false)) ∧
  (∀ (s : State) (g d : Nat),
    let moves := s.hasHome g = true ∧ d < 8 ∧ d ≠ s.homeDie (g * 2 ^ 21) ∧ ∀ p ∈ s.pkg.moving, p.1 ≠ g
    ∃ t, exec (.pageHomeMove g d) s = .next t ∧ (¬moves → t = s) ∧
      (moves → t.homeDie (g * 2 ^ 21) = d ∧ (∀ h, h ≠ g → t.homeDie (h * 2 ^ 21) = s.homeDie (h * 2 ^ 21)) ∧
        ((∀ m ∈ s.rpMappings, ∀ q ∈ m.2, overlap q.1 q.2 (g * 2 ^ 21) (2 ^ 21) = false) → t.mem = s.mem) ∧
        (∀ h, Tab.get 0 t.pkg.seenE h =
          if h = g then max (Tab.get 0 s.pkg.seenE g) (clkE s (s.homeDie (g * 2 ^ 21))) else Tab.get 0 s.pkg.seenE h) ∧
        ∀ c k, k < 16 → ∀ r, (t.slot c k).resv = some r → 64 * r.key / 2 ^ 21 ≠ g)) ∧
  (∀ (s : State) (c k : Nat), s.pkg.moving ≠ [] →
    ∃ t, exec (.movedRequestForward c k) s = .next t ∧ t.slot c k = { s.slot c k with pend := (s.slot c k).pend.rehome s } ∧
      t = { s with slots := t.slots } ∧ ∀ c' k', slotKey c' k' ≠ slotKey c k → t.slot c' k' = s.slot c' k') ∧
  (∀ (s : State) (g : Nat), ∃ t, exec (.homeForwardingEnd g) s = .next t ∧
    ((∃ p ∈ s.pkg.moving, p.1 = g) → (∀ p ∈ s.slots, p.2.rehome s = p.2) → (∀ p ∈ t.pkg.moving, p.1 ≠ g) ∧ t.mem = s.mem ∧ t.slots = s.slots)) ∧
  (∀ (s : State) (c k i : Nat) (e : StoreEnt), (s.slot c k).out[i]? = some e → missesScope c e = true →
    (∀ j < i, ∀ f, (s.slot c k).out[j]? = some f → missesScope c f = false) →
    ∃ t, exec (.scopeMissMessage c k) s = .next t ∧ t.mem = s.mem ∧
      (e.loose = true → (t.slot c k).out = (s.slot c k).out.eraseIdx i ∧ (t.core c).missCount = (s.core c).missCount + 1 ∧
        (t.core c).links = (s.core c).links) ∧
      (e.loose = false → s.armedEntry c e = none →
        (t.slot c k).out = (s.slot c k).out.set i { e with rel := false, loose := true } ∧ (t.core c).missCount = (s.core c).missCount + 1) ∧
      (e.loose = false → ∀ pc kr, s.armedEntry c e = some (pc, kr) →
        let n := (s.core c).missSeq + 1
        (t.slot c k).out = (s.slot c k).out.eraseIdx i ∧ (t.core c).misses = (s.core c).misses ++ [⟨n, k, e.claim, none, false⟩] ∧
        (∀ f, (t.slot c k).buf.head? = some f → f.claim = e.claim → t.mayLeave c k = false) ∧
        ∃ a, (t.core c).links = (s.core c).links ++ [a] ∧ a.src = .missHandler ∧ a.link = 4 ∧ a.pc = pc ∧ a.tenant = e.tenant ∧ a.ctx = e.ctx ∧
          a.kern = kr ∧ a.miss = n ∧ a.regs = [(1, e.ea, true), (2, e.data, true), (3, missInfo c e, true)] ∧ a.cause = some (c, k)))

/-- R158, R159, R163, R266: a record that arrives at its die joins the die's records at its key position, while the tenant's quota and the die
have room, its VOID capsule is to be rebuilt, and its `spawnq` goes on, or its LAUNCH leaves the ring and completes; a fire record that is refused is sent again. One dispatch decision a
clk sends the first record of the tenant that is served whose capsule is VALID and that a core admits, by the summaries, to the core with the
most FREE slots, past records that wait, but an in-order record not past another.
Where it rests on readings or choices of the model, not on a rule: log entry 32. -/
def Obligations.RecordsArriveAndAreDispatched : Prop :=
  (∀ (s : State) (idx : Nat) (f : RecFlight), s.pkg.recs[idx]? = some f → f.resend = false →
    (∀ i < idx, ∀ g, s.pkg.recs[i]? = some g → ¬(g.die = f.die ∧ g.task.key.src = f.task.key.src)) →
    let x := f.task.tenant.toNat
    let room := (f.exempt = true ∨ (s.queueOf f.die x).length < (s.tenantDie f.die x).quota) ∧ (s.die f.die).recs.length < 16384
    ∃ t, exec (.taskRecordArrival idx) s = .next t ∧ t.mem = s.mem ∧
      (room → (t.die f.die).recs = insertRec f.task (s.die f.die).recs ∧ t.pkg.recs = s.pkg.recs.eraseIdx idx ∧
        (∀ cap, s.capsule? f.task.handle = some cap → cap.st = .void →
          t.capsule? f.task.handle = some { cap with st := .rebuilding }) ∧
        (∀ c k, f.issuer = some (c, k) → (s.slot c k).pend = .taskSent → t.slot c k = (s.slot c k).wakeNext) ∧
        ∀ q tag, f.host = some (q, tag) → (s.pkg.qifs.filter (fun e => e.1 = q)).length = 1 → (s.qif q).tstate ≠ .error →
          (t.qif q).due = (s.qif q).due ++ [⟨BitVec.ofNat 32 tag, 0, BitVec.ofNat 64 f.task.key.seq⟩] ∧
          ((s.qif q).atHead = true → (t.qif q).head = ((s.qif q).head + 1) % 2 ^ (s.qif q).s ∧ (t.qif q).atHead = false)) ∧
      (¬room → f.task.fire = none ∨ f.exempt = true → t = s) ∧
      (¬room → f.task.fire ≠ none → f.exempt = false → t.pkg.recs = s.pkg.recs.set idx { f with resend := true } ∧ t.dies = s.dies)) ∧
  (∀ (s : State) (d : Nat), ∃ t, exec (.fireRecordResend d) s = .next t ∧ t = { s with pkg := { s.pkg with recs := t.pkg.recs } } ∧
    t.pkg.recs.length = s.pkg.recs.length ∧
    ∀ (i : Nat) (f : RecFlight), s.pkg.recs[i]? = some f →
      t.pkg.recs[i]? = some (if f.resend = true ∧ f.task.fire.any (fun g => decide (g.die = d)) = true then { f with resend := false } else f)) ∧
  (∀ (l : List TaskRec) (r : TaskRec), InOrder l → InOrder (insertRec r l) ∧ (insertRec r l).Perm (r :: l)) ∧
  (∀ (s : State) (d : Nat), (s.die d).dispCyc = s.now + 1 → exec (.dispatch d) s = .next s) ∧
  (∀ (s : State) (d n c : Nat) (pre rest : List TaskRec) (r : TaskRec), (s.die d).dispCyc ≠ s.now + 1 → 1 ≤ n → n ≤ 256 →
    let x := ((s.die d).last + n) % 256
    (∀ m, 1 ≤ m → m < n → s.queueOf d (((s.die d).last + m) % 256) = [] ∨ (s.tenantDie d (((s.die d).last + m) % 256)).cap = 0) →
    (s.tenantDie d x).cap ≠ 0 → 0 < (s.tenantDie d x).bal → s.queueOf d x = pre ++ r :: rest → pre.length < 8 →
    (∀ p ∈ pre, s.expired d p = false ∧ (¬Ready s p ∨ ∀ e ∈ coresOfDie d, ¬Admits s p e)) →
    (bit r.ctl 10 = true → ∀ p ∈ pre, bit p.ctl 10 = false) →
    s.expired d r = false → Ready s r → c ∈ coresOfDie d → Admits s r c →
    (∀ e ∈ coresOfDie d, Admits s r e → (s.summary e).free < (s.summary c).free ∨ ((s.summary e).free = (s.summary c).free ∧ c ≤ e)) →
    ∃ t a, exec (.dispatch d) s = .next t ∧ (t.die d).recs = (s.die d).recs.erase r ∧ (t.die d).last = x ∧ (t.die d).dispCyc = s.now + 1 ∧
      (t.core c).links = (s.core c).links ++ [a] ∧ a.src = .launch ∧ a.link = 0 ∧ a.tenant = r.tenant ∧ a.ctx = r.ctx ∧ a.record = some r ∧
      a.task = ⟨some r.ctl, r.fire⟩ ∧ a.kern.handle = r.handle ∧ a.kern.kernel = r.kernel ∧
      a.regs = (List.range 8).map (fun i => (BitVec.ofNat 4 (i + 1), r.regs.getD i 0, r.full.getLsbD i)) ∧
      (∀ e, e ≠ c → t.core e = s.core e) ∧
      ((∀ cap, s.capsule? r.handle = some cap → cap.faults = 0 ∨ ∃ z ∈ s.pkg.areas, z.ctx = r.ctx ∧ z.handle = r.handle) →
        t.slots = s.slots ∧ t.mem = s.mem))

/-- R160, R161, R167 to R169: at each multiple of 12,500 clk a tenant's balance gains its refill, less what its loans take, up to its cap. An idle
die asks its next neighbour for records; the victim gives up to four of one tenant that may be stolen, and they join the thief's queues;
an empty reply starts a pause of 1,250 clk.
Where it rests on readings or choices of the model, not on a rule: log entry 59. -/
def Obligations.BudgetsRefillAndDiesSteal : Prop :=
  (∀ (s : State) (d : Nat), Tab.wf TenantDie.reset (s.die d).ten →
    let due := s.now ≠ 0 ∧ s.now % 12500 = 0 ∧ (s.die d).refillCyc ≠ s.now + 1
    ∃ t, exec (.budgetRefill d) s = .next t ∧ (¬due → t = s) ∧
      (due → OnlyDie s t d ∧ (t.die d).recs = (s.die d).recs ∧
        (∀ x, (t.tenantDie d x).cap = (s.tenantDie d x).cap ∧ (t.tenantDie d x).rf = (s.tenantDie d x).rf) ∧
        ((s.die d).loans = [] → (t.die d).loans = [] ∧
          ∀ x, (t.tenantDie d x).bal = min ((s.tenantDie d x).bal + ((s.tenantDie d x).rf : Int)) ((s.tenantDie d x).cap : Int)) ∧
        (∀ l, (s.die d).loans = [l] → l.x ≠ l.y →
          let p := min l.amt (s.tenantDie d l.x).rf
          (t.die d).loans = (if l.amt = p then [] else [{ l with amt := l.amt - p }]) ∧
          (t.tenantDie d l.x).bal =
            min ((s.tenantDie d l.x).bal + ((s.tenantDie d l.x).rf : Int) - (p : Int)) ((s.tenantDie d l.x).cap : Int) ∧
          ((s.tenantDie d l.y).cap ≠ 0 → (t.tenantDie d l.y).bal =
            min ((s.tenantDie d l.y).bal + ((s.tenantDie d l.y).rf : Int) + (p : Int)) ((s.tenantDie d l.y).cap : Int))))) ∧
  (∀ (s : State) (d : Nat),
    let idle := (s.die d).steal = .none_ ∧ (s.dispatch d).2 = false ∧ 64 ≤ s.freeOnDie d
    ∃ t, exec (.stealRequest d) s = .next t ∧ (¬idle → t = s) ∧
      (idle → OnlyDie s t d ∧ (t.die d).stealNext = ((s.die d).stealNext + 1) % 4 ∧
        ∃ quota, (t.die d).steal = .asked ((neighbours d).getD ((s.die d).stealNext % 4) 0) quota ∧
          ∀ p ∈ quota, 0 < p.2 ∧ ∃ q, (p.1, q) ∈ (s.die d).ten ∧ p.2 = q.quota - (s.queueOf d p.1).length)) ∧
  (∀ (s : State) (d v : Nat) (quota : List (Nat × Nat)), (s.die d).steal = .asked v quota → v ≠ d →
    ∃ t l, exec (.stealReply d) s = .next t ∧ (t.die d).steal = .reply l ∧ (t.die v).recs = l.foldl List.erase (s.die v).recs ∧ l.length ≤ 4 ∧
      (∀ r ∈ l, r ∈ (s.die v).recs ∧ bit r.ctl 10 = false ∧ bit r.ctl 11 = false) ∧
      (∀ r ∈ l, ∀ q ∈ l, r.tenant = q.tenant ∧ ∃ n, (r.tenant.toNat, n) ∈ quota ∧ l.length ≤ n) ∧ t.mem = s.mem ∧ t.slots = s.slots) ∧
  (∀ (s : State) (d : Nat) (l : List TaskRec), (s.die d).steal = .reply l →
    ∃ t, exec (.stolenRecordsArrival d) s = .next t ∧
      (l = [] → OnlyDie s t d ∧ (t.die d).steal = .pause (s.now + 1250)) ∧
      (l ≠ [] → (∀ r ∈ l, s.expired d r = false) → (s.die d).recs.length + l.length ≤ 16384 → OnlyDie s t d ∧ (t.die d).steal = .none_ ∧
        (t.die d).recs = l.foldl (fun q r => insertRec r q) (s.die d).recs)) ∧
  (∀ (s : State) (d n : Nat), (s.die d).steal = .pause n →
    ∃ t, exec (.stealPauseExpiry d) s = .next t ∧ (s.now < n → t = s) ∧ (n ≤ s.now → OnlyDie s t d ∧ (t.die d).steal = .none_))

/-- R313 to R317, R319, R335, R336, R375: INSTALL refuses an object with BAD_CAPSULE, one too of which a loop back-edge has no anchor or whose anchors
no map of Table 20.1 can hold, or keeps its capsule with its references unbound, VALID where every island is of this generation, else VOID, under a handle that its result carries. A
body takes the islands of this generation word for word, and its map has every anchor of the form once. BIND checks handle, index and type,
and sets base and shape. `refld` parks with park 3 and then reads them from an entry of its type, else takes F_REFTYPE. `rbld` and REBUILD
trigger the rebuild of a capsule that is not VALID and wait for it; the translator's end makes it VALID with the next body version, and what
waited goes on, arrivals at their entry of the new body; no TLB holds what it held of the old body's pages or of the new one's.
Where it rests on readings or choices of the model, not on a rule: log entries 38, 72, 75, 80, 85. -/
def Obligations.CapsulesAreInstalledBoundAndRebuilt : Prop :=
  (∀ (s : State) (q : Nat) (c : Cmd) (tn : BitVec 8), NextCommand s q 1 c tn →
    let bytes := s.hostRead q (c.arg 8 8) (c.arg 16 4)
    ∃ t, exec (.installCapsule q) s = .next t ∧
      (Config.parseCapsule bytes = none → CommandEnds s t q c 2 0 ∧ OnlyQifs s t) ∧
      (∀ x, Config.parseCapsule bytes = some x →
        (¬EdgesAnchored x ∨ ¬MapFits x → CommandEnds s t q c 2 0 ∧ OnlyQifs s t) ∧
        (EdgesAnchored x → MapFits x → ∃ h cap, s.capsule? h = none ∧ t.capsule? h = some cap ∧
          (∀ g, g ≠ h → t.capsule? g = s.capsule? g) ∧ CommandEnds s t q c 0 (BitVec.ofNat 64 (h + cap.version * 2 ^ 32)) ∧
          cap.tenant = tn ∧ cap.object = bytes ∧ cap.kernels = x.kernels ∧ cap.parts = x.parts ∧
          cap.refs = x.refs.map (fun r => ⟨r.decl, 15, 0, 0⟩) ∧
          (OfThisGeneration x → cap.st = .valid ∧ cap.version = 1 ∧ BodyOf x cap.body ∧
            ∀ a ∈ cap.body.anchors, a.num < 65536 ∧ (∀ l ∈ a.live, NativeReg l.2) ∧ (a.live.map (·.2)).Nodup) ∧
          (¬OfThisGeneration x → cap.st = .void ∧ cap.version = 0) ∧
          ((∀ d < 8, (s.tenantDie d tn.toNat).ptab = 0) → ∀ i < cap.body.words.length,
            (t.memLoad 0 (BodySpot cap.body + 4 * i) 4).toNat = (cap.body.words.getD i 0).toNat)))) ∧
  (∀ (s : State) (q : Nat) (c : Cmd) (tn : BitVec 8), NextCommand s q 2 c tn →
    let h := c.arg 8 4
    let i := c.arg 12 2
    ∃ t, exec (.bindRef q) s = .next t ∧
      ((∀ cap, ¬Owned s h tn cap) → CommandEnds s t q c 3 0 ∧ OnlyQifs s t) ∧
      (∀ cap, Owned s h tn cap →
        (cap.refs[i]? = none → CommandEnds s t q c 1 0 ∧ OnlyQifs s t) ∧
        (∀ e, cap.refs[i]? = some e →
          (e.decl ≠ c.arg 14 1 → CommandEnds s t q c 4 0 ∧ OnlyQifs s t) ∧
          (e.decl = c.arg 14 1 → CommandEnds s t q c 0 0 ∧ t.capsule? h = some { cap with
            refs := cap.refs.set i ⟨e.decl, e.decl, BitVec.ofNat 64 (c.arg 16 8), BitVec.ofNat 64 (c.arg 24 8)⟩ })))) ∧
  (∀ (s : State) (d a c : Reg), PassesG s false [a] (some d) →
    ∃ t u t' u', exec (.refldBase d a c) s = .next t ∧ Parked s t 3 (.asked (.refld false d c (s.src a))) ∧ t.me.popDue = s.pops [a] ∧
      State.happen t (.reply s.curCore s.curSlot) = .next t' ∧ ReadsRef t t' s.curCore s.curSlot d c (s.src a) (·.base) ∧
      exec (.refldShape d a c) s = .next u ∧ Parked s u 3 (.asked (.refld true d c (s.src a))) ∧ u.me.popDue = s.pops [a] ∧
      State.happen u (.reply s.curCore s.curSlot) = .next u' ∧ ReadsRef u u' s.curCore s.curSlot d c (s.src a) (·.shape)) ∧
  (∀ (s : State) (ck : Nat × Nat) (shape : Bool) (d c : Reg) (i : Word), (s.slot ck.1 ck.2).st = .parked →
    (s.slot ck.1 ck.2).pend = .asked (.refld shape d c i) →
    ∃ t, State.happen s (.reply ck.1 ck.2) = .next t ∧ ReadsRef s t ck.1 ck.2 d c i (fun e => if shape = true then e.shape else e.base)) ∧
  (∀ (s : State) (a : Reg), PassesG s false [a] none →
    let h := (s.src a).toNat
    ∃ t, exec (.rbld a) s = .next t ∧
      ((∀ cap, Owned s h s.me.tenant cap → cap.st = .valid) → WentNext s t [a]) ∧
      (∀ cap, Owned s h s.me.tenant cap → cap.st ≠ .valid →
        t.me.st = .parked ∧ t.me.park = 10 ∧ t.me.pend = .rbld h ∧ t.me.popDue = s.pops [a] ∧ t.me.pc = s.me.pc ∧
        t.capsule? h = some { cap with st := .rebuilding } ∧ t.mem = s.mem ∧
        (Tab.wf Slot.reset s.slots → s.curSlot < 16 → ∃ u, exec (.rebuildFinish h) t = .next u ∧
          u.me.st = .ready ∧ u.me.pc = s.me.advance.pc ∧ u.me.g = s.me.g ∧ (u.capsule? h).any (fun x => decide (x.st = .valid)) = true))) ∧
  (∀ (s : State) (q : Nat) (c : Cmd) (tn : BitVec 8), NextCommand s q 9 c tn →
    let h := c.arg 8 4
    ∃ t, exec (.rebuildCmd q) s = .next t ∧
      ((∀ cap, ¬Owned s h tn cap) → CommandEnds s t q c 3 0) ∧
      (∀ cap, Owned s h tn cap →
        (cap.st = .valid → CommandEnds s t q c 0 (BitVec.ofNat 64 cap.version)) ∧
        (cap.st ≠ .valid → CommandGoesOn s t q c 1 ∧ t.capsule? h = some { cap with st := .rebuilding }))) ∧
  (∀ (s : State) (h : Nat) (cap : Capsule), s.capsule? h = some cap → cap.st = .rebuilding → Tab.wf Slot.reset s.slots →
    let v := (cap.version + 1) % 2 ^ 32
    ∃ t new, exec (.rebuildFinish h) s = .next t ∧ t.capsule? h = some new ∧
      new = { cap with st := .valid, version := v, body := new.body, oldMaps := Tab.put cap.oldMaps cap.version cap.body.anchors } ∧
      BodyOf cap new.body ∧
      (∀ b, b = cap.body ∨ b = new.body → ∀ c, ∀ e ∈ (t.core c).itlb, e.tenant = cap.tenant →
        overlap e.va e.size b.base.toNat (4 * b.words.length) = false) ∧
      ((∀ d < 8, (s.tenantDie d cap.tenant.toNat).ptab = 0) → ∀ i < new.body.words.length,
        (t.memLoad 0 (BodySpot new.body + 4 * i) 4).toNat = (new.body.words.getD i 0).toNat) ∧
      (∀ c k, k < 16 → (s.slot c k).st = .parked → (s.slot c k).pend = .rbld h → (s.slot c k).resv = none → t.slot c k = (s.slot c k).wakeNext) ∧
      ∀ c, (t.core c).links.length = (s.core c).links.length ∧ ∀ (i : Nat) (a : Arrival) (r : TaskRec) (e : EntryPt),
        (s.core c).links[i]? = some a → a.kern.handle = h → a.record = some r → new.body.entries[r.entry]? = some e →
        (t.core c).links[i]? =
          some { a with pc := new.body.base + BitVec.ofNat 64 e.off, kern := { a.kern with version := v } })

/-- R156, R158, R159, R306, R307, R311, R312, R318, R375: LAUNCH checks handle, entry, control word and context, and sends a record for its die, at
the head of its ring until the die takes it. SUSPEND pre-empts every core of a context, and once the notice of their quiescence has come saves its stopped slots,
whose reservations are lost, and its cores, those of a protected context in segments under its key, and frees them; RESUME brings every slot back, READY or with its
fault, with its registers, once every capsule is VALID and its cores are free, that of a protected context after its segments have been
checked: STALE_IMAGE, TAG_FAIL; END discards a save. A protected context whose state holds an uncorrectable error is not saved: DENIED, and it
goes on (R298).
Where it rests on readings or choices of the model, not on a rule: log entries 32, 34, 38, 67, 73, 74. -/
def Obligations.ContextsLaunchSuspendAndResume : Prop :=
  (∀ (s : State) (q : Nat) (c : Cmd) (tn : BitVec 8), NextCommand s q 3 c tn →
    let h := c.arg 8 4
    let ctl := BitVec.ofNat 64 (c.arg 16 8)
    let ctx := if c.arg 40 4 = 0 then Config.tenantCtx tn else c.arg 40 4
    ∃ t, exec (.launchTask q) s = .next t ∧
      ((∀ cap, ¬Owned s h tn cap) → CommandEnds s t q c 3 0 ∧ OnlyQifs s t ∧ LeavesRing s t q) ∧
      (∀ cap, Owned s h tn cap →
        (cap.entryKernels[c.arg 12 2]? = none ∨ ¬ControlWord ctl → CommandEnds s t q c 1 0 ∧ OnlyQifs s t ∧ LeavesRing s t q) ∧
        (∀ kernel, cap.entryKernels[c.arg 12 2]? = some kernel → ControlWord ctl →
          (c.arg 40 4 ≠ 0 → Config.ctxTenant ctx ≠ tn → CommandEnds s t q c 11 0 ∧ OnlyQifs s t ∧ LeavesRing s t q) ∧
          (c.arg 40 4 = 0 ∨ Config.ctxTenant ctx = tn → ∃ f, t.pkg.recs = s.pkg.recs ++ [f] ∧
            f.die = (if bits ctl 8 2 = 1 then bits ctl 0 3 else 4) ∧ f.host = some (q, c.tag) ∧ f.issuer = none ∧ f.exempt = false ∧
            (∀ e, cap.body.entries[c.arg 12 2]? = some e → f.task.pc = cap.body.base + BitVec.ofNat 64 e.off) ∧
            f.task.handle = h ∧ f.task.kernel = kernel ∧ f.task.entry = c.arg 12 2 ∧
            f.task.tenant = tn ∧ f.task.ctl = ctl ∧ f.task.deadline = BitVec.ofNat 64 (c.arg 24 8) ∧
            f.task.full = BitVec.ofNat 8 (c.arg 14 1) ∧ f.task.ctx = ctx ∧
            f.task.regs = (List.range 8).map (fun i =>
              if c.arg 32 8 = 0 then 0 else BitVec.ofNat 64 (leAt (s.hostRead q (c.arg 32 8) 64) (8 * i) 8)) ∧
            (t.qif q).cmds = (s.qif q).cmds.erase c ∧ (t.qif q).due = (s.qif q).due ∧ (t.qif q).head = (s.qif q).head ∧ t.mem = s.mem)))) ∧
  (∀ (s : State) (q : Nat) (c : Cmd) (tn : BitVec 8), NextCommand s q 4 c tn →
    let ctx := c.arg 8 4
    let mode := c.arg 12 1
    let g := s.coresOf ctx
    ∃ t, exec (.suspendCtx q) s = .next t ∧
      (c.stage = 0 → mode ≠ 1 → mode ≠ 2 → CommandEnds s t q c 1 0 ∧ OnlyQifs s t) ∧
      (c.stage = 0 → (mode = 1 ∨ mode = 2) → (ctx = 0 ∨ g = [] ∨ Config.ctxTenant ctx ≠ tn) →
        CommandEnds s t q c 11 0 ∧ OnlyQifs s t) ∧
      (c.stage = 0 → (mode = 1 ∨ mode = 2) → ctx ≠ 0 → g ≠ [] → Config.ctxTenant ctx = tn →
        CommandGoesOn s t q c 1 ∧ (∀ n, n ∉ g → t.core n = s.core n) ∧
        (∀ n ∈ g, (t.core n).pre = if mode = 1 then .immediate else .drain (s.now + c.arg 16 4)) ∧
        ∀ n ∈ g, ∀ k < 16, (s.slot n k).st = .ready ∨ (s.slot n k).st = .parked →
          (t.slot n k).stopReq = if mode = 1 then .now_ else .anchor) ∧
      (c.stage ≠ 0 → g = [] → CommandEnds s t q c 11 0 ∧ OnlyQifs s t) ∧
      (c.stage ≠ 0 → g ≠ [] → (s.quiescent g = false ∨ ∃ n ∈ g, (s.core n).quiesced = false) → t = s) ∧
      let bad := (∃ n ∈ g, bit (s.core n).owner 39 = true) ∧ ∃ h ∈ s.saveHeaders ctx g, BadState s h
      (c.stage ≠ 0 → g ≠ [] → s.quiescent g = true → (∀ n ∈ g, (s.core n).quiesced = true) → bad →
        CommandEnds s t q c 11 0 ∧ t.pkg.ctxs = s.pkg.ctxs ∧ t.mem = s.mem ∧
        Tab.get 0 t.pkg.errLog (tileOf (g.headD 0)) = Tab.get 0 s.pkg.errLog (tileOf (g.headD 0)) + 1 ∧
        ∀ n ∈ g, (t.core n).owner = (s.core n).owner ∧ (t.core n).pre = .off ∧ (t.core n).quiesced = false ∧
          ∀ k < 16, t.slot n k =
            if (s.slot n k).st = .stopped ∧ bits (s.slot n k).cause 0 8 = 0 then resumed (s.slot n k) else s.slot n k) ∧
      (c.stage ≠ 0 → g ≠ [] → s.quiescent g = true → (∀ n ∈ g, (s.core n).quiesced = true) → ¬bad →
        CommandEnds s t q c 0 (BitVec.ofNat 64 ((s.stoppedList g).length + if (s.stoppedList g).all (fun x => x.2.2.2) = true then 2 ^ 32 else 0)) ∧
        (∀ n ∈ g, (t.core n).owner = 0 ∧ (t.core n).pre = .off ∧ ∀ k < 16, (t.slot n k).st = .free) ∧
        ∃ v, (Tab.get Ctx.reset t.pkg.ctxs ctx).saved = some v ∧ v.cores = g.map (fun n => (n, s.core n)) ∧
          (∀ p, p ∈ v.slots ↔ ∃ x, (p.1, x) ∈ s.slots ∧ p.1 / 16 ∈ g ∧ x.st = .stopped ∧ p.2 = { x with resv := none }) ∧
          (bit (s.core (g.headD 0)).owner 39 = false → v.segs = []) ∧
          (bit (s.core (g.headD 0)).owner 39 = true →
            let kn := bits (s.core (g.headD 0)).owner 32 7
            (t.keySlot kn).c = (s.keySlot kn).c + 1 ∧ (t.keySlot kn).l = true ∧ v.segs.length = (s.saveHeaders ctx g).length))) ∧
  (∀ (s : State) (q : Nat) (c : Cmd) (tn : BitVec 8), NextCommand s q 5 c tn →
    let ctx := c.arg 8 4
    let saved := (Tab.get Ctx.reset s.pkg.ctxs ctx).saved
    ∃ t, exec (.resumeCtx q) s = .next t ∧
      (saved = none ∨ Config.ctxTenant ctx ≠ tn → CommandEnds s t q c 11 0 ∧ OnlyQifs s t) ∧
      (∀ v, saved = some v → Config.ctxTenant ctx = tn →
        let backs := v.slots.map (s.back v)
        (Back.later ∈ backs → CommandGoesOn s t q c 1 ∧ OnlyQifs s t) ∧
        (Back.later ∉ backs → Back.never ∈ backs → CommandEnds s t q c 6 0 ∧ OnlyQifs s t) ∧
        (Back.later ∉ backs → Back.never ∉ backs → s.placeFree v = false → CommandEnds s t q c 10 0 ∧ OnlyQifs s t) ∧
        (Back.later ∉ backs → Back.never ∉ backs → s.placeFree v = true → (∀ p ∈ v.cores, bit p.2.owner 39 = false) →
          CommandEnds s t q c 0 0 ∧ (Tab.get Ctx.reset t.pkg.ctxs ctx).saved = none ∧
          ((v.slots.map (·.1)).Nodup → ∀ p ∈ v.slots, s.back v p = .same →
            let y := t.slot (p.1 / 16) (p.1 % 16)
            y.g = p.2.g ∧ y.full = p.2.full ∧ y.fst = p.2.fst ∧ y.epc = p.2.epc ∧
            (bits p.2.cause 0 8 ≠ 0 → y.st = p.2.st ∧ y.cause = p.2.cause) ∧
            (bits p.2.cause 0 8 = 0 → y.st = .ready ∧ y.pc = pcDown p.2.epc)) ∧
          ((v.mem.map (·.1)).Nodup → ∀ p ∈ v.mem, t.byteAt p.1 = p.2)) ∧
        (Back.later ∉ backs → Back.never ∉ backs → s.placeFree v = true → (∃ p ∈ v.cores, bit p.2.owner 39 = true) →
          (s.findKey ctx = none → CommandEnds s t q c 7 0 ∧ OnlyQifs s t) ∧
          ∀ u n, s.findKey ctx = some (u, n) →
            let back : List (List Byte) := Config.imageBack u.free v.segs
            let key := u.keySlot n
            ((∀ b ∈ back, ¬StaleSeg key b ∧ TaggedSeg key b) → CommandEnds s t q c 0 0 ∧ (Tab.get Ctx.reset t.pkg.ctxs ctx).saved = none ∧
              (t.keySlot n).st = .active ∧ (t.keySlot n).l = false) ∧
            ∀ (i : Nat) (b : List Byte), back[i]? = some b → (∀ j < i, ∀ d, back[j]? = some d → ¬StaleSeg key d ∧ TaggedSeg key d) →
              (StaleSeg key b → CommandEnds s t q c 8 0 ∧ t.slots = s.slots ∧ t.mem = s.mem) ∧
              (¬StaleSeg key b → ¬TaggedSeg key b → CommandEnds s t q c 9 0 ∧ t.slots = s.slots ∧ t.mem = s.mem)))) ∧
  (∀ (s : State) (q : Nat) (c : Cmd) (tn : BitVec 8), NextCommand s q 10 c tn →
    let ctx := c.arg 8 4
    ∃ t, exec (.endCtx q) s = .next t ∧
      ((Tab.get Ctx.reset s.pkg.ctxs ctx).saved = none ∨ Config.ctxTenant ctx ≠ tn → CommandEnds s t q c 11 0 ∧ OnlyQifs s t) ∧
      ((Tab.get Ctx.reset s.pkg.ctxs ctx).saved ≠ none → Config.ctxTenant ctx = tn →
        CommandEnds s t q c 0 0 ∧ Tab.get Ctx.reset t.pkg.ctxs ctx = Ctx.reset ∧ (∀ e ∈ t.pkg.parked, e.1 ≠ ctx) ∧
        ∀ n, (t.keySlot n).ctx = ctx → (t.keySlot n).st = .empty))

/-- R306, R311, R312, R337 to R339, Table 20.5: `seal` parks with park 3, and then answers DENIED where the request is not allowed, and else writes header, ciphertext and
tag of the segment, with the next segment number; the opening one raises C and clears L, the final one sets L. A destination in a package that
has left the pod raises F_ADDR (R355), and state with an uncorrectable error is not sealed. `unseal` answers DENIED,
STALE_IMAGE or TAG_FAIL in that order, and else opens the segment under the key, which is then ACTIVE; the final one clears L. Registers of a
window whose slot stands with the state that the restore has opened are written there, as far as the window reaches; others wait for that state.
Stores that a thread issued before in the slot still drain (R89).
Where it rests on readings or choices of the model, not on a rule: log entries 24, 25, 26, 67. -/
def Obligations.SegmentsAreSealedAndOpened : Prop :=
  (∀ (s : State) (d a b : Reg) (key : Nat) (l : Loc), PassesP s [a, b] (some d) → s.onChain = false → s.me.st = .ready →
    s.quiet s.curCore s.curSlot = true → (s.src a).toNat % 8 = 0 → OwnBytes s (s.src a) 32 key →
    let h := SegHdr.ofBytes (ownBytes s key 32)
    let dst := s.src b
    let n := if h.lenOk = true then 48 + h.len else 64
    s.locate dst 64 .store false true = .ok l → l.ty = .normal → l.rp = false → (∀ c, l.place ≠ .lmem c) → dst.toNat % 2 ^ 16 + n ≤ 2 ^ 16 →
    let kn := bits (s.core h.core).owner 32 7
    let k := s.keySlot kn
    let opens := h.segw / 2 ^ 30 % 2 = 1
    let final := h.segw / 2 ^ 31 % 2 = 1
    let ctr := if opens then k.c + 1 else k.c
    let seg := if opens then 0 else k.seg
    ∃ r t, exec (.seal d a b) s = .next r ∧ Parked s r 3 (.asked (.seal d (ownBytes s key 32) dst [(dst, l)])) ∧
      State.happen r (.reply s.curCore s.curSlot) = .next t ∧
      (s.lostPlace l dst = none → ¬SealAllowed s h → Answered r t s.curCore s.curSlot d 11) ∧
      (s.lostPlace l dst = none → SealAllowed s h → BadState s h →
        Answered { r with pkg := t.pkg } t s.curCore s.curSlot d 11 ∧ t.mem = s.mem) ∧
      (s.lostPlace l dst = none → SealAllowed s h → ¬BadState s h → Outcome s t d 0 ∧
        (t.keySlot kn).c = ctr ∧ (t.keySlot kn).seg = seg + 1 ∧ (t.keySlot kn).key = k.key ∧
        ((t.keySlot kn).l = true ↔ final ∨ (k.l = true ∧ ¬opens)) ∧ ((t.keySlot kn).openSave = true ↔ ¬final ∧ (opens ∨ k.openSave = true)) ∧
        let hd : SegHdr := { h with ctr := ctr, ctx := bits (s.core h.core).owner 0 32, segw := seg % 2 ^ 31 + if final then 2 ^ 31 else 0 }
        let bytes := segment k.key hd (s.payload h)
        ∀ i < bytes.length, i < n → byteOf (t.wordAs (s.cipherKey s.curCore) (l.key + i)) ((l.key + i) % 8) = bytes.getD i 0)) ∧
  (∀ (s : State) (c k : Nat) (d : Reg) (req : List Byte) (dst : Word) (l : Loc) (f : FaultCode × Word × Word), (s.slot c k).st = .parked →
    (s.slot c k).pend = .asked (.seal d req dst [(dst, l)]) → s.lostPlace l dst = some f →
    ∃ t, State.happen s (.reply c k) = .next t ∧ Faulted s t c k f.1.num f.2.1 f.2.2 false) ∧
  (∀ (s : State) (d a b : Reg) (key : Nat), PassesP s [a, b] (some d) → s.onChain = false → s.me.st = .ready →
    s.quiet s.curCore s.curSlot = true → (s.src a).toNat % 8 = 0 → OwnBytes s (s.src a) 32 key →
    let h := SegHdr.ofBytes (ownBytes s key 32)
    let c := bits (s.src b) 0 12
    let kn := bits (s.core c).owner 32 7
    let k := s.keySlot kn
    let named := bits (s.src b) 12 52 = 0 ∧ isService s.curCore = true ∧ c < 3072 ∧ tileOf c = tileOf s.curCore ∧
      bits (s.core c).owner 0 32 = h.ctx
    let fresh := h.ctr = k.c ∧ k.l = true
    (h.lenOk = true → OwnBytes s (s.src a) (48 + h.len) key) → h.slot < 16 →
    let bytes := ownBytes s key (48 + h.len)
    let whole := h.lenOk = true ∧ segTag k.key h ((bytes.drop 32).take h.len) = bytes.drop (32 + h.len)
    let text := gcm k.key h.nonce ((bytes.drop 32).take h.len)
    let still := h.kind < 2 → (s.slot c h.slot).st = .free ∨ (s.slot c h.slot).st = .stopped
    ∃ t, exec (.unseal d a b) s = .next t ∧
      (¬named → Wrote s t [a, b] d 11 0 0) ∧
      (named → ¬fresh → Wrote s t [a, b] d 8 0 0) ∧
      (named → fresh → ¬whole → Wrote s t [a, b] d 9 0 0) ∧
      (named → fresh → whole → ¬still → Wrote s t [a, b] d 11 0 0) ∧
      (named → fresh → whole → still → Outcome s t d 0 ∧
        (t.keySlot kn).st = .active ∧ (t.keySlot kn).l = decide (¬(h.segw / 2 ^ 31 % 2 = 1)) ∧ (t.keySlot kn).c = k.c ∧
        (h.kind = 0 → (t.slot c h.slot).st = .stopped ∧
          (∀ r : Reg, (t.slot c h.slot).reg r = if r = 0 then 0 else BitVec.ofNat 64 (leAt text (8 * r.toNat) 8)) ∧
          (t.slot c h.slot).epc = BitVec.ofNat 64 (leAt text 136 8) ∧ (t.slot c h.slot).sw = BitVec.ofNat 64 (leAt text 144 8) ∧
          (t.slot c h.slot).fst = BitVec.ofNat 64 (leAt text 152 8) ∧ (t.slot c h.slot).cause = BitVec.ofNat 64 (leAt text 160 8) ∧
          (t.slot c h.slot).buf = (s.slot c h.slot).buf ∧ (t.slot c h.slot).out = (s.slot c h.slot).out) ∧
        (h.kind = 1 → k.restoring = true → (s.slot c h.slot).st = .stopped → (16 * c + h.slot, (s.slot c h.slot).claims) ∈ k.back →
          h.segw / 2 ^ 31 % 2 = 0 →
          let x := s.slot c h.slot
          (∀ j < h.len / 128, h.off + j < 4 * x.vsize → ∀ i < 32,
            (t.core c).lane (4 * x.vbase + h.off + j) i = BitVec.ofNat 32 (leAt text (128 * j + 4 * i) 4)) ∧
          ∀ r i, i < 32 → ¬(4 * x.vbase ≤ r ∧ r < 4 * (x.vbase + x.vsize)) → (t.core c).lane r i = (s.core c).lane r i) ∧
        (h.kind = 1 → h.segw / 2 ^ 31 % 2 = 0 →
          ¬(k.restoring = true ∧ (s.slot c h.slot).st = .stopped ∧ (16 * c + h.slot, (s.slot c h.slot).claims) ∈ k.back) →
          (t.core c).vf = (s.core c).vf) ∧
        (h.kind = 2 → h.off % 8 = 0 → h.off + h.len ≤ 2 ^ 18 → ∀ i < h.len / 8,
          t.wordAs (s.cipherKey c) (2 ^ 56 + c * 2 ^ 18 + h.off + 8 * i) = BitVec.ofNat 64 (leAt text (8 * i) 8))))

/-- R306, R339: `keyld` puts a fresh key with counter 0 into an EMPTY key slot, or a wrapped one back, IDLE; `keyclr` empties a key slot that no
slot uses, and with bit 8 wraps it out first; `ownset` gives a core on which every slot is FREE another owner, and clears the core where
more than the key slot differs, its FREE slots with it, and what their threads have stored there (R344, R346). The outcome stands in `k.fault`: 1 for one that is in use, 2 for a malformed operand, 3 for a blob that
does not open; an uncorrectable error in a blob raises F_DATA (R298).
Where it rests on readings or choices of the model, not on a rule: log entries 26, 27, 67. -/
def Obligations.KeysAndOwnersAreSet : Prop :=
  (∀ (s : State) (a b : Reg), Passes s .security false [] [] [a, b] none →
    let x := s.src a
    let y := s.src b
    let n := bits x 0 7
    let formed := bit x 7 = false ∧ bits x 9 55 = 0 ∧
      (if bit x 8 = true then bits y 18 46 = 0 ∧ bits y 0 18 + 80 ≤ 2 ^ 18 else bits y 32 32 = 0)
    ∃ t, exec (.keyld a b) s = .next t ∧
      (¬formed → KeyOutcome s t [a, b] 2 ∧ t.pkg = s.pkg) ∧
      (formed → (s.keySlot n).st ≠ .empty → KeyOutcome s t [a, b] 1 ∧ t.pkg = s.pkg) ∧
      (formed → (s.keySlot n).st = .empty → bit x 8 = false → KeyOutcome s t [a, b] 0 ∧
        (t.keySlot n).st = .active ∧ (t.keySlot n).ctx = bits y 0 32 ∧ (t.keySlot n).c = 0 ∧ (t.keySlot n).l = false ∧
        (t.keySlot n).key = s.pkg.keyCount + 1 ∧ t.pkg.keyCount = s.pkg.keyCount + 1 ∧ ∀ m, m ≠ n → t.keySlot m = s.keySlot m) ∧
      (formed → (s.keySlot n).st = .empty → bit x 8 = true →
        let bad (i : Nat) : Bool := s.badWord (2 ^ 56 + securityCore * 2 ^ 18 + bits y 0 18 + i)
        let whole := ∀ i < 80, bad i = false
        (∀ i < 80, bad i = true → (∀ j < i, bad j = false) →
          Stops s t 27 (BitVec.ofNat 64 (0xFFFFFF0000000000 + (bits y 0 18 + i) / 8 * 8)) 0) ∧
        (whole → (∀ k ∈ s.pkg.wrapped, k.blob ≠ s.blobAt (bits y 0 18)) → KeyOutcome s t [a, b] 3 ∧ t.pkg = s.pkg) ∧
        (whole → (∃ k ∈ s.pkg.wrapped, k.blob = s.blobAt (bits y 0 18)) → KeyOutcome s t [a, b] 0 ∧
          ∃ k ∈ s.pkg.wrapped, k.blob = s.blobAt (bits y 0 18) ∧ t.keySlot n = { k with st := .idle }))) ∧
  (∀ (s : State) (a : Reg), Passes s .security false [] [] [a] none → s.me.st = .ready →
    let x := s.src a
    let n := bits x 0 7
    let o := bits x 32 18
    let formed := bit x 7 = false ∧ bits x 9 23 = 0 ∧ bits x 50 14 = 0 ∧ (bit x 8 = true → o % 16 = 0 ∧ o + 80 ≤ 2 ^ 18)
    let busy := (bit x 8 = true ∧ (s.keySlot n).st = .active) ∨ KeyInUse s n
    ∃ t, exec (.keyclr a) s = .next t ∧
      (¬formed → KeyOutcome s t [a] 2 ∧ t.pkg = s.pkg ∧ t.mem = s.mem) ∧
      (formed → busy → KeyOutcome s t [a] 1 ∧ t.pkg = s.pkg ∧ t.mem = s.mem) ∧
      (formed → ¬busy → t.me.fault = 0 ∧ t.me.pc = s.me.advance.pc ∧ (t.keySlot n).st = .empty ∧ (∀ m, m ≠ n → t.keySlot m = s.keySlot m) ∧
        (bit x 8 = false → t.mem = s.mem) ∧
        (bit x 8 = true → t.pkg.wrapped = s.pkg.wrapped ++ [s.keySlot n] ∧
          ∀ i < 80, byteOf (t.wordAs 0 (2 ^ 56 + securityCore * 2 ^ 18 + o + i)) ((o + i) % 8) = (s.keySlot n).blob.getD i 0))) ∧
  (∀ (s : State) (a b : Reg), Passes s .security false [] [] [a, b] none → s.me.st = .ready →
    let c := (s.src a).toNat
    let v := s.src b
    let formed := c < 3072 ∧ bits v 40 24 = 0 ∧ (bit v 39 = true ∨ bits v 32 7 = 0)
    let busy := ∃ k < 16, (s.slot c k).st ≠ .free
    ∃ t, exec (.ownset a b) s = .next t ∧
      (¬formed → KeyOutcome s t [a, b] 2 ∧ t.mem = s.mem ∧ ∀ n, (t.core n).owner = (s.core n).owner) ∧
      (formed → busy → KeyOutcome s t [a, b] 1 ∧ t.mem = s.mem ∧ ∀ n, (t.core n).owner = (s.core n).owner) ∧
      (formed → ¬busy → t.me.fault = 0 ∧ t.me.pc = s.me.advance.pc ∧ (t.core c).owner = v ∧ (∀ n, n ≠ c → (t.core n).owner = (s.core n).owner) ∧
        ((∀ i < 64, (32 ≤ i ∧ i < 39) ∨ bit v i = bit (s.core c).owner i) → t.mem = s.mem ∧ (t.core c).vf = (s.core c).vf) ∧
        ((∃ i < 32, bit v i ≠ bit (s.core c).owner i) → (t.core c).vf = [] ∧ (t.core c).latch = 0 ∧ (∀ k, t.chainOut c k = []) ∧
          (∀ o < 2 ^ 18, t.byteAt (2 ^ 56 + c * 2 ^ 18 + o) = 0) ∧
          ∀ k < 16, t.slot c k = { Slot.reset with
            claims := (s.slot c k).claims, buf := (s.slot c k).buf.filter (fun e => e.loc.place ≠ .lmem c), out := (s.slot c k).out })))

/-- R320 to R323, R372, R375, R379, R382, R391, R392: a command of an interface whose index names no tenant ends with DENIED, the model's choice, and
one that ROM recovery does not answer with BAD_COMMAND; none starts while an UPDATE runs. QUERY gives the generation, or a capsule's state and
version; DELETE removes a capsule that nothing refers to, with its queues and its body's pages; PLACE writes its data image to local memory of
an unprotected context, each word full, or byte for byte to where its pages lead, if all can be reached; DEBUG moves the Acoon form, the
registers of a stopped slot and the live values of a saved one to the host, or values back, and sets breakpoint anchors of the context by
number; UPDATE waits until no context runs, copies the image, and makes every capsule
VOID, or goes to ROM recovery where the image does not verify, with what other interfaces have fetched; in ROM recovery the module then resets;
ATTEST writes the responder's answer to the host. Registers that hold an uncorrectable error do not leave the module: DENIED (R298); one that
DEBUG writes whole holds none any more (R299).
Where it rests on readings or choices of the model, not on a rule: log entries 16, 26, 35 (the codes of ERROR), 36, 37, 38, 49 (BAD_COMMAND without an
ATTEST entry), 67, 71, 72, 74. -/
def Obligations.FirmwareCommandsAnswer : Prop :=
  (∀ (s : State) (i : Instr) (q code : Nat), commandOf i = some (q, code) →
    ∃ t, exec i s = .next t ∧ (s.findCmd q code = none → t = s) ∧
      ∀ c, s.findCmd q code = some c →
        (s.pkg.boot = .recovery → code ≠ 7 → code ≠ 8 → code ≠ 11 → CommandEnds s t q c 1 0 ∧ OnlyQifs s t) ∧
        (s.pkg.boot ≠ .recovery → s.qifTenant q = none → CommandEnds s t q c 11 0 ∧ OnlyQifs s t)) ∧
  (∀ (s : State) (i : Instr) (q code : Nat), commandOf i = some (q, code) → s.pkg.updating = true →
    (∀ c ∈ (s.qif q).cmds, c.code = code → c.stage = 0) → exec i s = .next s) ∧
  (∀ (s : State) (q : Nat) (c : Cmd) (tn : BitVec 8), NextCommand s q 11 c tn →
    let h := c.arg 8 4
    ∃ t, exec (.queryCmd q) s = .next t ∧ OnlyQifs s t ∧
      (h = 0 → CommandEnds s t q c 0 (BitVec.ofNat 64 (0x31347167 + if s.pkg.boot = .recovery then 2 ^ 32 else 0))) ∧
      (h ≠ 0 → (∀ cap, ¬Owned s h tn cap) → CommandEnds s t q c 3 0) ∧
      (h ≠ 0 → ∀ cap, Owned s h tn cap →
        CommandEnds s t q c 0 (BitVec.ofNat 64 (cap.version + (match cap.st with
          | .valid => 0
          | .void => 1
          | .rebuilding => 2
          | .deleted => 3) * 2 ^ 32)))) ∧
  (∀ (s : State) (q : Nat) (c : Cmd) (tn : BitVec 8), NextCommand s q 6 c tn →
    let h := c.arg 8 4
    ∃ t, exec (.deleteCapsule q) s = .next t ∧
      ((∀ cap, ¬Owned s h tn cap) → CommandEnds s t q c 3 0 ∧ OnlyQifs s t) ∧
      (∀ cap, Owned s h tn cap →
        (cap.st = .rebuilding ∨ InUse s h → CommandEnds s t q c 5 0 ∧ OnlyQifs s t) ∧
        (cap.st ≠ .rebuilding → ¬InUse s h → CommandEnds s t q c 0 0 ∧
          (∃ new, t.capsule? h = some new ∧ new.st = .deleted ∧ new.body.words = [] ∧ new.body.entries = [] ∧ new.refs = [] ∧ new.object = [] ∧
            new.parts = []) ∧
          ((∀ d < 8, Tab.wf XQueue.reset (s.die d).xq) → ∀ d < 8, ∀ n, (s.xq d n).handle = h → (s.xq d n).cfg ≠ [] →
            bit ((t.xq d n).dw 0) 30 = false ∧ (t.xq d n).toks = []) ∧
          (∀ f ∈ t.pkg.recs, f.task.handle ≠ h) ∧
          let base := cap.body.base.toNat
          let size := 4 * cap.body.words.length
          (∀ c e, e ∈ (t.core c).itlb → e.tenant = cap.tenant → overlap e.va e.size base size = false) ∧
          (∀ d < 8, ∀ i < ceilDiv size (2 ^ 16), ∀ rd wr fetch e,
            let r := t.tenantDie d cap.tenant.toNat
            r.ptab ≠ 0 → base + i * 2 ^ 16 < 2 ^ 57 →
              t.walk cap.tenant r.ptab r.s2b r.s2l (BitVec.ofNat 64 (base + i * 2 ^ 16)) rd wr fetch = .entry e → e.page ≠ 2 ^ 16)))) ∧
  (∀ (s : State) (q : Nat) (c : Cmd) (tn : BitVec 8), NextCommand s q 13 c tn →
    let kind := c.arg 12 1
    let off := c.arg 24 4
    let core := c.arg 14 2
    let at_ := c.arg 16 8
    ∃ t, exec (.placeImage q) s = .next t ∧
      ((∀ cap, ¬Owned s (c.arg 8 4) tn cap) → CommandEnds s t q c 3 0 ∧ OnlyQifs s t) ∧
      (∀ cap, Owned s (c.arg 8 4) tn cap →
        let n := if c.arg 28 4 = 0 then cap.image.length - off else c.arg 28 4
        let formed := kind ≤ 1 ∧ off % 64 = 0 ∧ c.arg 28 4 % 64 = 0 ∧ off + n ≤ cap.image.length ∧ (kind = 0 → core = 0)
        let owner := (s.core core).owner
        let mine := core ≤ 3071 ∧ at_ + n ≤ 2 ^ 18 ∧ bits owner 0 32 ≠ 0 ∧ bit owner 39 = false ∧ Config.ctxTenant (bits owner 0 32) = tn
        let l := (cap.image.drop off).take n
        let va (i : Nat) : Word := BitVec.ofNat 64 at_ + BitVec.ofNat 64 i
        (¬formed → CommandEnds s t q c 1 0 ∧ OnlyQifs s t) ∧
        (formed → kind = 1 → ¬mine ∨ (s.core core).health = .retired → CommandEnds s t q c 11 0 ∧ OnlyQifs s t) ∧
        (formed → kind = 1 → mine → (s.core core).health = .stopped → t = s) ∧
        (formed → kind = 1 → mine → (s.core core).health = .ok → CommandEnds s t q c 0 0 ∧ BytesAt t (2 ^ 56 + core * 2 ^ 18 + at_) l ∧
          ∀ i < n, t.wordFull (2 ^ 56 + core * 2 ^ 18 + at_ + i) = true) ∧
        let leadsTo (i : Nat) (x : Loc) : Prop := Translated (va i) ∧ s.resolveVa 4 tn (va i) true false true = .ok x ∧ plainLoc x = true
        (formed → kind = 0 → (∃ i < n, ∀ x, ¬leadsTo i x) → CommandEnds s t q c 11 0 ∧ OnlyQifs s t) ∧
        (formed → kind = 0 → (∀ i < n, ∃ x, leadsTo i x) → CommandEnds s t q c 0 0 ∧
          (∀ i < n, ∀ x, leadsTo i x → (∀ j < n, ∀ y, leadsTo j y → y.key = x.key → j = i) →
            byteOf (t.wordAs 0 x.key) (x.key % 8) = l.getD i 0 ∧ (x.ty = .sync → t.wordFull x.key = true)) ∧
          ((∀ i < n, ∀ x, leadsTo i x → x.rp = false) → ∀ a, (∀ i < n, ∀ x, leadsTo i x → x.key / 8 ≠ a / 8) → t.byteAt a = s.byteAt a)))) ∧
  (∀ (s : State) (q : Nat) (c : Cmd) (tn : BitVec 8), NextCommand s q 12 c tn →
    let ctx := c.arg 8 4
    let op := c.arg 12 1
    let slot := c.arg 13 1
    let core := c.arg 14 2
    let saved := (Tab.get Ctx.reset s.pkg.ctxs ctx).saved
    let x := s.slot core slot
    let ours := ctx ≠ 0 ∧ Config.ctxTenant ctx = tn ∧ (∀ n ∈ s.coresOf ctx, bit (s.core n).owner 39 = false) ∧
      ∀ v, saved = some v → ∀ p ∈ v.cores, bit p.2.owner 39 = false
    ∃ t, exec (.debugCmd q) s = .next t ∧
      (¬ours → CommandEnds s t q c 11 0 ∧ OnlyQifs s t) ∧
      (ours → 5 < op → CommandEnds s t q c 1 0 ∧ OnlyQifs s t) ∧
      (ours → op ≤ 3 → 15 < slot ∨ 3071 < core → CommandEnds s t q c 11 0 ∧ OnlyQifs s t) ∧
      (op = 3 → ours → saved = none → bits (s.core core).owner 0 32 ≠ ctx ∨ x.st ≠ .stopped → CommandEnds s t q c 11 0 ∧ OnlyQifs s t) ∧
      (op = 0 → ours → slot ≤ 15 → core ≤ 3071 → saved = none → bits (s.core core).owner 0 32 = ctx → x.st ≠ .free → ∀ r cap, x.kern = some r →
        s.capsule? r.handle = some cap →
        let l := (cap.parts.flatMap (·.form)).take (c.arg 32 4)
        CommandEnds s t q c 0 (BitVec.ofNat 64 l.length) ∧ HostBytes s t q (c.arg 24 8) l) ∧
      let bad3 := x.badG ≠ 0 ∨ ∃ r < 4 * x.vsize, 4 * x.vbase + r ∈ (s.core core).badV
      let denied := CommandEnds s t q c 11 0 ∧ t.mem = s.mem ∧ Tab.get 0 t.pkg.errLog (tileOf core) = Tab.get 0 s.pkg.errLog (tileOf core) + 1
      (op = 3 → ours → slot ≤ 15 → core ≤ 3071 → saved = none → bits (s.core core).owner 0 32 = ctx → x.st = .stopped → bad3 → denied) ∧
      (op = 3 → ours → slot ≤ 15 → core ≤ 3071 → saved = none → bits (s.core core).owner 0 32 = ctx → x.st = .stopped → ¬bad3 →
        let l := ((List.range 16).flatMap (fun r => leBytes 8 (x.reg (BitVec.ofNat 4 r)).toNat) ++
          (List.range (4 * x.vsize)).flatMap (fun r => (List.range 32).flatMap (fun j =>
            leBytes 4 ((s.core core).lane (4 * x.vbase + r) j).toNat))).take (c.arg 32 4)
        CommandEnds s t q c 0 (BitVec.ofNat 64 l.length) ∧ HostBytes s t q (c.arg 24 8) l) ∧
      (∀ v y e, op = 1 ∨ op = 2 → ours → slot ≤ 15 → core ≤ 3071 → saved = some v → Tab.find? v.slots (16 * core + slot) = some y →
        s.debugAnchor y (Tab.get none v.anchors (16 * core + slot)) = some e →
        let vf := ((Tab.find? v.cores core).map (·.vf)).getD []
        let live := liveFrom e (c.arg 16 4)
        let out := (live.flatMap (fun p => liveBytes y vf p.2)).take (c.arg 32 4)
        let w := writeLive y vf live (s.hostRead q (c.arg 24 8) (c.arg 32 4))
        let badV := ((Tab.find? v.cores core).map (·.badV)).getD []
        let bad1 := ∃ p ∈ live, (∃ n, p.2 = .g n ∧ y.badG.getLsbD n.toNat = true) ∨ ∃ n, p.2 = .v n ∧ 4 * y.vbase + n.toNat ∈ badV
        (op = 1 → bad1 → denied) ∧
        (op = 1 → ¬bad1 → CommandEnds s t q c 0 (BitVec.ofNat 64 out.length) ∧ HostBytes s t q (c.arg 24 8) out) ∧
        (op = 2 → CommandEnds s t q c 0 (BitVec.ofNat 64 w.2.2) ∧ t.mem = s.mem ∧
          ∃ u, (Tab.get Ctx.reset t.pkg.ctxs ctx).saved = some u ∧ (16 * core + slot, w.1) ∈ u.slots ∧
            ∀ z, Tab.find? v.cores core = some z → ∃ z', Tab.find? u.cores core = some z' ∧ z'.vf = w.2.1 ∧
              z'.badV = badAfter y badV live (c.arg 32 4))) ∧
      (op = 4 ∨ op = 5 → ours →
        let old := (Tab.get Ctx.reset s.pkg.ctxs ctx).bkpts
        CommandEnds s t q c 0 0 ∧ t.mem = s.mem ∧ (old.Nodup → ∀ b, b ∈ (Tab.get Ctx.reset t.pkg.ctxs ctx).bkpts ↔
          (b = c.arg 16 4 ∧ op = 4) ∨ (b ≠ c.arg 16 4 ∧ b ∈ old)))) ∧
  (∀ (s : State) (q : Nat) (c : Cmd) (tn : BitVec 8), NextCommand s q 7 c tn → s.pkg.boot = .running →
    let image := s.hostRead q (c.arg 8 8) (c.arg 16 4)
    let run := ∃ p ∈ s.slots, isCompute (p.1 / 16) = true ∧ p.2.st ≠ .free
    ∃ t, exec (.updateFw q) s = .next t ∧
      (c.stage = 0 → run → CommandEnds s t q c 12 0 ∧ OnlyQifs s t) ∧
      (c.stage = 0 → ¬run → CommandGoesOn s t q c 1 ∧ t.pkg.updating = true ∧ t.pkg.fw = .partialCopy) ∧
      (c.stage ≠ 0 → imageOk image = true → CommandEnds s t q c 0 0 ∧ t.pkg.fw = .good image ∧ t.pkg.updating = false ∧
        ∀ h cap, t.capsule? h = some cap → cap.st = .void ∨ cap.st = .deleted) ∧
      (c.stage ≠ 0 → imageOk image = false → InRecovery t ∧ t.pkg.fw = .bad ∧ t.pkg.updating = false ∧
        (∀ n, (t.qif n).cmds = if n = q then (s.qif n).cmds.erase c else (s.qif n).cmds) ∧
        ((s.qif q).tstate ≠ .error → ⟨BitVec.ofNat 32 c.tag, 11, 0⟩ ∈ (t.qif q).due))) ∧
  (∀ (s : State) (q : Nat) (c : Cmd) (tn : BitVec 8), NextCommand s q 7 c tn → s.pkg.boot = .recovery →
    let image := s.hostRead q (c.arg 8 8) (c.arg 16 4)
    ∃ t, exec (.updateFw q) s = .next t ∧ (c.stage = 0 → imageOk image = false → CommandEnds s t q c 11 0 ∧ OnlyQifs s t) ∧
      (c.stage = 0 → imageOk image = true → t.pkg.fw = .good image ∧ t.pkg.boot = .recovery) ∧
      (c.stage ≠ 0 → (s.qif q).due ≠ [] → t = s) ∧
      (c.stage ≠ 0 → (s.qif q).due = [] → Cold s t ∧ t.pkg.fw = s.pkg.fw ∧
        ∃ failed < 7, exec (.powerOn failed) { s with free := s.free + 1 } = .next t)) ∧
  (∀ (s : State) (q : Nat) (c : Cmd) (tn : BitVec 8), NextCommand s q 8 c tn →
    let msg := s.hostRead q (c.arg 8 8) (c.arg 16 4)
    let absent := s.pkg.boot = .running ∧ s.hasFeature 5 = false
    ∃ t, exec (.attestCmd q) s = .next t ∧ (absent → CommandEnds s t q c 1 0 ∧ OnlyQifs s t) ∧
      (¬absent →
        let r := t.pkg.spdm.last
        HostBytes s t q (c.arg 24 8) (r.bytes.take (c.arg 32 4)) ∧
        (reqOf msg = none → r = .error 7) ∧
        (∀ x, reqOf msg = some x → ¬InTurn x s.pkg.spdm.phase s.pkg.spdm.session → r = .error 4) ∧
        (reqOf msg ≠ some .vendorDefined → CommandEnds s t q c 0 (BitVec.ofNat 64 (min r.bytes.length (c.arg 32 4))))))

/-- R159, R332, R374: a notify in RUN sets the notice bits of the firmware's service core and the tail, and fetches entries from head on; under a
tail beyond the ring the entry at head completes with BAD_COMMAND, as does one that its command does not allow; a LAUNCH stays at the head of
the ring; a completion that is due is written with its phase where the ring has room; `cqhead`
makes room. R372, R376, R377: an interface is locked with its indices 0, runs, and stops once its commands are complete; a write to a frozen
field moves it to ERROR; and a function-level reset unlocks the interfaces of a logical device, ends the system calls, contexts and records
of its tenants. R371, R376, R379, R382: only interfaces of logical devices that the module presents take notifies; TDISP requests act in the open
secured session, if the module has that feature, and join its transcript with their answers; outside one they are refused with ERROR. R391: in ROM
recovery, where nothing is locked, a write to a field takes effect.
Where it rests on readings or choices of the model, not on a rule: log entries 32, 33, 35 (the code of ERROR), 49 (a package without a TDISP entry takes
none), 70, 74, 83, 88. -/
def Obligations.InterfacesFetchCompleteAndReset : Prop :=
  (∀ (s : State) (q tail : Nat), s.listening q = true →
    let x := s.qif q
    let open_ := x.tstate = .run ∧ x.stopping = false ∧ Presented s x.ld
    let stalled := (x.due ≠ [] ∧ (x.ctail + 1) % 2 ^ x.s = x.cqhead) ∨ x.stopping = true ∨ x.atHead = true
    let next := (x.head + 1) % 2 ^ x.s
    let bytes := s.hostRead q (x.sqbase + 64 * x.head) 64
    let refused := x.due ++ [⟨BitVec.ofNat 32 (leAt bytes 4 4), 1, 0⟩]
    ∃ t, exec (.notify q tail) s = .next t ∧ t.mem = s.mem ∧ (¬open_ → t = s) ∧
      (open_ → Noticed s t (serviceCore (Config.notifyTile q % 96))) ∧
      (open_ → 2 ^ x.s ≤ tail → stalled → t.qif q = { x with badTail := true }) ∧
      (open_ → 2 ^ x.s ≤ tail → ¬stalled → x.tail = x.head →
        t.qif q = { x with head := next, tail := next, badTail := false, due := refused }) ∧
      (open_ → tail < 2 ^ x.s → x.badTail = false → tail = x.head ∨ stalled → t.qif q = { x with tail := tail }) ∧
      (open_ → tail < 2 ^ x.s → x.badTail = false → ¬stalled → tail ≠ x.head → tail = next →
        (entryOk bytes = false → t.qif q = { x with head := next, tail := next, due := refused }) ∧
        (entryOk bytes = true → bytes.getD 0 0 ≠ 3 → t.qif q = { x with head := next, tail := next, cmds := x.cmds ++ [⟨bytes, 0⟩] }) ∧
        (entryOk bytes = true → bytes.getD 0 0 = 3 →
          t.qif q = { x with tail := next, cmds := x.cmds ++ [⟨bytes, 0⟩], atHead := true }))) ∧
  (∀ (s : State) (q v : Nat),
    let x := s.qif q
    let n := 2 ^ x.s
    let taken := s.listening q = true ∧ Presented s x.ld ∧ v < n ∧ (v + n - x.cqhead) % n ≤ (x.ctail + n - x.cqhead) % n
    ∃ t, exec (.cqheadWrite q v) s = .next t ∧ (¬taken → t = s) ∧ (taken → (t.qif q).cqhead = v ∧ (t.qif q).ctail = x.ctail ∧ t.mem = s.mem)) ∧
  (∀ (s : State) (q : Nat) (c : Completion) (rest : List Completion), (s.qif q).due = c :: rest →
    let x := s.qif q
    let written := (x.ctail + 1) % 2 ^ x.s ≠ x.cqhead ∧ (x.tstate = .run ∨ x.tstate = .locked ∨ s.pkg.boot = .recovery)
    ∃ t, exec (.completionWrite q) s = .next t ∧ (¬written → t = s) ∧
      (written → (t.qif q).ctail = (x.ctail + 1) % 2 ^ x.s ∧
        (t.qif q).phase = (if (x.ctail + 1) % 2 ^ x.s = 0 then !x.phase else x.phase) ∧ (∃ l, (t.qif q).due = rest ++ l) ∧
        (x.cqbase % 16 = 0 → HostBytes s t q (x.cqbase + 16 * x.ctail)
          (leBytes 4 c.tag.toNat ++ leBytes 1 c.status ++ leBytes 1 x.phase.toNat ++ leBytes 2 0 ++ leBytes 8 c.result.toNat)))) ∧
  (∀ (s : State) (q : Nat), s.pkg.boot = .running → q < 4096 →
    let x := s.qif q
    let session := s.hasFeature 4 = true ∧ s.pkg.spdm.session = 2
    let refused := s.hasFeature 4 = true ∧ s.pkg.spdm.session ≠ 2
    let answer : State := { s with pkg := { s.pkg with spdm := { s.pkg.spdm with last := .error 4 } } }
    let heard (kind : Nat) : State :=
      let old := s.pkg.spdm.transcript
      let msg := Config.tdispMessage s.free kind q
      let resp := SpdmResp.ok (SpdmReq.vendorDefined.code - 0x80) (Config.spdmBody SpdmReq.vendorDefined.code old msg)
      { s with free := s.free + 1, pkg := { s.pkg with spdm := { s.pkg.spdm with transcript := old ++ msg ++ resp.bytes, last := resp } } }
    ∃ t u v, exec (.lockInterfaceRequest q) s = .next t ∧ exec (.startInterfaceRequest q) s = .next u ∧ exec (.stopInterfaceRequest q) s = .next v ∧
      (session → x.tstate = .unlocked → t.qif q = { x with
        tstate := .locked, head := 0, tail := 0, cqhead := 0, ctail := 0, phase := true, cmds := [], due := [],
        atHead := false, badTail := false }) ∧
      (session → x.tstate ≠ .unlocked → t = heard 0) ∧
      (session → x.tstate = .locked → u.qif q = { x with tstate := .run }) ∧ (session → x.tstate ≠ .locked → u = heard 1) ∧
      (session → x.stopping = false → Stopped (heard 2) v q) ∧ (x.stopping = true → Stopped s v q) ∧
      (session → t.pkg.spdm = (heard 0).pkg.spdm ∧ u.pkg.spdm = (heard 1).pkg.spdm ∧
        (x.stopping = false → v.pkg.spdm = (heard 2).pkg.spdm)) ∧
      (refused → t = answer ∧ u = answer ∧ (x.stopping = false → v = answer)) ∧
      (s.hasFeature 4 = false → t = s ∧ u = s ∧ (x.stopping = false → v = s))) ∧
  (∀ (s : State) (q word : Nat) (v : Word), s.listening q = true →
    let x := s.qif q
    let recovery := s.pkg.boot = .recovery
    let written : QIf := if word = 0 then
          { x with sqbase := bits v 12 52 * 4096, s := min 12 (max 4 (bits v 8 4)), ld := bits v 4 4 }
        else if word = 1 then { x with cqbase := bits v 12 52 * 4096, tenant := BitVec.ofNat 8 (bits v 8 4) }
        else { x with pasid := bits v 24 20 }
    ∃ t, exec (.frozenFieldWrite q word v) s = .next t ∧
      (2 < word → t = s) ∧
      (word ≤ 2 → ¬recovery → x.tstate = .locked ∨ x.tstate = .run → t.qif q = { x with tstate := .error, due := [] }) ∧
      (¬recovery → x.tstate = .error → t = s) ∧ (word ≤ 2 → ¬recovery → x.tstate = .unlocked → t.qif q = written) ∧
      (word ≤ 2 → recovery → t.qif q = { written with ld := 0 })) ∧
  (∀ (s : State) (ld reg : Nat) (v : BitVec 32), s.pkg.boot = .running →
    let x := Tab.get LDev.reset s.pkg.lds ld
    ∃ t, exec (.hostConfigurationWrite ld reg v) s = .next t ∧ (¬Presented s ld → t = s) ∧
      (Presented s ld → Tab.get LDev.reset t.pkg.lds ld = { x with config := Tab.set 0 x.config reg v, tscope := (Config.emulate ld reg v).getD x.tscope } ∧
      t = { s with pkg := { s.pkg with lds := t.pkg.lds } })) ∧
  (∀ (s : State) (ld : Nat), s.pkg.boot = .running → Presented s ld → Tab.wf Slot.reset s.slots →
    let tenants := (Tab.get LDev.reset s.pkg.lds ld).tenants
    ∃ t, exec (.ldFunctionLevelReset ld) s = .next t ∧
      (∀ q, (s.qif q).ld = ld → (t.qif q).tstate = .unlocked ∧ (t.qif q).due = [] ∧ (t.qif q).atHead = false ∧ (t.qif q).cmds = []) ∧
      (t.pkg.updating = true ↔ s.pkg.updating = true ∧ ∀ e ∈ s.pkg.qifs, e.2.ld = ld → ∀ c ∈ e.2.cmds, ¬(c.code = 7 ∧ 0 < c.stage)) ∧
      (∀ d l, (t.die d).steal = .reply l → ∀ r ∈ l, r.tenant ∉ tenants) ∧
      (∀ q, (s.qif q).ld ≠ ld → t.qif q = s.qif q) ∧
      (∀ d r, r ∈ (t.die d).recs ↔ r ∈ (s.die d).recs ∧ r.tenant ∉ tenants) ∧ (∀ f ∈ t.pkg.recs, f.task.tenant ∉ tenants) ∧
      (∀ c k n ans, k < 16 → (s.slot c k).st = .parked → (s.slot c k).pend = .sysc n ans → (s.slot c k).tenant ∈ tenants →
        (t.slot c k).st = .ready ∧ (t.slot c k).reg 1 = 4 ∧ (t.slot c k).pc = (s.slot c k).wakeNext.pc) ∧
      (∀ n < 3072, bits (s.core n).owner 0 32 ≠ 0 → Config.ctxTenant (bits (s.core n).owner 0 32) ∈ tenants →
        (t.core n).pre = .immediate ∧ (Tab.get Ctx.reset t.pkg.ctxs (bits (s.core n).owner 0 32)).ending = true) ∧ t.mem = s.mem)

/-- R379, R380: the responder answers a request that comes in its order and that it follows, and enters both into the transcript; one that comes in its
order and is not followed joins it with ERROR InvalidRequest; one out of order gets UnexpectedRequest, and nothing else changes; a request that it
does not support gets UnsupportedRequest. GET_VERSION
begins a transcript; NEGOTIATE_ALGORITHMS is followed only where it offers all four algorithms of R379, which it then settles; KEY_EXCHANGE opens
a session, FINISH makes it secure, END_SESSION ends it. The request codes and error codes are those of
SPDM 1.3, the model's choice.
Where it rests on readings or choices of the model, not on a rule: log entry 35. -/
def Obligations.RequestsAreAnsweredInOrder : Prop :=
  ∀ (s : State) (i : Instr) (r : Option SpdmReq) (chan : Nat) (msg : List Byte), spdmOf i = some (r, chan, msg) →
    let heard := (s.pkg.boot = .running ∨ s.pkg.boot = .recovery) ∧ chan ≤ 1 ∧ reqOf msg = r
    let p := s.pkg.spdm
    ∃ t, exec i s = .next t ∧ (¬heard → t = s) ∧
      (heard → r = none → t = { s with pkg := { s.pkg with spdm := { p with
        last := .error 7, transcript := p.transcript ++ msg ++ (SpdmResp.error 7).bytes } } }) ∧
      (heard → ∀ x, r = some x →
        let start := if x = .getVersion then [] else p.transcript
        (¬InTurn x p.phase p.session → t = { s with pkg := { s.pkg with spdm := { p with last := .error 4 } } }) ∧
        (InTurn x p.phase p.session → ¬Followed s x msg → t = { s with pkg := { s.pkg with spdm := { p with
          last := .error 1, transcript := start ++ msg ++ (SpdmResp.error 1).bytes } } }) ∧
        (InTurn x p.phase p.session → Followed s x msg → ∃ body,
          let v := t.pkg.spdm
          v.last = .ok (x.code - 0x80) body ∧ v.transcript = start ++ msg ++ (SpdmResp.ok (x.code - 0x80) body).bytes ∧
          (x = .getMeasurements → ∃ more, body = s.measurements ++ more) ∧
          v.phase = (if x = .getVersion then .version else if x = .getCapabilities then .capabilities
            else if x = .negotiateAlgorithms then .negotiated else p.phase) ∧
          v.session = (if x = .getVersion ∨ x = .endSession then 0 else if x = .keyExchange then 1 else if x = .finish then 2 else p.session) ∧
          v.algs = (if x = .getVersion then [] else if x = .negotiateAlgorithms then [.sha384, .ecdsaP384, .ecdheP384, .aes256Gcm] else p.algs) ∧
          v.keyUpdates = (if x = .getVersion then 0 else if x = .keyUpdate then p.keyUpdates + 1 else p.keyUpdates) ∧
          (x ≠ .vendorDefined → t.pkg.qifs = s.pkg.qifs) ∧
          (x = .vendorDefined → ∀ q, Config.tdispRequest msg = some (0, q) → q < 4096 → (s.qif q).tstate = .unlocked →
            (t.qif q).tstate = .locked)))

/-- R388 to R392: power-on with a good image brings the module up, with its four measurement registers (R380) and its capability list (R382), and with
none, or where a later step fails, into ROM recovery; cores that fail the self-test are replaced by their cluster's spare or retired (R301, R390); power loss and the critical temperature leave nothing but the store. R389: throttling begins at 95 °C or for power, and ends at
90 °C. R354 to R357: a package joins a pod only before any command and any program, with the pod's time origin and 400 in every W_max; a die's
holdover begins and ends. R300 to R302, R304: a failed core stops; it goes on after a transient error, or as the spare; with no spare it is
retired, its slots FREE with code 31, its context reported as ended, and every other slot of a protected one is to stop with F_UNWIND.
R298: an uncorrected error marks its place, a corrected one is counted.
Where it rests on readings or choices of the model, not on a rule: log entries 28, 29, 36, 46, 49, 60, 67, 90. -/
def Obligations.PowerPodsErrorsAndRepair : Prop :=
  (∀ (s : State) (failed : Nat), ∃ t, exec (.powerOn failed) s = .next t ∧ Cold s t ∧ t.pkg.fw = s.pkg.fw ∧
    (failed = 1 → t.pkg.boot = .failed 1) ∧
    (∀ image, s.pkg.fw = .good image → imageOk image = true → failed = 0 → t.pkg.boot = .running ∧
      (let lds := if t.pkg.switched = true then 16 else 2
       Tab.get 0 t.pkg.measure 1 = extend 0 Config.maskRom ∧ Tab.get 0 t.pkg.measure 2 = extend 0 image ∧
       Tab.get 0 t.pkg.measure 3 = extend 0 (leBytes 8 128 ++ leBytes 8 64 ++ Config.fusedHashes) ∧
       Tab.get 0 t.pkg.measure 4 = extend 0 ((List.range lds).flatMap (fun n => policyOf (Tab.get LDev.reset t.pkg.lds n)))) ∧
      (t.pkg.switched = true ↔ Config.switched = true) ∧ (∀ n, n ∈ t.pkg.capList ↔ n ∈ Config.features ∧ (n = 0 ∨ 3 < n)) ∧
      t.pkg.qifs = [] ∧ t.pkg.cxlBytes = min Config.cxlBytes (12288 * 10 ^ 9) ∧
      t.pkg.broken = s.pkg.broken ++ (Config.selfTest s.free).filter isCompute ∧
      ∀ c, ((t.core c).health = .retired → c ∈ t.pkg.broken) ∧ (t.core c).health ≠ .stopped ∧
        (c ∈ t.pkg.broken → (t.core c).health = .retired ∨ (t.cluster (clusterOf c)).spareUsed = true)) ∧
    (failed = 6 → ∀ image, s.pkg.fw = .good image → imageOk image = true → InRecovery t ∧
      t.pkg.broken = s.pkg.broken ++ (Config.selfTest s.free).filter isCompute ∧
      ∀ c, (c ∈ t.pkg.broken → (t.core c).health = .retired ∨ (t.cluster (clusterOf c)).spareUsed = true) ∧
        (c ∉ t.pkg.broken → (t.core c).health = .ok)) ∧
    (failed ≠ 1 → (∀ image, s.pkg.fw = .good image → imageOk image = false ∨ (2 ≤ failed ∧ failed ≤ 5)) → InRecovery t ∧ t.cores = [])) ∧
  (∀ s : State, ∃ t, exec .powerLoss s = .next t ∧ Cold s t ∧ t.cores = [] ∧ t.pkg.boot = .off ∧ t.pkg.fw = s.pkg.fw) ∧
  (∀ (s : State) (tj : BitVec 8) (flag : Bool),
    let hot := s.pkg.boot ≠ .off ∧ s.pkg.thermal = .normal ∧ tj.toNat < 105 ∧ (95 ≤ tj.toNat ∨ flag = true)
    let cool := s.pkg.thermal = .throttle ∧ tj.toNat ≤ 90 ∧ flag = true
    ∃ t u v, exec (.throttleEntry tj flag) s = .next t ∧ exec (.throttleExit tj flag) s = .next u ∧ exec (.criticalShutdown tj) s = .next v ∧
      (hot → t = { s with pkg := { s.pkg with thermal := .throttle, tj := tj, tcnt := s.pkg.tcnt + 1 } }) ∧ (¬hot → t = s) ∧
      (cool → u = { s with pkg := { s.pkg with thermal := .normal, tj := tj } }) ∧ (¬cool → u = s) ∧
      (s.pkg.boot ≠ .off → 105 ≤ tj.toNat → Cold s v ∧ v.pkg.boot = .off ∧ v.pkg.thermal = .critical) ∧ (tj.toNat < 105 → v = s)) ∧
  (∀ (s : State) (n origin : Nat) (members : List Nat),
    let joins := s.pkg.boot = .running ∧ s.pkg.accepted = false ∧ s.pkg.podNo = none ∧ n < 256 ∧ ∀ p ∈ s.slots, p.2.claims = 0
    ∃ t u, exec (.podJoin n origin members) s = .next t ∧ exec (.podChange members) s = .next u ∧
      (joins → t.pkg.podNo = some n ∧ t.pkg.podOff = origin ∧ (∀ d < 8, (t.die d).wmax = 400 ∧ clkE t d ≤ t.trueTime ∧ t.trueTime ≤ clkL t d) ∧
        (∀ m, m ∈ t.pkg.podMembers ↔ m = n ∨ (m ∈ members ∧ m < 256))) ∧ (¬joins → t = s) ∧
      (∀ k, s.pkg.podNo = some k → ∀ m, m ∈ u.pkg.podMembers ↔ m = k ∨ (m ∈ members ∧ m < 256)) ∧ (s.pkg.podNo = none → u = s)) ∧
  (∀ (s : State) (d : Nat), d < 8 → ∃ t u, exec (.holdoverStart d) s = .next t ∧ exec (.holdoverEnd d) s = .next u ∧
    t.die d = { s.die d with holdover := true } ∧ OnlyDie s t d ∧
    let near := clkL s d ≤ s.trueTime + s.clockBound
    (near → u.die d = { s.die d with holdover := false } ∧ OnlyDie s u d) ∧ (¬near → u = s)) ∧
  (∀ (s : State) (key : Nat) (single : Bool), ∃ t, exec (.softError (.memWord key) single) s = .next t ∧ t.mem = s.mem ∧
    (single = false → t.badWord key = true ∧ ∀ a, a / 8 ≠ key / 8 → t.badWord a = s.badWord a) ∧
    (single = true → t.pkg.badWords = s.pkg.badWords ∧
      Tab.get 0 t.pkg.errLog (s.errorTile key) = Tab.get 0 s.pkg.errLog (s.errorTile key) + 1)) ∧
  (∀ (s : State) (n : Nat), ∃ t u, exec (.softError (.tlb n) false) s = .next t ∧ exec (.softError (.tlb2 n) false) s = .next u ∧
    t.core n = { s.core n with itlb := [], dtlb := [] } ∧ (u.cluster n).tlb2 = []) ∧
  (∀ (s : State) (c k r : Nat), ∃ t u, exec (.softError (.gReg c k r) false) s = .next t ∧ exec (.softError (.vReg c k r) false) s = .next u ∧
    (1 ≤ r → r < 16 → k < slotsOf c → ∀ n < 16, (t.slot c k).badG.getLsbD n = (decide (n = r) || (s.slot c k).badG.getLsbD n)) ∧
    (r < 4 * (s.slot c k).vsize → ∀ n, n ∈ (u.core c).badV ↔ n = 4 * (s.slot c k).vbase + r ∨ n ∈ (s.core c).badV)) ∧
  (∀ (s : State) (c : Nat), ∃ t, exec (.coreCheckFailure c) s = .next t ∧
    (isCompute c = true → (s.core c).health = .ok → t = s.modCore c (fun x => { x with health := .stopped })) ∧
    (isCompute c = false ∨ (s.core c).health ≠ .ok → t = s)) ∧
  (∀ (s : State) (c : Nat) (transient : Bool), isCompute c = true → (s.core c).health = .stopped →
    let spare := (s.cluster (clusterOf c)).spareUsed = false
    ∃ t, exec (.coreRepair c transient) s = .next t ∧ t.pkg.broken = (if transient = true then s.pkg.broken else s.pkg.broken ++ [c]) ∧ Tab.get 0 t.pkg.errLog (tileOf c) = Tab.get 0 s.pkg.errLog (tileOf c) + 1 ∧
      (transient = true → t.core c = { s.core c with health := .ok } ∧ t.slots = s.slots ∧ t.mem = s.mem ∧ t.clusters = s.clusters) ∧
      (transient = false → spare → t.core c = { s.core c with health := .ok } ∧ t.slots = s.slots ∧ t.mem = s.mem ∧
        (t.cluster (clusterOf c)).spareUsed = true) ∧
      (transient = false → ¬spare → (t.core c).health = .retired ∧ (t.core c).owner = (s.core c).owner ∧ (t.core c).links = [] ∧
        (∀ k < 16, (t.slot c k).st = .free) ∧ (∀ o < 2 ^ 18, t.byteAt (2 ^ 56 + c * 2 ^ 18 + o) = 0) ∧
        (∀ k < 16, (s.slot c k).st ≠ .free → Notice.fault (tileOf c)
          (faultNotice (if bit (s.core c).owner 39 = true then 0 else (s.slot c k).pc) c k 31 (s.slot c k).tenant) ∈ t.pkg.notices) ∧
        ((s.core c).owner ≠ 0 → Notice.ended (tileOf c) (bits (s.core c).owner 0 32) ∈ Tab.get [] t.pkg.got (tileOf c)) ∧
        (bit (s.core c).owner 39 = true → ∀ c' k, c' < 3072 → k < 16 → c' ≠ c → (s.core c').owner = (s.core c).owner →
          (s.slot c' k).st ≠ .free → (t.slot c' k).unwind = some c)))

/-- R21, R23, R24, R29, R34, R35, R58, R59, R153, R304, R307, R309: the next step of a turn runs the decoded instruction: where the word w stands at the
program counter of a READY slot that may issue, or in its sequencer buffer, the step is the execution of the instruction that w decodes to,
its register fields stepped in a frame; of a word that does not decode, F_ILLEGAL's. A slot that resumes at a word that has counted its arrival
is no longer owed the release when that word issues, and at another word it also loses park 6; an `anchor` under a drain stops the slot instead; one that is asked to stop is STOPPED after its turn, and one
whose context has lost a core takes F_UNWIND; any other turn changes nothing, as does one of a cycle that is not the slot's. What is next
in a cycle comes about; with nothing left in it the next cycle begins, whose turns are those of its slots. A slot that is parked until its
word finds the cause cleared becomes READY as the next cycle begins, at the word it stands at, and else stays PARKED (R23).
Where it rests on readings or choices of the model, not on a rule: log entries 4, 6, 8, 60. -/
def Obligations.StepRunsTheDecodedInstruction : Prop :=
  (∀ (s : State) (c k : Nat) (rest : List Happening) (w : BitVec 32) (u : State), s.todo = .turn c k :: rest → s.now % 16 = k →
    let t : State := { s with todo := rest, curCore := c, curSlot := k }
    let v := u.modMe (fun x => { x.setPark 0 with owed := .none })
    let counted := u.modMe (fun x => { x with owed := .none })
    MayIssue t → t.me.st = .ready → Issues t w u →
      (∀ i, decode w = .ok i →
        (u.me.stopReq = .anchor → i = .anchor → u.me.park ≠ 6 → step s = .next (u.stopSlot c k true)) ∧
        (u.me.stopReq ≠ .anchor ∨ i ≠ .anchor →
          (u.me.park ≠ 6 → step s = exec (u.me.stepFrame i) u) ∧
          (u.me.park = 6 → CountedWord i → step s = exec (counted.me.stepFrame i) counted) ∧
          (u.me.park = 6 → ¬CountedWord i → step s = exec (v.me.stepFrame i) v))) ∧
      (∀ r, decode w = .error r → u.me.park ≠ 6 → step s = exec (.unassignedWord w) u)) ∧
  (∀ (s : State) (c k : Nat) (rest : List Happening), s.todo = .turn c k :: rest →
    let t : State := { s with todo := rest, curCore := c, curSlot := k }
    let runs := s.pkg.boot = .running ∧ (s.core c).health = .ok
    let unwinds := t.me.st ≠ .free ∧ t.me.unwind ≠ none
    (s.now % 16 ≠ k → step s = .next { s with todo := rest }) ∧
    (s.now % 16 = k → ¬runs ∨ (¬unwinds ∧ t.me.st ≠ .ready ∧ (t.me.stopReq ≠ .now_ ∨ t.me.st ≠ .parked)) → step s = .next t) ∧
    (s.now % 16 = k → runs → ¬unwinds → t.me.st = .ready → t.me.stopReq = .now_ → ∃ u, step s = .next u ∧ (u.slot c k).st = .stopped) ∧
    (s.now % 16 = k → runs → t.me.st ≠ .free → ∀ n, t.me.unwind = some n → ∃ u, step s = .next u ∧
      (u.slot c k).st = .stopped ∧ bits (u.slot c k).cause 0 8 = 31 ∧ (u.slot c k).fault = BitVec.ofNat 64 n ∧ (u.slot c k).unwind = none)) ∧
  (∀ (s : State) (h : Happening) (rest : List Happening), s.todo = h :: rest → step s = State.happen { s with todo := rest } h) ∧
  (∀ (s : State) (i : Instr) (rest : List Happening), s.todo = .event i :: rest →
    (isEvent i = true → step s = exec i { s with todo := rest }) ∧ (isEvent i = false → step s = .next { s with todo := rest })) ∧
  (∀ s : State, s.todo = [] → ∃ t, step s = .next t ∧ t.now = s.now + 1 ∧ (∀ c k, .turn c k ∈ t.todo → t.now % 16 = k) ∧
    ∀ c k, k < 16 → let b := cycleBegun s
      ((b.slot c k).st = .parked → (b.slot c k).pend = .retry → (∃ i, decode (b.slot c k).word = .ok i) →
        (CauseStands b c k → t.slot c k = b.slot c k) ∧
        (¬CauseStands b c k → t.slot c k = (b.slot c k).wake ∧ (t.slot c k).st = .ready ∧ (t.slot c k).pc = (b.slot c k).pc ∧
          (b.pkg.boot = .running → t.now % 16 = k → .turn c k ∈ t.todo))) ∧
      ((b.slot c k).st = .ready → b.pkg.boot = .running → t.now % 16 = k → .turn c k ∈ t.todo))

/-- R29 to R55, R84: words written out field by field from the encoding tables, at least one of every major, and the instructions that they are. -/
def Obligations.WordsDecodeToTheirInstructions : Prop :=
  decode (fmtA 0x01 5 1 9 0 0x000) = .ok (.add 5 1 9) ∧
  decode (fmtA 0x01 4 5 6 7 0x011) = .ok (.sel 4 5 6 7) ∧
  decode (fmtA 0x01 7 5 2 0 0x01E) = .ok (.div 7 5 2) ∧
  decode (fmtI 0x02 2 2 0x3FFFF) = .ok (.addi 2 2 0x3FFFF) ∧
  decode (fmtI 0x03 1 1 0x3FFF8) = .ok (.andi 1 1 0x3FFF8) ∧
  decode (fmtI 0x04 1 2 0x00001) = .ok (.ori 1 2 1) ∧
  decode (fmtI 0x05 1 2 0x00003) = .ok (.xori 1 2 3) ∧
  decode (fmtI 0x06 1 2 0x20000) = .ok (.slti 1 2 0x20000) ∧
  decode (fmtI 0x07 3 3 (0#10 ++ 2#2 ++ 5#6)) = .ok (.srai 3 3 5) ∧
  decode (fmtI 0x08 3 4 (0#6 ++ 8#6 ++ 15#6)) = .ok (.bfx 3 4 8 15) ∧
  decode (fmtI 0x09 3 4 (0#6 ++ 63#6 ++ 0#6)) = .ok (.bfi 3 4 63 0) ∧
  decode (fmtU 0x0A 1 0x3FFFFF) = .ok (.lui 1 0x3FFFFF) ∧
  decode (fmtU 0x0B 1 7) = .ok (.addpc 1 7) ∧
  decode (fmtA 0x0C 4 5 6 7 0x003) = .ok (.ffma 4 5 6 7) ∧
  decode (fmtB 0x10 2 0 7) = .ok (.br 2 0 7) ∧
  decode (fmtB 0x10 0 6 0x7FFFF) = .ok (.jmp 0x7FFFF) ∧
  decode (fmtB 0x11 15 0 3) = .ok (.call 15 3) ∧
  decode (fmtA 0x12 15 9 0 0 0) = .ok (.callr 15 9) ∧
  decode (fmtB 0x13 3 2 2) = .ok (.skip 3 2 2) ∧
  decode (fmtF 0x14 0 2 1 1 0) = .ok (.repf 0 2 1 1 0) ∧
  decode (fmtM 0x18 2 1 2 0 1 0x7FF) = .ok (.ld 2 1 2 0 1 0x7FF) ∧
  decode (fmtM 0x19 2 1 1 0 0 3) = .ok (.ldS 2 1 1 0 0 3) ∧
  decode (fmtM 0x1A 4 1 0 4 2 0x7FF) = .ok (.st 4 1 0 4 2 0x7FF) ∧
  decode (fmtM 0x1B 4 1 3 0 0 1) = .ok (.ldx 4 1 0 0 1) ∧
  decode (fmtM 0x1C 4 1 3 1 1 1) = .ok (.ldc 4 1 1 1 1) ∧
  decode (fmtM 0x1D 4 1 3 0 2 1) = .ok (.stf 4 1 0 2 1) ∧
  decode (fmtA 0x1E 5 2 6 0 (0#4 ++ 1#1 ++ 1#3 ++ 0#2)) = .ok (.amoAdd 5 2 6 1 1 0) ∧
  decode (fmtA 0x1E 5 2 6 7 (9#4 ++ 1#1 ++ 2#3 ++ 0#2)) = .ok (.cas 5 2 6 7 1 2 0) ∧
  decode (fmtA 0x1F 0 0 0 0 (0#4 ++ 3#3 ++ 0#3)) = .ok (.fence 3) ∧
  decode (fmtA 0x1F 6 2 3 0 (2#4 ++ 1#3 ++ 0#3)) = .ok (.barm 6 2 3 1) ∧
  decode (fmtV 0x20 1 2 3 4 1) = .ok (.vsubI 0 1 2 3 4) ∧
  decode (fmtV 0x21 1 2 3 4 3) = .ok (.vminI 1 1 2 3 4) ∧
  decode (fmtV 0x22 1 2 3 4 0) = .ok (.vaddI 2 1 2 3 4) ∧
  decode (fmtV 0x23 63 62 61 15 4) = .ok (.vmaxI 3 63 62 61 15) ∧
  decode (fmtV 0x24 1 2 3 0 5) = .ok (.vfma 0 1 2 3 0) ∧
  decode (fmtV 0x25 1 2 3 4 2) = .ok (.vmulF 1 1 2 3 4) ∧
  decode (fmtV 0x26 1 2 3 4 4) = .ok (.vmaxF 2 1 2 3 4) ∧
  decode (fmtV 0x27 3 0 4 5 6) = .ok (.vshuf 3 0 4 5) ∧
  decode (fmtV 0x28 2 3 (1#1 ++ 0#1 ++ 4#4) 0 9) = .ok (.vcvt 2 3 1 0 4 0 9) ∧
  decode (fmtV 0x29 1 (0#2 ++ 4#4) 0 5 0) = .ok (.vld 1 4 5) ∧
  decode (fmtV 0x2A 1 2 3 4 5) = .ok (.vdotL6l6 1 2 3 4 5) ∧
  decode (fmtV 0x2B 4 1 2 0 9) = .ok (.vdotL6e4 4 1 2 0 9) ∧
  decode (fmtV 0x2C 4 1 2 0 9) = .ok (.vdotE4e4 4 1 2 0 9) ∧
  decode (fmtV 0x2D 4 1 2 0 9) = .ok (.vdotE5e5 4 1 2 0 9) ∧
  decode (fmtV 0x2E 4 1 2 0 9) = .ok (.vdotBfbf 4 1 2 0 9) ∧
  decode (fmtV 0x2F 4 1 2 0 9) = .ok (.vdotI8i8 4 1 2 0 9) ∧
  decode (fmtA 0x30 5 2 3 0 1) = .ok (.mxq 5 2 3 1) ∧
  decode (fmtA 0x31 0 2 3 0 5) = .ok (.accst 2 3 1) ∧
  decode (fmtA 0x32 5 2 3 0 0) = .ok (.cpq 5 2 3 0) ∧
  decode (fmtA 0x33 5 2 0 0 1) = .ok (.jpoll 5 2) ∧
  decode (fmtA 0x34 0 2 3 0 0) = .ok (.scls 2 3) ∧
  decode (fmtA 0x35 0 2 3 0 0) = .ok (.xenq 2 3) ∧
  decode (fmtA 0x38 0 2 3 4 1) = .ok (.spawnq 2 3 4) ∧
  decode (fmtA 0x39 0 0 0 0 (0#1 ++ 3#6 ++ 3#3)) = .ok (.bar 3 3) ∧
  decode (fmtA 0x3B 5 2 3 4 3) = .ok (.scas 5 2 3 4) ∧
  decode (fmtA 0x3C 0 0 0 0 5) = .ok .nop ∧
  decode (fmtA 0x3D 0 2 0 0 (1#1 ++ 14#9)) = .ok (.kmov 2 14) ∧
  decode (fmtA 0x3E 5 2 0 10 0) = .ok (.refldBase 5 2 10) ∧
  (∃ r, decode 0 = .error r) ∧ (∃ r, decode (fmtA 0x01 5 1 9 1 0x000) = .error r) ∧ (∃ r, decode (fmtA 0x01 5 1 9 0 0x022) = .error r) ∧
  (∃ r, decode (fmtM 0x18 2 1 2 5 1 0) = .error r) ∧ (∃ r, decode (fmtI 0x08 3 4 (0#6 ++ 63#6 ++ 1#6)) = .error r)

/-- R28, R328: at device reset every slot is FREE with g1 to g15 empty and zero, every local word zero and full; every privileged register and
`k.owner` reads 0 at every target, but `k.sserv` 7, `k.wmax` 64 and `k.dlate` 1,000; every key slot is EMPTY, every scale store holds 127, no
event queue is valid, no bellows queue is enabled, and no capability entry is valid. Memory is in its one form. -/
def Obligations.ResetLeavesWhatTheSpecSays : Prop :=
  (∀ c k, (State.reset.slot c k).st = .free ∧ (∀ r : Reg, (State.reset.slot c k).reg r = 0 ∧ (State.reset.slot c k).isFull r = decide (r = 0))) ∧
  (∀ c o, c < 3072 → o < 2 ^ 18 → State.reset.byteAt (2 ^ 56 + c * 2 ^ 18 + o) = 0 ∧ State.reset.wordFull (2 ^ 56 + c * 2 ^ 18 + o) = true) ∧
  (∀ (c k n : Nat) (v : Word), 15 ≤ n → n ≤ 41 →
    let s : State := ({ State.reset with curCore := c, curSlot := k } : State).modMe (fun x => { x with tgt := v })
    privWord s n = if n = 29 then 7 else if n = 39 then 64 else if n = 40 then 1000 else 0) ∧
  (∀ c, (State.reset.core c).owner = 0 ∧ (State.reset.core c).wten = 0) ∧
  (∀ n, (State.reset.keySlot n).st = .empty) ∧ (∀ c i, State.reset.scaleCodes c i 1 = [127]) ∧
  (∀ t q, (State.reset.evq t q).valid = false) ∧ (∀ d n, bit ((State.reset.xq d n).dw 0) 30 = false ∧ (State.reset.xq d n).assigned = false) ∧
  (∀ cl n, State.reset.capEntry cl n = 0) ∧ (∀ d x, (State.reset.tenantDie d x).cap = 0 ∧ (State.reset.tenantDie d x).quota = 0) ∧
  MemInv State.reset

/-- R29 to R55: encoding and decoding agree: every well-formed instruction that has a word is what its word decodes to, and a word that decodes
is the word of its instruction, so that no two words mean the same and no bit of a word is dropped. -/
def Obligations.DecodeAndEncodeAgree : Prop :=
  (∀ i : Instr, IsWord i → i.wf = true → decode (encode i) = .ok i) ∧
  (∀ (w : BitVec 32) (i : Instr), decode w = .ok i → encode i = w ∧ i.wf = true ∧ IsWord i)

/-- R17, R24, R290: no instruction and no event stops the machine: each answers a next state from every state, with memory in its one form where
it was in it.
Where it rests on readings or choices of the model, not on a rule: log entry 7. -/
def Obligations.EveryInstructionGoesOn : Prop :=
  ∀ (i : Instr) (s : State), ∃ t, exec i s = .next t ∧ (MemInv s → MemInv t)

/-- R21, R24: the invariant of memory: every step goes on, and keeps memory in its one form: addresses rising, and no byte listed that reads as an
unlisted one. -/
def Obligations.EveryStepKeepsMemoryWellFormed : Prop :=
  ∀ s : State, ∃ t, step s = .next t ∧ (MemInv s → MemInv t)

/-- R35, R54, R306, R326, R327: an instruction word of a compute core's slot in user mode changes no core's owner or window tenant, no key, and no table address,
budget cap or scope-miss entry of a tenant. -/
def Obligations.UserWordsChangeNoOwnerKeyOrTable : Prop :=
  ∀ (s t : State) (i : Instr), IsWord i → isCompute s.curCore = true → s.me.priv = false →
    exec i s = .next t →
    (∀ c, (t.core c).owner = (s.core c).owner ∧ (t.core c).wten = (s.core c).wten) ∧
    (∀ n, (t.keySlot n).key = (s.keySlot n).key ∧ (t.keySlot n).c = (s.keySlot n).c ∧ (t.keySlot n).ctx = (s.keySlot n).ctx) ∧
    (∀ d x, (t.tenantDie d x).ptab = (s.tenantDie d x).ptab ∧ (t.tenantDie d x).s2b = (s.tenantDie d x).s2b ∧
      (t.tenantDie d x).s2l = (s.tenantDie d x).s2l ∧ (t.tenantDie d x).cap = (s.tenantDie d x).cap ∧
      (t.tenantDie d x).scm = (s.tenantDie d x).scm)
end

