-- ==== Sys2Proof/Laws/Bits.lean ====
section
/-!
SUPPORT. Bit fields: what a field holds after it, or another field, has been written.
-/

namespace Sys2Proof.Machine

open Sys2Proof

theorem testBit_bits (x : Word) (lo w i : Nat) : (bits x lo w).testBit i = (decide (i < w) && x.getLsbD (lo + i)) := by
  unfold bits
  rw [Nat.testBit_mod_two_pow, Nat.testBit_div_two_pow, BitVec.getLsbD, Nat.add_comm]

theorem getLsbD_lowMask (w i : Nat) : (lowMask w).getLsbD i = (decide (i < 64) && decide (i < w)) := by
  unfold lowMask
  rw [BitVec.getLsbD_ofNat, Nat.testBit_two_pow_sub_one]

theorem getLsbD_setBits (x : Word) (lo w v i : Nat) :
    (setBits x lo w v).getLsbD i =
      (decide (i < 64) && if lo ≤ i ∧ i < lo + w then v.testBit (i - lo) else x.getLsbD i) := by
  unfold setBits
  simp only [BitVec.getLsbD_or, BitVec.getLsbD_and, BitVec.getLsbD_not, BitVec.getLsbD_shiftLeft, getLsbD_lowMask, BitVec.getLsbD_ofNat]
  by_cases h : i < 64
  · by_cases a : lo ≤ i
    · have h64 : i - lo < 64 := by omega
      have na : ¬ i < lo := by omega
      by_cases b : i < lo + w
      · have b' : i - lo < w := by omega
        simp [h, a, b, b', h64, na]
      · have b' : ¬ i - lo < w := by omega
        simp [h, b, b']
    · have na : i < lo := by omega
      simp [h, a, na]
  · have : x.getLsbD i = false := BitVec.getLsbD_of_ge x i (by omega)
    simp [h]

/-- A field after it has been written. -/
theorem bits_setBits (x : Word) (lo w v : Nat) (h : lo + w ≤ 64) : bits (setBits x lo w v) lo w = v % 2 ^ w := by
  apply Nat.eq_of_testBit_eq
  intro i
  rw [testBit_bits, getLsbD_setBits, Nat.testBit_mod_two_pow]
  by_cases a : i < w
  · have h1 : lo + i < 64 := by omega
    have h2 : lo ≤ lo + i ∧ lo + i < lo + w := by omega
    simp [a, h1]
  · simp [a]

/-- A field after another has been written. -/
theorem bits_setBits_ne (x : Word) (lo w v lo' w' : Nat) (h : lo' + w' ≤ lo ∨ lo + w ≤ lo') :
    bits (setBits x lo w v) lo' w' = bits x lo' w' := by
  apply Nat.eq_of_testBit_eq
  intro i
  rw [testBit_bits, testBit_bits, getLsbD_setBits]
  by_cases a : i < w'
  · have h2 : ¬(lo ≤ lo' + i ∧ lo' + i < lo + w) := by omega
    by_cases h1 : lo' + i < 64
    · simp [a, h1]; omega
    · rw [BitVec.getLsbD_of_ge x (lo' + i) (by omega)]; simp [a, h1]
  · simp [a]

/-- A bit after a field has been written. -/
theorem bit_setBits (x : Word) (lo w v i : Nat) (h : i < 64) :
    bit (setBits x lo w v) i = if lo ≤ i ∧ i < lo + w then v.testBit (i - lo) else bit x i := by
  unfold bit; rw [getLsbD_setBits]; simp [h]

/-- A one-bit field as a number. -/
theorem bits_one (x : Word) (i : Nat) : bits x i 1 = if bit x i then 1 else 0 := by
  apply Nat.eq_of_testBit_eq
  intro j
  rw [testBit_bits]
  unfold bit
  cases h : x.getLsbD i <;> cases j <;> simp [h, Nat.testBit_succ]

theorem bits_lt (x : Word) (lo w : Nat) : bits x lo w < 2 ^ w := Nat.mod_lt _ (Nat.two_pow_pos w)

end Sys2Proof.Machine
end

