-- ==== Sys2Proof/Laws/Encode.lean ====
section
/-!
SUPPORT. The fields of an assembled word: each field getter of the decoder gives back the field that the assembler put there.
-/

namespace Sys2Proof

theorem ext_high {n m : Nat} (x : BitVec n) (y : BitVec m) (lo w : Nat) (h : m ≤ lo) :
    (x ++ y).extractLsb' lo w = x.extractLsb' (lo - m) w := by
  ext i hi
  have : ¬ lo + i < m := by omega
  have e : lo + i - m = lo - m + i := by omega
  simp [BitVec.getElem_extractLsb', BitVec.getLsbD_append, this, e]
theorem ext_low {n m : Nat} (x : BitVec n) (y : BitVec m) (lo w : Nat) (h : lo + w ≤ m) :
    (x ++ y).extractLsb' lo w = y.extractLsb' lo w := by
  ext i hi
  have : lo + i < m := by omega
  simp [BitVec.getElem_extractLsb', BitVec.getLsbD_append, this]
theorem ext_all {n : Nat} (x : BitVec n) : x.extractLsb' 0 n = x := by
  ext i hi; simp

/-! ## Format A -/

@[simp] theorem asmA_op (op : BitVec 6) (d : BitVec 4) (a : BitVec 4) (b : BitVec 4) (c : BitVec 4) (fn : BitVec 10) : opOf (asmA op d a b c fn) = op := by
  unfold asmA opOf; exact (((((ext_high (op ++ d ++ a ++ b ++ c) fn 26 6 (by decide)).trans (ext_high (op ++ d ++ a ++ b) c 16 6 (by decide))).trans (ext_high (op ++ d ++ a) b 12 6 (by decide))).trans (ext_high (op ++ d) a 8 6 (by decide))).trans (ext_high (op) d 4 6 (by decide))).trans (ext_all op)
@[simp] theorem asmA_d (op : BitVec 6) (d : BitVec 4) (a : BitVec 4) (b : BitVec 4) (c : BitVec 4) (fn : BitVec 10) : f25 (asmA op d a b c fn) = d := by
  unfold asmA f25; exact (((((ext_high (op ++ d ++ a ++ b ++ c) fn 22 4 (by decide)).trans (ext_high (op ++ d ++ a ++ b) c 12 4 (by decide))).trans (ext_high (op ++ d ++ a) b 8 4 (by decide))).trans (ext_high (op ++ d) a 4 4 (by decide))).trans (ext_low (op) d 0 4 (by decide))).trans (ext_all d)
@[simp] theorem asmA_a (op : BitVec 6) (d : BitVec 4) (a : BitVec 4) (b : BitVec 4) (c : BitVec 4) (fn : BitVec 10) : f21 (asmA op d a b c fn) = a := by
  unfold asmA f21; exact ((((ext_high (op ++ d ++ a ++ b ++ c) fn 18 4 (by decide)).trans (ext_high (op ++ d ++ a ++ b) c 8 4 (by decide))).trans (ext_high (op ++ d ++ a) b 4 4 (by decide))).trans (ext_low (op ++ d) a 0 4 (by decide))).trans (ext_all a)
@[simp] theorem asmA_b (op : BitVec 6) (d : BitVec 4) (a : BitVec 4) (b : BitVec 4) (c : BitVec 4) (fn : BitVec 10) : f17 (asmA op d a b c fn) = b := by
  unfold asmA f17; exact (((ext_high (op ++ d ++ a ++ b ++ c) fn 14 4 (by decide)).trans (ext_high (op ++ d ++ a ++ b) c 4 4 (by decide))).trans (ext_low (op ++ d ++ a) b 0 4 (by decide))).trans (ext_all b)
@[simp] theorem asmA_c (op : BitVec 6) (d : BitVec 4) (a : BitVec 4) (b : BitVec 4) (c : BitVec 4) (fn : BitVec 10) : f13 (asmA op d a b c fn) = c := by
  unfold asmA f13; exact ((ext_high (op ++ d ++ a ++ b ++ c) fn 10 4 (by decide)).trans (ext_low (op ++ d ++ a ++ b) c 0 4 (by decide))).trans (ext_all c)
@[simp] theorem asmA_fn (op : BitVec 6) (d : BitVec 4) (a : BitVec 4) (b : BitVec 4) (c : BitVec 4) (fn : BitVec 10) : fnA (asmA op d a b c fn) = fn := by
  unfold asmA fnA; exact (ext_low (op ++ d ++ a ++ b ++ c) fn 0 10 (by decide)).trans (ext_all fn)
@[simp] theorem asmI_op (op : BitVec 6) (d : BitVec 4) (a : BitVec 4) (imm : BitVec 18) : opOf (asmI op d a imm) = op := by
  unfold asmI opOf; exact (((ext_high (op ++ d ++ a) imm 26 6 (by decide)).trans (ext_high (op ++ d) a 8 6 (by decide))).trans (ext_high (op) d 4 6 (by decide))).trans (ext_all op)
@[simp] theorem asmI_d (op : BitVec 6) (d : BitVec 4) (a : BitVec 4) (imm : BitVec 18) : f25 (asmI op d a imm) = d := by
  unfold asmI f25; exact (((ext_high (op ++ d ++ a) imm 22 4 (by decide)).trans (ext_high (op ++ d) a 4 4 (by decide))).trans (ext_low (op) d 0 4 (by decide))).trans (ext_all d)
@[simp] theorem asmI_a (op : BitVec 6) (d : BitVec 4) (a : BitVec 4) (imm : BitVec 18) : f21 (asmI op d a imm) = a := by
  unfold asmI f21; exact ((ext_high (op ++ d ++ a) imm 18 4 (by decide)).trans (ext_low (op ++ d) a 0 4 (by decide))).trans (ext_all a)
@[simp] theorem asmI_imm (op : BitVec 6) (d : BitVec 4) (a : BitVec 4) (imm : BitVec 18) : immI (asmI op d a imm) = imm := by
  unfold asmI immI; exact (ext_low (op ++ d ++ a) imm 0 18 (by decide)).trans (ext_all imm)
@[simp] theorem asmU_op (op : BitVec 6) (d : BitVec 4) (imm : BitVec 22) : opOf (asmU op d imm) = op := by
  unfold asmU opOf; exact ((ext_high (op ++ d) imm 26 6 (by decide)).trans (ext_high (op) d 4 6 (by decide))).trans (ext_all op)
@[simp] theorem asmU_d (op : BitVec 6) (d : BitVec 4) (imm : BitVec 22) : f25 (asmU op d imm) = d := by
  unfold asmU f25; exact ((ext_high (op ++ d) imm 22 4 (by decide)).trans (ext_low (op) d 0 4 (by decide))).trans (ext_all d)
@[simp] theorem asmU_imm (op : BitVec 6) (d : BitVec 4) (imm : BitVec 22) : immU (asmU op d imm) = imm := by
  unfold asmU immU; exact (ext_low (op ++ d) imm 0 22 (by decide)).trans (ext_all imm)
@[simp] theorem asmM_op (op : BitVec 6) (d : BitVec 4) (a : BitVec 4) (sz : BitVec 2) (sc : BitVec 3) (od : BitVec 2) (off : BitVec 11) : opOf (asmM op d a sz sc od off) = op := by
  unfold asmM opOf; exact ((((((ext_high (op ++ d ++ a ++ sz ++ sc ++ od) off 26 6 (by decide)).trans (ext_high (op ++ d ++ a ++ sz ++ sc) od 15 6 (by decide))).trans (ext_high (op ++ d ++ a ++ sz) sc 13 6 (by decide))).trans (ext_high (op ++ d ++ a) sz 10 6 (by decide))).trans (ext_high (op ++ d) a 8 6 (by decide))).trans (ext_high (op) d 4 6 (by decide))).trans (ext_all op)
@[simp] theorem asmM_d (op : BitVec 6) (d : BitVec 4) (a : BitVec 4) (sz : BitVec 2) (sc : BitVec 3) (od : BitVec 2) (off : BitVec 11) : f25 (asmM op d a sz sc od off) = d := by
  unfold asmM f25; exact ((((((ext_high (op ++ d ++ a ++ sz ++ sc ++ od) off 22 4 (by decide)).trans (ext_high (op ++ d ++ a ++ sz ++ sc) od 11 4 (by decide))).trans (ext_high (op ++ d ++ a ++ sz) sc 9 4 (by decide))).trans (ext_high (op ++ d ++ a) sz 6 4 (by decide))).trans (ext_high (op ++ d) a 4 4 (by decide))).trans (ext_low (op) d 0 4 (by decide))).trans (ext_all d)
@[simp] theorem asmM_a (op : BitVec 6) (d : BitVec 4) (a : BitVec 4) (sz : BitVec 2) (sc : BitVec 3) (od : BitVec 2) (off : BitVec 11) : f21 (asmM op d a sz sc od off) = a := by
  unfold asmM f21; exact (((((ext_high (op ++ d ++ a ++ sz ++ sc ++ od) off 18 4 (by decide)).trans (ext_high (op ++ d ++ a ++ sz ++ sc) od 7 4 (by decide))).trans (ext_high (op ++ d ++ a ++ sz) sc 5 4 (by decide))).trans (ext_high (op ++ d ++ a) sz 2 4 (by decide))).trans (ext_low (op ++ d) a 0 4 (by decide))).trans (ext_all a)
@[simp] theorem asmM_sz (op : BitVec 6) (d : BitVec 4) (a : BitVec 4) (sz : BitVec 2) (sc : BitVec 3) (od : BitVec 2) (off : BitVec 11) : (asmM op d a sz sc od off).extractLsb' 16 2 = sz := by
  unfold asmM; exact ((((ext_high (op ++ d ++ a ++ sz ++ sc ++ od) off 16 2 (by decide)).trans (ext_high (op ++ d ++ a ++ sz ++ sc) od 5 2 (by decide))).trans (ext_high (op ++ d ++ a ++ sz) sc 3 2 (by decide))).trans (ext_low (op ++ d ++ a) sz 0 2 (by decide))).trans (ext_all sz)
@[simp] theorem asmM_sc (op : BitVec 6) (d : BitVec 4) (a : BitVec 4) (sz : BitVec 2) (sc : BitVec 3) (od : BitVec 2) (off : BitVec 11) : (asmM op d a sz sc od off).extractLsb' 13 3 = sc := by
  unfold asmM; exact (((ext_high (op ++ d ++ a ++ sz ++ sc ++ od) off 13 3 (by decide)).trans (ext_high (op ++ d ++ a ++ sz ++ sc) od 2 3 (by decide))).trans (ext_low (op ++ d ++ a ++ sz) sc 0 3 (by decide))).trans (ext_all sc)
@[simp] theorem asmM_od (op : BitVec 6) (d : BitVec 4) (a : BitVec 4) (sz : BitVec 2) (sc : BitVec 3) (od : BitVec 2) (off : BitVec 11) : (asmM op d a sz sc od off).extractLsb' 11 2 = od := by
  unfold asmM; exact ((ext_high (op ++ d ++ a ++ sz ++ sc ++ od) off 11 2 (by decide)).trans (ext_low (op ++ d ++ a ++ sz ++ sc) od 0 2 (by decide))).trans (ext_all od)
@[simp] theorem asmM_off (op : BitVec 6) (d : BitVec 4) (a : BitVec 4) (sz : BitVec 2) (sc : BitVec 3) (od : BitVec 2) (off : BitVec 11) : (asmM op d a sz sc od off).extractLsb' 0 11 = off := by
  unfold asmM; exact (ext_low (op ++ d ++ a ++ sz ++ sc ++ od) off 0 11 (by decide)).trans (ext_all off)
@[simp] theorem asmB_op (op : BitVec 6) (a : BitVec 4) (cond : BitVec 3) (off : BitVec 19) : opOf (asmB op a cond off) = op := by
  unfold asmB opOf; exact (((ext_high (op ++ a ++ cond) off 26 6 (by decide)).trans (ext_high (op ++ a) cond 7 6 (by decide))).trans (ext_high (op) a 4 6 (by decide))).trans (ext_all op)
@[simp] theorem asmB_a (op : BitVec 6) (a : BitVec 4) (cond : BitVec 3) (off : BitVec 19) : f25 (asmB op a cond off) = a := by
  unfold asmB f25; exact (((ext_high (op ++ a ++ cond) off 22 4 (by decide)).trans (ext_high (op ++ a) cond 3 4 (by decide))).trans (ext_low (op) a 0 4 (by decide))).trans (ext_all a)
@[simp] theorem asmB_cond (op : BitVec 6) (a : BitVec 4) (cond : BitVec 3) (off : BitVec 19) : (asmB op a cond off).extractLsb' 19 3 = cond := by
  unfold asmB; exact ((ext_high (op ++ a ++ cond) off 19 3 (by decide)).trans (ext_low (op ++ a) cond 0 3 (by decide))).trans (ext_all cond)
@[simp] theorem asmB_off (op : BitVec 6) (a : BitVec 4) (cond : BitVec 3) (off : BitVec 19) : offB (asmB op a cond off) = off := by
  unfold asmB offB; exact (ext_low (op ++ a ++ cond) off 0 19 (by decide)).trans (ext_all off)
@[simp] theorem asmV_op (op : BitVec 6) (d : BitVec 6) (a : BitVec 6) (b : BitVec 6) (m : BitVec 4) (fn : BitVec 4) : opOf (asmV op d a b m fn) = op := by
  unfold asmV opOf; exact (((((ext_high (op ++ d ++ a ++ b ++ m) fn 26 6 (by decide)).trans (ext_high (op ++ d ++ a ++ b) m 22 6 (by decide))).trans (ext_high (op ++ d ++ a) b 18 6 (by decide))).trans (ext_high (op ++ d) a 12 6 (by decide))).trans (ext_high (op) d 6 6 (by decide))).trans (ext_all op)
@[simp] theorem asmV_d (op : BitVec 6) (d : BitVec 6) (a : BitVec 6) (b : BitVec 6) (m : BitVec 4) (fn : BitVec 4) : vd (asmV op d a b m fn) = d := by
  unfold asmV vd; exact (((((ext_high (op ++ d ++ a ++ b ++ m) fn 20 6 (by decide)).trans (ext_high (op ++ d ++ a ++ b) m 16 6 (by decide))).trans (ext_high (op ++ d ++ a) b 12 6 (by decide))).trans (ext_high (op ++ d) a 6 6 (by decide))).trans (ext_low (op) d 0 6 (by decide))).trans (ext_all d)
@[simp] theorem asmV_a (op : BitVec 6) (d : BitVec 6) (a : BitVec 6) (b : BitVec 6) (m : BitVec 4) (fn : BitVec 4) : va (asmV op d a b m fn) = a := by
  unfold asmV va; exact ((((ext_high (op ++ d ++ a ++ b ++ m) fn 14 6 (by decide)).trans (ext_high (op ++ d ++ a ++ b) m 10 6 (by decide))).trans (ext_high (op ++ d ++ a) b 6 6 (by decide))).trans (ext_low (op ++ d) a 0 6 (by decide))).trans (ext_all a)
@[simp] theorem asmV_b (op : BitVec 6) (d : BitVec 6) (a : BitVec 6) (b : BitVec 6) (m : BitVec 4) (fn : BitVec 4) : vb (asmV op d a b m fn) = b := by
  unfold asmV vb; exact (((ext_high (op ++ d ++ a ++ b ++ m) fn 8 6 (by decide)).trans (ext_high (op ++ d ++ a ++ b) m 4 6 (by decide))).trans (ext_low (op ++ d ++ a) b 0 6 (by decide))).trans (ext_all b)
@[simp] theorem asmV_m (op : BitVec 6) (d : BitVec 6) (a : BitVec 6) (b : BitVec 6) (m : BitVec 4) (fn : BitVec 4) : vm (asmV op d a b m fn) = m := by
  unfold asmV vm; exact ((ext_high (op ++ d ++ a ++ b ++ m) fn 4 4 (by decide)).trans (ext_low (op ++ d ++ a ++ b) m 0 4 (by decide))).trans (ext_all m)
@[simp] theorem asmV_fn (op : BitVec 6) (d : BitVec 6) (a : BitVec 6) (b : BitVec 6) (m : BitVec 4) (fn : BitVec 4) : vfn (asmV op d a b m fn) = fn := by
  unfold asmV vfn; exact (ext_low (op ++ d ++ a ++ b ++ m) fn 0 4 (by decide)).trans (ext_all fn)
@[simp] theorem amoFn_op (op : BitVec 4) (sz : BitVec 1) (sc : BitVec 3) (od : BitVec 2) : (amoFn op sz sc od).extractLsb' 6 4 = op := by
  unfold amoFn
  exact ((ext_high (op ++ sz ++ sc) od 6 4 (by decide)).trans (ext_high (op ++ sz) sc 4 4 (by decide))).trans
    ((ext_high op sz 1 4 (by decide)).trans (ext_all op))
@[simp] theorem amoFn_sz (op : BitVec 4) (sz : BitVec 1) (sc : BitVec 3) (od : BitVec 2) : (amoFn op sz sc od).extractLsb' 5 1 = sz := by
  unfold amoFn
  exact ((ext_high (op ++ sz ++ sc) od 5 1 (by decide)).trans (ext_high (op ++ sz) sc 3 1 (by decide))).trans
    ((ext_low op sz 0 1 (by decide)).trans (ext_all sz))
@[simp] theorem amoFn_sc (op : BitVec 4) (sz : BitVec 1) (sc : BitVec 3) (od : BitVec 2) : (amoFn op sz sc od).extractLsb' 2 3 = sc := by
  unfold amoFn
  exact (ext_high (op ++ sz ++ sc) od 2 3 (by decide)).trans ((ext_low (op ++ sz) sc 0 3 (by decide)).trans (ext_all sc))
@[simp] theorem amoFn_od (op : BitVec 4) (sz : BitVec 1) (sc : BitVec 3) (od : BitVec 2) : (amoFn op sz sc od).extractLsb' 0 2 = od := by
  unfold amoFn
  exact (ext_low (op ++ sz ++ sc) od 0 2 (by decide)).trans (ext_all od)

end Sys2Proof
end

