-- ==== Sys2Proof/Laws/Tab.lean ====
section
/-!
SUPPORT. The laws of sparse tables: a read after a write, and that every operation keeps the one form.
-/

namespace Sys2Proof.Machine

variable {α : Type}

@[simp] theorem Tab.get_nil (d : α) (k : Nat) : Tab.get d [] k = d := rfl

theorem Tab.get_cons (d : α) (n : Nat) (v : α) (t : List (Nat × α)) (j : Nat) :
    Tab.get d ((n, v) :: t) j = if n = j then v else Tab.get d t j := rfl

theorem Tab.get_erase (d : α) (t : List (Nat × α)) (k j : Nat) :
    Tab.get d (Tab.erase t k) j = if j = k then d else Tab.get d t j := by
  induction t with
  | nil => simp [Tab.erase, Tab.get]
  | cons p t ih =>
    obtain ⟨n, v⟩ := p
    by_cases h : n = k <;> by_cases g : n = j <;> by_cases e : j = k <;> simp_all [Tab.erase, Tab.get_cons]

theorem Tab.get_put (d : α) (t : List (Nat × α)) (k : Nat) (v : α) (j : Nat) :
    Tab.get d (Tab.put t k v) j = if j = k then v else Tab.get d t j := by
  induction t with
  | nil => by_cases e : k = j <;> simp [Tab.put, Tab.get_cons, e, eq_comm]
  | cons p t ih =>
    obtain ⟨n, w⟩ := p
    simp only [Tab.put]
    by_cases h : n = k
    · subst h; rw [if_pos rfl, Tab.get_cons, Tab.get_cons]
      by_cases g : n = j
      · rw [if_pos g, if_pos g.symm]
      · rw [if_neg g, if_neg g, if_neg (Ne.symm g)]
    · rw [if_neg h]
      split
      · rw [Tab.get_cons]
        by_cases e : k = j
        · rw [if_pos e, if_pos e.symm]
        · rw [if_neg e, if_neg (Ne.symm e)]
      · rw [Tab.get_cons, Tab.get_cons, ih]
        by_cases g : n = j
        · have : j ≠ k := fun e => h (g.trans e)
          rw [if_pos g, if_pos g, if_neg this]
        · rw [if_neg g, if_neg g]

/-- A read after a write, at any number. -/
theorem Tab.get_set [DecidableEq α] (d : α) (t : List (Nat × α)) (k : Nat) (v : α) (j : Nat) :
    Tab.get d (Tab.set d t k v) j = if j = k then v else Tab.get d t j := by
  unfold Tab.set; split
  · rename_i h; subst h; exact Tab.get_erase ..
  · exact Tab.get_put ..

@[simp] theorem Tab.get_set_self [DecidableEq α] (d : α) (t : List (Nat × α)) (k : Nat) (v : α) :
    Tab.get d (Tab.set d t k v) k = v := by simp [Tab.get_set]

theorem Tab.get_set_ne [DecidableEq α] (d : α) (t : List (Nat × α)) {k j : Nat} (v : α) (h : j ≠ k) :
    Tab.get d (Tab.set d t k v) j = Tab.get d t j := by simp [Tab.get_set, h]

/-! ## The form -/

theorem Tab.rising_mono {lo hi : Nat} (h : lo ≤ hi) {t : List (Nat × α)} (r : Tab.rising hi t = true) : Tab.rising lo t = true := by
  cases t with
  | nil => rfl
  | cons p t => simp only [Tab.rising, Bool.and_eq_true, decide_eq_true_eq] at r ⊢; exact ⟨by omega, r.2⟩

theorem Tab.rising_filter (f : Nat × α → Bool) : ∀ (t : List (Nat × α)) (lo : Nat), Tab.rising lo t = true → Tab.rising lo (t.filter f) = true
  | [], _, _ => rfl
  | (k, v) :: t, lo, h => by
    simp only [Tab.rising, Bool.and_eq_true, decide_eq_true_eq] at h
    simp only [List.filter]
    split
    · simp only [Tab.rising, Bool.and_eq_true, decide_eq_true_eq]; exact ⟨h.1, Tab.rising_filter f t _ h.2⟩
    · exact Tab.rising_mono (by omega) (Tab.rising_filter f t _ h.2)

theorem Tab.rising_erase : ∀ (t : List (Nat × α)) (k lo : Nat), Tab.rising lo t = true → Tab.rising lo (Tab.erase t k) = true
  | [], _, _, _ => rfl
  | (n, v) :: t, k, lo, h => by
    simp only [Tab.rising, Bool.and_eq_true, decide_eq_true_eq] at h
    simp only [Tab.erase]
    split
    · exact Tab.rising_mono (by omega) (Tab.rising_erase t k _ h.2)
    · simp only [Tab.rising, Bool.and_eq_true, decide_eq_true_eq]; exact ⟨h.1, Tab.rising_erase t k _ h.2⟩

theorem Tab.rising_put : ∀ (t : List (Nat × α)) (k : Nat) (v : α) (lo : Nat), lo ≤ k → Tab.rising lo t = true →
    Tab.rising lo (Tab.put t k v) = true
  | [], k, v, lo, hk, _ => by simp [Tab.put, Tab.rising, hk]
  | (n, w) :: t, k, v, lo, hk, h => by
    simp only [Tab.rising, Bool.and_eq_true, decide_eq_true_eq] at h
    simp only [Tab.put]
    split
    · simp_all [Tab.rising]
    · split
      · simp only [Tab.rising, Bool.and_eq_true, decide_eq_true_eq]; exact ⟨hk, by omega, h.2⟩
      · simp only [Tab.rising, Bool.and_eq_true, decide_eq_true_eq]
        exact ⟨h.1, Tab.rising_put t k v _ (by omega) h.2⟩

theorem Tab.all_erase (p : Nat × α → Bool) : ∀ (t : List (Nat × α)) (k : Nat), t.all p = true → (Tab.erase t k).all p = true
  | [], _, _ => rfl
  | (n, v) :: t, k, h => by
    simp only [List.all_cons, Bool.and_eq_true] at h
    simp only [Tab.erase]
    split
    · exact Tab.all_erase p t k h.2
    · simp [h.1, Tab.all_erase p t k h.2]

theorem Tab.all_put (p : Nat × α → Bool) : ∀ (t : List (Nat × α)) (k : Nat) (v : α), p (k, v) = true → t.all p = true →
    (Tab.put t k v).all p = true
  | [], k, v, hv, _ => by simp [Tab.put, hv]
  | (n, w) :: t, k, v, hv, h => by
    simp only [List.all_cons, Bool.and_eq_true] at h
    simp only [Tab.put]
    split
    · simp [hv, h.2]
    · split
      · simp only [List.all_cons, Bool.and_eq_true]; exact ⟨hv, h.1, h.2⟩
      · simp only [List.all_cons, Bool.and_eq_true]; exact ⟨h.1, Tab.all_put p t k v hv h.2⟩

/-- A write keeps the form. -/
theorem Tab.wf_set [DecidableEq α] (d : α) (t : List (Nat × α)) (k : Nat) (v : α) (h : Tab.wf d t = true) :
    Tab.wf d (Tab.set d t k v) = true := by
  simp only [Tab.wf, Bool.and_eq_true] at h ⊢
  unfold Tab.set
  split
  · exact ⟨Tab.rising_erase _ _ _ h.1, Tab.all_erase _ _ _ h.2⟩
  · rename_i hv
    exact ⟨Tab.rising_put _ _ _ _ (Nat.zero_le _) h.1, Tab.all_put _ _ _ _ (by simp [hv]) h.2⟩

/-- Leaving entries out keeps the form. -/
theorem Tab.wf_filter [DecidableEq α] (d : α) (t : List (Nat × α)) (f : Nat × α → Bool) (h : Tab.wf d t = true) :
    Tab.wf d (t.filter f) = true := by
  simp only [Tab.wf, Bool.and_eq_true, List.all_eq_true] at h ⊢
  exact ⟨Tab.rising_filter f _ _ h.1, fun x hx => h.2 x (List.mem_of_mem_filter hx)⟩

@[simp] theorem Tab.wf_nil [DecidableEq α] (d : α) : Tab.wf d ([] : List (Nat × α)) = true := rfl

/-- A change of every entry keeps the form. -/
theorem Tab.wf_mapAll [DecidableEq α] (d : α) (t : List (Nat × α)) (f : Nat → α → α) (h : Tab.wf d t = true) :
    Tab.wf d (Tab.mapAll d t f) = true := by
  unfold Tab.mapAll
  have : ∀ (l u : List (Nat × α)), Tab.wf d u = true →
      Tab.wf d (l.foldl (fun u p => Tab.set d u p.1 (f p.1 (Tab.get d t p.1))) u) = true := by
    intro l
    induction l with
    | nil => intro u hu; exact hu
    | cons p l ih => intro u hu; exact ih _ (Tab.wf_set _ _ _ _ hu)
  exact this t t h

theorem Tab.get_unlisted (d : α) (t : List (Nat × α)) (k : Nat) (h : ∀ p ∈ t, p.1 ≠ k) : Tab.get d t k = d := by
  induction t with
  | nil => rfl
  | cons p t ih =>
    rw [Tab.get_cons, if_neg (h p (List.mem_cons_self ..))]
    exact ih (fun q hq => h q (List.mem_cons_of_mem _ hq))

theorem Tab.get_mapAll_fold [DecidableEq α] (d : α) (t : List (Nat × α)) (f : Nat → α → α) (k : Nat) :
    ∀ (l u : List (Nat × α)), Tab.get d (l.foldl (fun u p => Tab.set d u p.1 (f p.1 (Tab.get d t p.1))) u) k =
      if ∃ p ∈ l, p.1 = k then f k (Tab.get d t k) else Tab.get d u k := by
  intro l
  induction l with
  | nil => intro u; simp
  | cons p l ih =>
    intro u
    rw [List.foldl_cons, ih, Tab.get_set]
    by_cases h1 : ∃ q ∈ l, q.1 = k
    · rw [if_pos h1, if_pos]
      obtain ⟨q, hq, e⟩ := h1; exact ⟨q, List.mem_cons_of_mem _ hq, e⟩
    · rw [if_neg h1]
      by_cases h2 : k = p.1
      · subst h2; rw [if_pos rfl, if_pos ⟨p, List.mem_cons_self .., rfl⟩]
      · rw [if_neg h2, if_neg]
        rintro ⟨q, hq, e⟩
        rcases List.mem_cons.1 hq with rfl | hq
        · exact h2 e.symm
        · exact h1 ⟨q, hq, e⟩

/-- What a changed table reads as, where the change leaves an unlisted entry as it is. -/
theorem Tab.get_mapAll [DecidableEq α] (d : α) (t : List (Nat × α)) (f : Nat → α → α) (hf : ∀ k, f k d = d) (k : Nat) :
    Tab.get d (Tab.mapAll d t f) k = f k (Tab.get d t k) := by
  unfold Tab.mapAll
  rw [Tab.get_mapAll_fold]
  split
  · rfl
  · rename_i h
    rw [Tab.get_unlisted d t k (fun p hp e => h ⟨p, hp, e⟩), hf]

end Sys2Proof.Machine
end

