-- ==== Sys2Proof/Laws/State.lean ====
section
/-!
SUPPORT. What each update of the state leaves as it was, one lemma per update and field; and what a read sees after an update.
-/

namespace Sys2Proof.Machine

open Sys2Proof

variable (s : State)


/-! ### setSlot -/

@[simp] theorem State.setSlot_now (c k : Nat) (x : Slot) : (s.setSlot c k x).now = s.now := rfl
@[simp] theorem State.setSlot_todo (c k : Nat) (x : Slot) : (s.setSlot c k x).todo = s.todo := rfl
@[simp] theorem State.setSlot_curCore (c k : Nat) (x : Slot) : (s.setSlot c k x).curCore = s.curCore := rfl
@[simp] theorem State.setSlot_curSlot (c k : Nat) (x : Slot) : (s.setSlot c k x).curSlot = s.curSlot := rfl
@[simp] theorem State.setSlot_free (c k : Nat) (x : Slot) : (s.setSlot c k x).free = s.free := rfl
@[simp] theorem State.setSlot_cores (c k : Nat) (x : Slot) : (s.setSlot c k x).cores = s.cores := rfl
@[simp] theorem State.setSlot_clusters (c k : Nat) (x : Slot) : (s.setSlot c k x).clusters = s.clusters := rfl
@[simp] theorem State.setSlot_dies (c k : Nat) (x : Slot) : (s.setSlot c k x).dies = s.dies := rfl
@[simp] theorem State.setSlot_mem (c k : Nat) (x : Slot) : (s.setSlot c k x).mem = s.mem := rfl
@[simp] theorem State.setSlot_empties (c k : Nat) (x : Slot) : (s.setSlot c k x).empties = s.empties := rfl
@[simp] theorem State.setSlot_tags (c k : Nat) (x : Slot) : (s.setSlot c k x).tags = s.tags := rfl
@[simp] theorem State.setSlot_pkg (c k : Nat) (x : Slot) : (s.setSlot c k x).pkg = s.pkg := rfl

/-! ### modSlot -/

@[simp] theorem State.modSlot_now (c k : Nat) (f : Slot → Slot) : (s.modSlot c k f).now = s.now := rfl
@[simp] theorem State.modSlot_todo (c k : Nat) (f : Slot → Slot) : (s.modSlot c k f).todo = s.todo := rfl
@[simp] theorem State.modSlot_curCore (c k : Nat) (f : Slot → Slot) : (s.modSlot c k f).curCore = s.curCore := rfl
@[simp] theorem State.modSlot_curSlot (c k : Nat) (f : Slot → Slot) : (s.modSlot c k f).curSlot = s.curSlot := rfl
@[simp] theorem State.modSlot_free (c k : Nat) (f : Slot → Slot) : (s.modSlot c k f).free = s.free := rfl
@[simp] theorem State.modSlot_cores (c k : Nat) (f : Slot → Slot) : (s.modSlot c k f).cores = s.cores := rfl
@[simp] theorem State.modSlot_clusters (c k : Nat) (f : Slot → Slot) : (s.modSlot c k f).clusters = s.clusters := rfl
@[simp] theorem State.modSlot_dies (c k : Nat) (f : Slot → Slot) : (s.modSlot c k f).dies = s.dies := rfl
@[simp] theorem State.modSlot_mem (c k : Nat) (f : Slot → Slot) : (s.modSlot c k f).mem = s.mem := rfl
@[simp] theorem State.modSlot_empties (c k : Nat) (f : Slot → Slot) : (s.modSlot c k f).empties = s.empties := rfl
@[simp] theorem State.modSlot_tags (c k : Nat) (f : Slot → Slot) : (s.modSlot c k f).tags = s.tags := rfl
@[simp] theorem State.modSlot_pkg (c k : Nat) (f : Slot → Slot) : (s.modSlot c k f).pkg = s.pkg := rfl

/-! ### modMe -/

@[simp] theorem State.modMe_now (f : Slot → Slot) : (s.modMe f).now = s.now := rfl
@[simp] theorem State.modMe_todo (f : Slot → Slot) : (s.modMe f).todo = s.todo := rfl
@[simp] theorem State.modMe_curCore (f : Slot → Slot) : (s.modMe f).curCore = s.curCore := rfl
@[simp] theorem State.modMe_curSlot (f : Slot → Slot) : (s.modMe f).curSlot = s.curSlot := rfl
@[simp] theorem State.modMe_free (f : Slot → Slot) : (s.modMe f).free = s.free := rfl
@[simp] theorem State.modMe_cores (f : Slot → Slot) : (s.modMe f).cores = s.cores := rfl
@[simp] theorem State.modMe_clusters (f : Slot → Slot) : (s.modMe f).clusters = s.clusters := rfl
@[simp] theorem State.modMe_dies (f : Slot → Slot) : (s.modMe f).dies = s.dies := rfl
@[simp] theorem State.modMe_mem (f : Slot → Slot) : (s.modMe f).mem = s.mem := rfl
@[simp] theorem State.modMe_empties (f : Slot → Slot) : (s.modMe f).empties = s.empties := rfl
@[simp] theorem State.modMe_tags (f : Slot → Slot) : (s.modMe f).tags = s.tags := rfl
@[simp] theorem State.modMe_pkg (f : Slot → Slot) : (s.modMe f).pkg = s.pkg := rfl

/-! ### mapSlots -/

@[simp] theorem State.mapSlots_now (f : Nat → Nat → Slot → Slot) : (s.mapSlots f).now = s.now := rfl
@[simp] theorem State.mapSlots_todo (f : Nat → Nat → Slot → Slot) : (s.mapSlots f).todo = s.todo := rfl
@[simp] theorem State.mapSlots_curCore (f : Nat → Nat → Slot → Slot) : (s.mapSlots f).curCore = s.curCore := rfl
@[simp] theorem State.mapSlots_curSlot (f : Nat → Nat → Slot → Slot) : (s.mapSlots f).curSlot = s.curSlot := rfl
@[simp] theorem State.mapSlots_free (f : Nat → Nat → Slot → Slot) : (s.mapSlots f).free = s.free := rfl
@[simp] theorem State.mapSlots_cores (f : Nat → Nat → Slot → Slot) : (s.mapSlots f).cores = s.cores := rfl
@[simp] theorem State.mapSlots_clusters (f : Nat → Nat → Slot → Slot) : (s.mapSlots f).clusters = s.clusters := rfl
@[simp] theorem State.mapSlots_dies (f : Nat → Nat → Slot → Slot) : (s.mapSlots f).dies = s.dies := rfl
@[simp] theorem State.mapSlots_mem (f : Nat → Nat → Slot → Slot) : (s.mapSlots f).mem = s.mem := rfl
@[simp] theorem State.mapSlots_empties (f : Nat → Nat → Slot → Slot) : (s.mapSlots f).empties = s.empties := rfl
@[simp] theorem State.mapSlots_tags (f : Nat → Nat → Slot → Slot) : (s.mapSlots f).tags = s.tags := rfl
@[simp] theorem State.mapSlots_pkg (f : Nat → Nat → Slot → Slot) : (s.mapSlots f).pkg = s.pkg := rfl

/-! ### modCore -/

@[simp] theorem State.modCore_now (c : Nat) (f : Core → Core) : (s.modCore c f).now = s.now := rfl
@[simp] theorem State.modCore_todo (c : Nat) (f : Core → Core) : (s.modCore c f).todo = s.todo := rfl
@[simp] theorem State.modCore_curCore (c : Nat) (f : Core → Core) : (s.modCore c f).curCore = s.curCore := rfl
@[simp] theorem State.modCore_curSlot (c : Nat) (f : Core → Core) : (s.modCore c f).curSlot = s.curSlot := rfl
@[simp] theorem State.modCore_free (c : Nat) (f : Core → Core) : (s.modCore c f).free = s.free := rfl
@[simp] theorem State.modCore_slots (c : Nat) (f : Core → Core) : (s.modCore c f).slots = s.slots := rfl
@[simp] theorem State.modCore_clusters (c : Nat) (f : Core → Core) : (s.modCore c f).clusters = s.clusters := rfl
@[simp] theorem State.modCore_dies (c : Nat) (f : Core → Core) : (s.modCore c f).dies = s.dies := rfl
@[simp] theorem State.modCore_mem (c : Nat) (f : Core → Core) : (s.modCore c f).mem = s.mem := rfl
@[simp] theorem State.modCore_empties (c : Nat) (f : Core → Core) : (s.modCore c f).empties = s.empties := rfl
@[simp] theorem State.modCore_tags (c : Nat) (f : Core → Core) : (s.modCore c f).tags = s.tags := rfl
@[simp] theorem State.modCore_pkg (c : Nat) (f : Core → Core) : (s.modCore c f).pkg = s.pkg := rfl

/-! ### modCluster -/

@[simp] theorem State.modCluster_now (n : Nat) (f : Cluster → Cluster) : (s.modCluster n f).now = s.now := rfl
@[simp] theorem State.modCluster_todo (n : Nat) (f : Cluster → Cluster) : (s.modCluster n f).todo = s.todo := rfl
@[simp] theorem State.modCluster_curCore (n : Nat) (f : Cluster → Cluster) : (s.modCluster n f).curCore = s.curCore := rfl
@[simp] theorem State.modCluster_curSlot (n : Nat) (f : Cluster → Cluster) : (s.modCluster n f).curSlot = s.curSlot := rfl
@[simp] theorem State.modCluster_free (n : Nat) (f : Cluster → Cluster) : (s.modCluster n f).free = s.free := rfl
@[simp] theorem State.modCluster_slots (n : Nat) (f : Cluster → Cluster) : (s.modCluster n f).slots = s.slots := rfl
@[simp] theorem State.modCluster_cores (n : Nat) (f : Cluster → Cluster) : (s.modCluster n f).cores = s.cores := rfl
@[simp] theorem State.modCluster_dies (n : Nat) (f : Cluster → Cluster) : (s.modCluster n f).dies = s.dies := rfl
@[simp] theorem State.modCluster_mem (n : Nat) (f : Cluster → Cluster) : (s.modCluster n f).mem = s.mem := rfl
@[simp] theorem State.modCluster_empties (n : Nat) (f : Cluster → Cluster) : (s.modCluster n f).empties = s.empties := rfl
@[simp] theorem State.modCluster_tags (n : Nat) (f : Cluster → Cluster) : (s.modCluster n f).tags = s.tags := rfl
@[simp] theorem State.modCluster_pkg (n : Nat) (f : Cluster → Cluster) : (s.modCluster n f).pkg = s.pkg := rfl

/-! ### modDie -/

@[simp] theorem State.modDie_now (d : Nat) (f : Die → Die) : (s.modDie d f).now = s.now := rfl
@[simp] theorem State.modDie_todo (d : Nat) (f : Die → Die) : (s.modDie d f).todo = s.todo := rfl
@[simp] theorem State.modDie_curCore (d : Nat) (f : Die → Die) : (s.modDie d f).curCore = s.curCore := rfl
@[simp] theorem State.modDie_curSlot (d : Nat) (f : Die → Die) : (s.modDie d f).curSlot = s.curSlot := rfl
@[simp] theorem State.modDie_free (d : Nat) (f : Die → Die) : (s.modDie d f).free = s.free := rfl
@[simp] theorem State.modDie_slots (d : Nat) (f : Die → Die) : (s.modDie d f).slots = s.slots := rfl
@[simp] theorem State.modDie_cores (d : Nat) (f : Die → Die) : (s.modDie d f).cores = s.cores := rfl
@[simp] theorem State.modDie_clusters (d : Nat) (f : Die → Die) : (s.modDie d f).clusters = s.clusters := rfl
@[simp] theorem State.modDie_mem (d : Nat) (f : Die → Die) : (s.modDie d f).mem = s.mem := rfl
@[simp] theorem State.modDie_empties (d : Nat) (f : Die → Die) : (s.modDie d f).empties = s.empties := rfl
@[simp] theorem State.modDie_tags (d : Nat) (f : Die → Die) : (s.modDie d f).tags = s.tags := rfl
@[simp] theorem State.modDie_pkg (d : Nat) (f : Die → Die) : (s.modDie d f).pkg = s.pkg := rfl

/-! ### modTenant -/

@[simp] theorem State.modTenant_now (d x : Nat) (f : TenantDie → TenantDie) : (s.modTenant d x f).now = s.now := rfl
@[simp] theorem State.modTenant_todo (d x : Nat) (f : TenantDie → TenantDie) : (s.modTenant d x f).todo = s.todo := rfl
@[simp] theorem State.modTenant_curCore (d x : Nat) (f : TenantDie → TenantDie) : (s.modTenant d x f).curCore = s.curCore := rfl
@[simp] theorem State.modTenant_curSlot (d x : Nat) (f : TenantDie → TenantDie) : (s.modTenant d x f).curSlot = s.curSlot := rfl
@[simp] theorem State.modTenant_free (d x : Nat) (f : TenantDie → TenantDie) : (s.modTenant d x f).free = s.free := rfl
@[simp] theorem State.modTenant_slots (d x : Nat) (f : TenantDie → TenantDie) : (s.modTenant d x f).slots = s.slots := rfl
@[simp] theorem State.modTenant_cores (d x : Nat) (f : TenantDie → TenantDie) : (s.modTenant d x f).cores = s.cores := rfl
@[simp] theorem State.modTenant_clusters (d x : Nat) (f : TenantDie → TenantDie) : (s.modTenant d x f).clusters = s.clusters := rfl
@[simp] theorem State.modTenant_mem (d x : Nat) (f : TenantDie → TenantDie) : (s.modTenant d x f).mem = s.mem := rfl
@[simp] theorem State.modTenant_empties (d x : Nat) (f : TenantDie → TenantDie) : (s.modTenant d x f).empties = s.empties := rfl
@[simp] theorem State.modTenant_tags (d x : Nat) (f : TenantDie → TenantDie) : (s.modTenant d x f).tags = s.tags := rfl
@[simp] theorem State.modTenant_pkg (d x : Nat) (f : TenantDie → TenantDie) : (s.modTenant d x f).pkg = s.pkg := rfl

/-! ### modPkg -/

@[simp] theorem State.modPkg_now (f : Pkg → Pkg) : (s.modPkg f).now = s.now := rfl
@[simp] theorem State.modPkg_todo (f : Pkg → Pkg) : (s.modPkg f).todo = s.todo := rfl
@[simp] theorem State.modPkg_curCore (f : Pkg → Pkg) : (s.modPkg f).curCore = s.curCore := rfl
@[simp] theorem State.modPkg_curSlot (f : Pkg → Pkg) : (s.modPkg f).curSlot = s.curSlot := rfl
@[simp] theorem State.modPkg_free (f : Pkg → Pkg) : (s.modPkg f).free = s.free := rfl
@[simp] theorem State.modPkg_slots (f : Pkg → Pkg) : (s.modPkg f).slots = s.slots := rfl
@[simp] theorem State.modPkg_cores (f : Pkg → Pkg) : (s.modPkg f).cores = s.cores := rfl
@[simp] theorem State.modPkg_clusters (f : Pkg → Pkg) : (s.modPkg f).clusters = s.clusters := rfl
@[simp] theorem State.modPkg_dies (f : Pkg → Pkg) : (s.modPkg f).dies = s.dies := rfl
@[simp] theorem State.modPkg_mem (f : Pkg → Pkg) : (s.modPkg f).mem = s.mem := rfl
@[simp] theorem State.modPkg_empties (f : Pkg → Pkg) : (s.modPkg f).empties = s.empties := rfl
@[simp] theorem State.modPkg_tags (f : Pkg → Pkg) : (s.modPkg f).tags = s.tags := rfl

/-! ### modKey -/

@[simp] theorem State.modKey_now (n : Nat) (f : KeySlot → KeySlot) : (s.modKey n f).now = s.now := rfl
@[simp] theorem State.modKey_todo (n : Nat) (f : KeySlot → KeySlot) : (s.modKey n f).todo = s.todo := rfl
@[simp] theorem State.modKey_curCore (n : Nat) (f : KeySlot → KeySlot) : (s.modKey n f).curCore = s.curCore := rfl
@[simp] theorem State.modKey_curSlot (n : Nat) (f : KeySlot → KeySlot) : (s.modKey n f).curSlot = s.curSlot := rfl
@[simp] theorem State.modKey_free (n : Nat) (f : KeySlot → KeySlot) : (s.modKey n f).free = s.free := rfl
@[simp] theorem State.modKey_slots (n : Nat) (f : KeySlot → KeySlot) : (s.modKey n f).slots = s.slots := rfl
@[simp] theorem State.modKey_cores (n : Nat) (f : KeySlot → KeySlot) : (s.modKey n f).cores = s.cores := rfl
@[simp] theorem State.modKey_clusters (n : Nat) (f : KeySlot → KeySlot) : (s.modKey n f).clusters = s.clusters := rfl
@[simp] theorem State.modKey_dies (n : Nat) (f : KeySlot → KeySlot) : (s.modKey n f).dies = s.dies := rfl
@[simp] theorem State.modKey_mem (n : Nat) (f : KeySlot → KeySlot) : (s.modKey n f).mem = s.mem := rfl
@[simp] theorem State.modKey_empties (n : Nat) (f : KeySlot → KeySlot) : (s.modKey n f).empties = s.empties := rfl
@[simp] theorem State.modKey_tags (n : Nat) (f : KeySlot → KeySlot) : (s.modKey n f).tags = s.tags := rfl

/-! ### modCapsule -/

@[simp] theorem State.modCapsule_now (h : Nat) (f : Capsule → Capsule) : (s.modCapsule h f).now = s.now := rfl
@[simp] theorem State.modCapsule_todo (h : Nat) (f : Capsule → Capsule) : (s.modCapsule h f).todo = s.todo := rfl
@[simp] theorem State.modCapsule_curCore (h : Nat) (f : Capsule → Capsule) : (s.modCapsule h f).curCore = s.curCore := rfl
@[simp] theorem State.modCapsule_curSlot (h : Nat) (f : Capsule → Capsule) : (s.modCapsule h f).curSlot = s.curSlot := rfl
@[simp] theorem State.modCapsule_free (h : Nat) (f : Capsule → Capsule) : (s.modCapsule h f).free = s.free := rfl
@[simp] theorem State.modCapsule_slots (h : Nat) (f : Capsule → Capsule) : (s.modCapsule h f).slots = s.slots := rfl
@[simp] theorem State.modCapsule_cores (h : Nat) (f : Capsule → Capsule) : (s.modCapsule h f).cores = s.cores := rfl
@[simp] theorem State.modCapsule_clusters (h : Nat) (f : Capsule → Capsule) : (s.modCapsule h f).clusters = s.clusters := rfl
@[simp] theorem State.modCapsule_dies (h : Nat) (f : Capsule → Capsule) : (s.modCapsule h f).dies = s.dies := rfl
@[simp] theorem State.modCapsule_mem (h : Nat) (f : Capsule → Capsule) : (s.modCapsule h f).mem = s.mem := rfl
@[simp] theorem State.modCapsule_empties (h : Nat) (f : Capsule → Capsule) : (s.modCapsule h f).empties = s.empties := rfl
@[simp] theorem State.modCapsule_tags (h : Nat) (f : Capsule → Capsule) : (s.modCapsule h f).tags = s.tags := rfl

/-! ### nextFree -/

@[simp] theorem State.nextFree_now : (s.nextFree).now = s.now := rfl
@[simp] theorem State.nextFree_todo : (s.nextFree).todo = s.todo := rfl
@[simp] theorem State.nextFree_curCore : (s.nextFree).curCore = s.curCore := rfl
@[simp] theorem State.nextFree_curSlot : (s.nextFree).curSlot = s.curSlot := rfl
@[simp] theorem State.nextFree_slots : (s.nextFree).slots = s.slots := rfl
@[simp] theorem State.nextFree_cores : (s.nextFree).cores = s.cores := rfl
@[simp] theorem State.nextFree_clusters : (s.nextFree).clusters = s.clusters := rfl
@[simp] theorem State.nextFree_dies : (s.nextFree).dies = s.dies := rfl
@[simp] theorem State.nextFree_mem : (s.nextFree).mem = s.mem := rfl
@[simp] theorem State.nextFree_empties : (s.nextFree).empties = s.empties := rfl
@[simp] theorem State.nextFree_tags : (s.nextFree).tags = s.tags := rfl
@[simp] theorem State.nextFree_pkg : (s.nextFree).pkg = s.pkg := rfl

/-! ### park -/

@[simp] theorem State.park_now (n : Nat) (p : Pend) : (s.park n p).now = s.now := rfl
@[simp] theorem State.park_todo (n : Nat) (p : Pend) : (s.park n p).todo = s.todo := rfl
@[simp] theorem State.park_curCore (n : Nat) (p : Pend) : (s.park n p).curCore = s.curCore := rfl
@[simp] theorem State.park_curSlot (n : Nat) (p : Pend) : (s.park n p).curSlot = s.curSlot := rfl
@[simp] theorem State.park_free (n : Nat) (p : Pend) : (s.park n p).free = s.free := rfl
@[simp] theorem State.park_cores (n : Nat) (p : Pend) : (s.park n p).cores = s.cores := rfl
@[simp] theorem State.park_clusters (n : Nat) (p : Pend) : (s.park n p).clusters = s.clusters := rfl
@[simp] theorem State.park_dies (n : Nat) (p : Pend) : (s.park n p).dies = s.dies := rfl
@[simp] theorem State.park_mem (n : Nat) (p : Pend) : (s.park n p).mem = s.mem := rfl
@[simp] theorem State.park_empties (n : Nat) (p : Pend) : (s.park n p).empties = s.empties := rfl
@[simp] theorem State.park_tags (n : Nat) (p : Pend) : (s.park n p).tags = s.tags := rfl
@[simp] theorem State.park_pkg (n : Nat) (p : Pend) : (s.park n p).pkg = s.pkg := rfl

/-! ### parkOn -/

@[simp] theorem State.parkOn_now (b : Bool) (n : Nat) (p : Pend) : (s.parkOn b n p).now = s.now := rfl
@[simp] theorem State.parkOn_todo (b : Bool) (n : Nat) (p : Pend) : (s.parkOn b n p).todo = s.todo := rfl
@[simp] theorem State.parkOn_curCore (b : Bool) (n : Nat) (p : Pend) : (s.parkOn b n p).curCore = s.curCore := rfl
@[simp] theorem State.parkOn_curSlot (b : Bool) (n : Nat) (p : Pend) : (s.parkOn b n p).curSlot = s.curSlot := rfl
@[simp] theorem State.parkOn_free (b : Bool) (n : Nat) (p : Pend) : (s.parkOn b n p).free = s.free := rfl
@[simp] theorem State.parkOn_cores (b : Bool) (n : Nat) (p : Pend) : (s.parkOn b n p).cores = s.cores := rfl
@[simp] theorem State.parkOn_clusters (b : Bool) (n : Nat) (p : Pend) : (s.parkOn b n p).clusters = s.clusters := rfl
@[simp] theorem State.parkOn_dies (b : Bool) (n : Nat) (p : Pend) : (s.parkOn b n p).dies = s.dies := rfl
@[simp] theorem State.parkOn_mem (b : Bool) (n : Nat) (p : Pend) : (s.parkOn b n p).mem = s.mem := rfl
@[simp] theorem State.parkOn_empties (b : Bool) (n : Nat) (p : Pend) : (s.parkOn b n p).empties = s.empties := rfl
@[simp] theorem State.parkOn_tags (b : Bool) (n : Nat) (p : Pend) : (s.parkOn b n p).tags = s.tags := rfl
@[simp] theorem State.parkOn_pkg (b : Bool) (n : Nat) (p : Pend) : (s.parkOn b n p).pkg = s.pkg := rfl

/-! ### parkRetry -/

@[simp] theorem State.parkRetry_now (n : Nat) : (s.parkRetry n).now = s.now := rfl
@[simp] theorem State.parkRetry_todo (n : Nat) : (s.parkRetry n).todo = s.todo := rfl
@[simp] theorem State.parkRetry_curCore (n : Nat) : (s.parkRetry n).curCore = s.curCore := rfl
@[simp] theorem State.parkRetry_curSlot (n : Nat) : (s.parkRetry n).curSlot = s.curSlot := rfl
@[simp] theorem State.parkRetry_free (n : Nat) : (s.parkRetry n).free = s.free := rfl
@[simp] theorem State.parkRetry_cores (n : Nat) : (s.parkRetry n).cores = s.cores := rfl
@[simp] theorem State.parkRetry_clusters (n : Nat) : (s.parkRetry n).clusters = s.clusters := rfl
@[simp] theorem State.parkRetry_dies (n : Nat) : (s.parkRetry n).dies = s.dies := rfl
@[simp] theorem State.parkRetry_mem (n : Nat) : (s.parkRetry n).mem = s.mem := rfl
@[simp] theorem State.parkRetry_empties (n : Nat) : (s.parkRetry n).empties = s.empties := rfl
@[simp] theorem State.parkRetry_tags (n : Nat) : (s.parkRetry n).tags = s.tags := rfl
@[simp] theorem State.parkRetry_pkg (n : Nat) : (s.parkRetry n).pkg = s.pkg := rfl

/-! ### clearLatch -/

@[simp] theorem State.clearLatch_now (c k : Nat) : (s.clearLatch c k).now = s.now := rfl
@[simp] theorem State.clearLatch_todo (c k : Nat) : (s.clearLatch c k).todo = s.todo := rfl
@[simp] theorem State.clearLatch_curCore (c k : Nat) : (s.clearLatch c k).curCore = s.curCore := rfl
@[simp] theorem State.clearLatch_curSlot (c k : Nat) : (s.clearLatch c k).curSlot = s.curSlot := rfl
@[simp] theorem State.clearLatch_free (c k : Nat) : (s.clearLatch c k).free = s.free := rfl
@[simp] theorem State.clearLatch_slots (c k : Nat) : (s.clearLatch c k).slots = s.slots := rfl
@[simp] theorem State.clearLatch_clusters (c k : Nat) : (s.clearLatch c k).clusters = s.clusters := rfl
@[simp] theorem State.clearLatch_dies (c k : Nat) : (s.clearLatch c k).dies = s.dies := rfl
@[simp] theorem State.clearLatch_mem (c k : Nat) : (s.clearLatch c k).mem = s.mem := rfl
@[simp] theorem State.clearLatch_empties (c k : Nat) : (s.clearLatch c k).empties = s.empties := rfl
@[simp] theorem State.clearLatch_tags (c k : Nat) : (s.clearLatch c k).tags = s.tags := rfl
@[simp] theorem State.clearLatch_pkg (c k : Nat) : (s.clearLatch c k).pkg = s.pkg := rfl

/-! ### setChain -/

@[simp] theorem State.setChain_now (c k : Nat) (q : List (Nat × Word)) : (s.setChain c k q).now = s.now := rfl
@[simp] theorem State.setChain_todo (c k : Nat) (q : List (Nat × Word)) : (s.setChain c k q).todo = s.todo := rfl
@[simp] theorem State.setChain_curCore (c k : Nat) (q : List (Nat × Word)) : (s.setChain c k q).curCore = s.curCore := rfl
@[simp] theorem State.setChain_curSlot (c k : Nat) (q : List (Nat × Word)) : (s.setChain c k q).curSlot = s.curSlot := rfl
@[simp] theorem State.setChain_free (c k : Nat) (q : List (Nat × Word)) : (s.setChain c k q).free = s.free := rfl
@[simp] theorem State.setChain_slots (c k : Nat) (q : List (Nat × Word)) : (s.setChain c k q).slots = s.slots := rfl
@[simp] theorem State.setChain_clusters (c k : Nat) (q : List (Nat × Word)) : (s.setChain c k q).clusters = s.clusters := rfl
@[simp] theorem State.setChain_dies (c k : Nat) (q : List (Nat × Word)) : (s.setChain c k q).dies = s.dies := rfl
@[simp] theorem State.setChain_mem (c k : Nat) (q : List (Nat × Word)) : (s.setChain c k q).mem = s.mem := rfl
@[simp] theorem State.setChain_empties (c k : Nat) (q : List (Nat × Word)) : (s.setChain c k q).empties = s.empties := rfl
@[simp] theorem State.setChain_tags (c k : Nat) (q : List (Nat × Word)) : (s.setChain c k q).tags = s.tags := rfl
@[simp] theorem State.setChain_pkg (c k : Nat) (q : List (Nat × Word)) : (s.setChain c k q).pkg = s.pkg := rfl

/-! ### chainPop -/

@[simp] theorem State.chainPop_now (c k : Nat) : (s.chainPop c k).now = s.now := rfl
@[simp] theorem State.chainPop_todo (c k : Nat) : (s.chainPop c k).todo = s.todo := rfl
@[simp] theorem State.chainPop_curCore (c k : Nat) : (s.chainPop c k).curCore = s.curCore := rfl
@[simp] theorem State.chainPop_curSlot (c k : Nat) : (s.chainPop c k).curSlot = s.curSlot := rfl
@[simp] theorem State.chainPop_free (c k : Nat) : (s.chainPop c k).free = s.free := rfl
@[simp] theorem State.chainPop_slots (c k : Nat) : (s.chainPop c k).slots = s.slots := rfl
@[simp] theorem State.chainPop_clusters (c k : Nat) : (s.chainPop c k).clusters = s.clusters := rfl
@[simp] theorem State.chainPop_dies (c k : Nat) : (s.chainPop c k).dies = s.dies := rfl
@[simp] theorem State.chainPop_mem (c k : Nat) : (s.chainPop c k).mem = s.mem := rfl
@[simp] theorem State.chainPop_empties (c k : Nat) : (s.chainPop c k).empties = s.empties := rfl
@[simp] theorem State.chainPop_tags (c k : Nat) : (s.chainPop c k).tags = s.tags := rfl
@[simp] theorem State.chainPop_pkg (c k : Nat) : (s.chainPop c k).pkg = s.pkg := rfl

/-! ### setByte -/

@[simp] theorem State.setByte_now (a : Nat) (b : Byte) : (s.setByte a b).now = s.now := rfl
@[simp] theorem State.setByte_todo (a : Nat) (b : Byte) : (s.setByte a b).todo = s.todo := rfl
@[simp] theorem State.setByte_curCore (a : Nat) (b : Byte) : (s.setByte a b).curCore = s.curCore := rfl
@[simp] theorem State.setByte_curSlot (a : Nat) (b : Byte) : (s.setByte a b).curSlot = s.curSlot := rfl
@[simp] theorem State.setByte_free (a : Nat) (b : Byte) : (s.setByte a b).free = s.free := rfl
@[simp] theorem State.setByte_slots (a : Nat) (b : Byte) : (s.setByte a b).slots = s.slots := rfl
@[simp] theorem State.setByte_cores (a : Nat) (b : Byte) : (s.setByte a b).cores = s.cores := rfl
@[simp] theorem State.setByte_clusters (a : Nat) (b : Byte) : (s.setByte a b).clusters = s.clusters := rfl
@[simp] theorem State.setByte_dies (a : Nat) (b : Byte) : (s.setByte a b).dies = s.dies := rfl
@[simp] theorem State.setByte_empties (a : Nat) (b : Byte) : (s.setByte a b).empties = s.empties := rfl
@[simp] theorem State.setByte_tags (a : Nat) (b : Byte) : (s.setByte a b).tags = s.tags := rfl
@[simp] theorem State.setByte_pkg (a : Nat) (b : Byte) : (s.setByte a b).pkg = s.pkg := rfl

/-! ### setWordFull -/

@[simp] theorem State.setWordFull_now (a : Nat) (b : Bool) : (s.setWordFull a b).now = s.now := rfl
@[simp] theorem State.setWordFull_todo (a : Nat) (b : Bool) : (s.setWordFull a b).todo = s.todo := rfl
@[simp] theorem State.setWordFull_curCore (a : Nat) (b : Bool) : (s.setWordFull a b).curCore = s.curCore := rfl
@[simp] theorem State.setWordFull_curSlot (a : Nat) (b : Bool) : (s.setWordFull a b).curSlot = s.curSlot := rfl
@[simp] theorem State.setWordFull_free (a : Nat) (b : Bool) : (s.setWordFull a b).free = s.free := rfl
@[simp] theorem State.setWordFull_slots (a : Nat) (b : Bool) : (s.setWordFull a b).slots = s.slots := rfl
@[simp] theorem State.setWordFull_cores (a : Nat) (b : Bool) : (s.setWordFull a b).cores = s.cores := rfl
@[simp] theorem State.setWordFull_clusters (a : Nat) (b : Bool) : (s.setWordFull a b).clusters = s.clusters := rfl
@[simp] theorem State.setWordFull_dies (a : Nat) (b : Bool) : (s.setWordFull a b).dies = s.dies := rfl
@[simp] theorem State.setWordFull_mem (a : Nat) (b : Bool) : (s.setWordFull a b).mem = s.mem := rfl
@[simp] theorem State.setWordFull_tags (a : Nat) (b : Bool) : (s.setWordFull a b).tags = s.tags := rfl
@[simp] theorem State.setWordFull_pkg (a : Nat) (b : Bool) : (s.setWordFull a b).pkg = s.pkg := rfl

/-! ### setTag -/

@[simp] theorem State.setTag_now (a t : Nat) : (s.setTag a t).now = s.now := rfl
@[simp] theorem State.setTag_todo (a t : Nat) : (s.setTag a t).todo = s.todo := rfl
@[simp] theorem State.setTag_curCore (a t : Nat) : (s.setTag a t).curCore = s.curCore := rfl
@[simp] theorem State.setTag_curSlot (a t : Nat) : (s.setTag a t).curSlot = s.curSlot := rfl
@[simp] theorem State.setTag_free (a t : Nat) : (s.setTag a t).free = s.free := rfl
@[simp] theorem State.setTag_slots (a t : Nat) : (s.setTag a t).slots = s.slots := rfl
@[simp] theorem State.setTag_cores (a t : Nat) : (s.setTag a t).cores = s.cores := rfl
@[simp] theorem State.setTag_clusters (a t : Nat) : (s.setTag a t).clusters = s.clusters := rfl
@[simp] theorem State.setTag_dies (a t : Nat) : (s.setTag a t).dies = s.dies := rfl
@[simp] theorem State.setTag_mem (a t : Nat) : (s.setTag a t).mem = s.mem := rfl
@[simp] theorem State.setTag_empties (a t : Nat) : (s.setTag a t).empties = s.empties := rfl
@[simp] theorem State.setTag_pkg (a t : Nat) : (s.setTag a t).pkg = s.pkg := rfl

/-! ### setBadWord -/

@[simp] theorem State.setBadWord_now (a : Nat) (b : Bool) : (s.setBadWord a b).now = s.now := rfl
@[simp] theorem State.setBadWord_todo (a : Nat) (b : Bool) : (s.setBadWord a b).todo = s.todo := rfl
@[simp] theorem State.setBadWord_curCore (a : Nat) (b : Bool) : (s.setBadWord a b).curCore = s.curCore := rfl
@[simp] theorem State.setBadWord_curSlot (a : Nat) (b : Bool) : (s.setBadWord a b).curSlot = s.curSlot := rfl
@[simp] theorem State.setBadWord_free (a : Nat) (b : Bool) : (s.setBadWord a b).free = s.free := rfl
@[simp] theorem State.setBadWord_slots (a : Nat) (b : Bool) : (s.setBadWord a b).slots = s.slots := rfl
@[simp] theorem State.setBadWord_cores (a : Nat) (b : Bool) : (s.setBadWord a b).cores = s.cores := rfl
@[simp] theorem State.setBadWord_clusters (a : Nat) (b : Bool) : (s.setBadWord a b).clusters = s.clusters := rfl
@[simp] theorem State.setBadWord_dies (a : Nat) (b : Bool) : (s.setBadWord a b).dies = s.dies := rfl
@[simp] theorem State.setBadWord_mem (a : Nat) (b : Bool) : (s.setBadWord a b).mem = s.mem := rfl
@[simp] theorem State.setBadWord_empties (a : Nat) (b : Bool) : (s.setBadWord a b).empties = s.empties := rfl
@[simp] theorem State.setBadWord_tags (a : Nat) (b : Bool) : (s.setBadWord a b).tags = s.tags := rfl

/-! ### postFault -/

@[simp] theorem State.postFault_now (c k : Nat) : (s.postFault c k).now = s.now := rfl
@[simp] theorem State.postFault_todo (c k : Nat) : (s.postFault c k).todo = s.todo := rfl
@[simp] theorem State.postFault_curCore (c k : Nat) : (s.postFault c k).curCore = s.curCore := rfl
@[simp] theorem State.postFault_curSlot (c k : Nat) : (s.postFault c k).curSlot = s.curSlot := rfl
@[simp] theorem State.postFault_free (c k : Nat) : (s.postFault c k).free = s.free := rfl
@[simp] theorem State.postFault_slots (c k : Nat) : (s.postFault c k).slots = s.slots := rfl
@[simp] theorem State.postFault_cores (c k : Nat) : (s.postFault c k).cores = s.cores := rfl
@[simp] theorem State.postFault_clusters (c k : Nat) : (s.postFault c k).clusters = s.clusters := rfl
@[simp] theorem State.postFault_dies (c k : Nat) : (s.postFault c k).dies = s.dies := rfl
@[simp] theorem State.postFault_mem (c k : Nat) : (s.postFault c k).mem = s.mem := rfl
@[simp] theorem State.postFault_empties (c k : Nat) : (s.postFault c k).empties = s.empties := rfl
@[simp] theorem State.postFault_tags (c k : Nat) : (s.postFault c k).tags = s.tags := rfl

/-! ### takeFault -/

@[simp] theorem State.takeFault_now (c k : Nat) (code : FaultCode) (fa fv : Word) (i : Bool) : (s.takeFault c k code fa fv i).now = s.now := rfl
@[simp] theorem State.takeFault_todo (c k : Nat) (code : FaultCode) (fa fv : Word) (i : Bool) : (s.takeFault c k code fa fv i).todo = s.todo := rfl
@[simp] theorem State.takeFault_curCore (c k : Nat) (code : FaultCode) (fa fv : Word) (i : Bool) : (s.takeFault c k code fa fv i).curCore = s.curCore := rfl
@[simp] theorem State.takeFault_curSlot (c k : Nat) (code : FaultCode) (fa fv : Word) (i : Bool) : (s.takeFault c k code fa fv i).curSlot = s.curSlot := rfl
@[simp] theorem State.takeFault_free (c k : Nat) (code : FaultCode) (fa fv : Word) (i : Bool) : (s.takeFault c k code fa fv i).free = s.free := rfl
@[simp] theorem State.takeFault_cores (c k : Nat) (code : FaultCode) (fa fv : Word) (i : Bool) : (s.takeFault c k code fa fv i).cores = s.cores := rfl
@[simp] theorem State.takeFault_clusters (c k : Nat) (code : FaultCode) (fa fv : Word) (i : Bool) : (s.takeFault c k code fa fv i).clusters = s.clusters := rfl
@[simp] theorem State.takeFault_dies (c k : Nat) (code : FaultCode) (fa fv : Word) (i : Bool) : (s.takeFault c k code fa fv i).dies = s.dies := rfl
@[simp] theorem State.takeFault_mem (c k : Nat) (code : FaultCode) (fa fv : Word) (i : Bool) : (s.takeFault c k code fa fv i).mem = s.mem := rfl
@[simp] theorem State.takeFault_empties (c k : Nat) (code : FaultCode) (fa fv : Word) (i : Bool) : (s.takeFault c k code fa fv i).empties = s.empties := rfl
@[simp] theorem State.takeFault_tags (c k : Nat) (code : FaultCode) (fa fv : Word) (i : Bool) : (s.takeFault c k code fa fv i).tags = s.tags := rfl

/-! ### fault -/

@[simp] theorem State.fault_now (code : FaultCode) (fa fv : Word) : (s.fault code fa fv).now = s.now := rfl
@[simp] theorem State.fault_todo (code : FaultCode) (fa fv : Word) : (s.fault code fa fv).todo = s.todo := rfl
@[simp] theorem State.fault_curCore (code : FaultCode) (fa fv : Word) : (s.fault code fa fv).curCore = s.curCore := rfl
@[simp] theorem State.fault_curSlot (code : FaultCode) (fa fv : Word) : (s.fault code fa fv).curSlot = s.curSlot := rfl
@[simp] theorem State.fault_free (code : FaultCode) (fa fv : Word) : (s.fault code fa fv).free = s.free := rfl
@[simp] theorem State.fault_cores (code : FaultCode) (fa fv : Word) : (s.fault code fa fv).cores = s.cores := rfl
@[simp] theorem State.fault_clusters (code : FaultCode) (fa fv : Word) : (s.fault code fa fv).clusters = s.clusters := rfl
@[simp] theorem State.fault_dies (code : FaultCode) (fa fv : Word) : (s.fault code fa fv).dies = s.dies := rfl
@[simp] theorem State.fault_mem (code : FaultCode) (fa fv : Word) : (s.fault code fa fv).mem = s.mem := rfl
@[simp] theorem State.fault_empties (code : FaultCode) (fa fv : Word) : (s.fault code fa fv).empties = s.empties := rfl
@[simp] theorem State.fault_tags (code : FaultCode) (fa fv : Word) : (s.fault code fa fv).tags = s.tags := rfl

/-! ### advance -/

@[simp] theorem State.advance_now : (s.advance).now = s.now := rfl
@[simp] theorem State.advance_todo : (s.advance).todo = s.todo := rfl
@[simp] theorem State.advance_curCore : (s.advance).curCore = s.curCore := rfl
@[simp] theorem State.advance_curSlot : (s.advance).curSlot = s.curSlot := rfl
@[simp] theorem State.advance_free : (s.advance).free = s.free := rfl
@[simp] theorem State.advance_cores : (s.advance).cores = s.cores := rfl
@[simp] theorem State.advance_clusters : (s.advance).clusters = s.clusters := rfl
@[simp] theorem State.advance_dies : (s.advance).dies = s.dies := rfl
@[simp] theorem State.advance_mem : (s.advance).mem = s.mem := rfl
@[simp] theorem State.advance_empties : (s.advance).empties = s.empties := rfl
@[simp] theorem State.advance_tags : (s.advance).tags = s.tags := rfl
@[simp] theorem State.advance_pkg : (s.advance).pkg = s.pkg := rfl

/-! ## Reads after updates -/

theorem State.slot_setSlot (c k : Nat) (x : Slot) (c' k' : Nat) :
    (s.setSlot c k x).slot c' k' = if 16 * c' + k' = 16 * c + k then x else s.slot c' k' := by
  simp only [State.slot, State.setSlot, Tab.get_set]

@[simp] theorem State.slot_setSlot_self (c k : Nat) (x : Slot) : (s.setSlot c k x).slot c k = x := by
  simp [State.slot_setSlot]

theorem State.slot_setSlot_ne {c k c' k' : Nat} (x : Slot) (h : 16 * c' + k' ≠ 16 * c + k) :
    (s.setSlot c k x).slot c' k' = s.slot c' k' := by simp [State.slot_setSlot, h]

theorem State.slot_modSlot (c k : Nat) (f : Slot → Slot) (c' k' : Nat) :
    (s.modSlot c k f).slot c' k' = if 16 * c' + k' = 16 * c + k then f (s.slot c k) else s.slot c' k' := State.slot_setSlot ..

@[simp] theorem State.slot_modSlot_self (c k : Nat) (f : Slot → Slot) : (s.modSlot c k f).slot c k = f (s.slot c k) := by
  simp [State.slot_modSlot]

@[simp] theorem State.me_modMe (f : Slot → Slot) : (s.modMe f).me = f s.me := State.slot_modSlot_self ..

@[simp] theorem State.slot_modMe_self (f : Slot → Slot) : (s.modMe f).slot s.curCore s.curSlot = f s.me := State.slot_modSlot_self ..

theorem State.slot_modMe_ne {c k : Nat} (f : Slot → Slot) (h : 16 * c + k ≠ 16 * s.curCore + s.curSlot) :
    (s.modMe f).slot c k = s.slot c k := State.slot_setSlot_ne s _ h

@[simp] theorem State.setSlot_setSlot_slot (c k : Nat) (x y : Slot) : ((s.setSlot c k x).setSlot c k y).slot c k = y := by simp

theorem State.core_modCore (c : Nat) (f : Core → Core) (c' : Nat) :
    (s.modCore c f).core c' = if c' = c then f (s.core c) else s.core c' := by
  simp only [State.core, State.modCore, Tab.get_set]

@[simp] theorem State.core_modCore_self (c : Nat) (f : Core → Core) : (s.modCore c f).core c = f (s.core c) := by
  simp [State.core_modCore]

theorem State.core_modCore_ne {c c' : Nat} (f : Core → Core) (h : c' ≠ c) : (s.modCore c f).core c' = s.core c' := by
  simp [State.core_modCore, h]

theorem State.cluster_modCluster (n : Nat) (f : Cluster → Cluster) (m : Nat) :
    (s.modCluster n f).cluster m = if m = n then f (s.cluster n) else s.cluster m := by
  simp only [State.cluster, State.modCluster, Tab.get_set]

@[simp] theorem State.cluster_modCluster_self (n : Nat) (f : Cluster → Cluster) : (s.modCluster n f).cluster n = f (s.cluster n) := by
  simp [State.cluster_modCluster]

theorem State.die_modDie (d : Nat) (f : Die → Die) (e : Nat) :
    (s.modDie d f).die e = if e = d then f (s.die d) else s.die e := by
  simp only [State.die, State.modDie, Tab.get_set]

@[simp] theorem State.die_modDie_self (d : Nat) (f : Die → Die) : (s.modDie d f).die d = f (s.die d) := by
  simp [State.die_modDie]

theorem State.tenantDie_modTenant (d x : Nat) (f : TenantDie → TenantDie) (e y : Nat) :
    (s.modTenant d x f).tenantDie e y = if e = d ∧ y = x then f (s.tenantDie d x) else s.tenantDie e y := by
  simp only [State.tenantDie, State.modTenant, State.die_modDie]
  by_cases h : e = d
  · subst h; simp [Tab.get_set]
  · simp [h]

theorem State.keySlot_modKey (n : Nat) (f : KeySlot → KeySlot) (m : Nat) :
    (s.modKey n f).keySlot m = if m = n then f (s.keySlot n) else s.keySlot m := by
  simp only [State.keySlot, State.modKey, State.modPkg, Tab.get_set]

/-- A byte of memory after a write of one byte. -/
theorem State.byteAt_setByte (a : Nat) (b : Byte) (j : Nat) : (s.setByte a b).byteAt j = if j = a then b else s.byteAt j := by
  simp only [State.byteAt, State.setByte, Tab.get_set]

theorem State.wordFull_setWordFull (a : Nat) (b : Bool) (j : Nat) :
    (s.setWordFull a b).wordFull j = if j / 8 = a / 8 then b else s.wordFull j := by
  simp only [State.wordFull, State.setWordFull, Tab.get_set]

theorem State.tagOf_setTag (a t j : Nat) : (s.setTag a t).tagOf j = if j / 8 = a / 8 then t else s.tagOf j := by
  simp only [State.tagOf, State.setTag, Tab.get_set]

/-- The slots of other cores and numbers, and every other register table, are as they were. -/
@[simp] theorem State.core_setSlot (c k : Nat) (x : Slot) (n : Nat) : (s.setSlot c k x).core n = s.core n := rfl
@[simp] theorem State.core_modSlot (c k : Nat) (f : Slot → Slot) (n : Nat) : (s.modSlot c k f).core n = s.core n := rfl
@[simp] theorem State.core_modMe (f : Slot → Slot) (n : Nat) : (s.modMe f).core n = s.core n := rfl
@[simp] theorem State.slot_modCore (c : Nat) (f : Core → Core) (n k : Nat) : (s.modCore c f).slot n k = s.slot n k := rfl
@[simp] theorem State.slot_modPkg (f : Pkg → Pkg) (n k : Nat) : (s.modPkg f).slot n k = s.slot n k := rfl
@[simp] theorem State.slot_modDie (d : Nat) (f : Die → Die) (n k : Nat) : (s.modDie d f).slot n k = s.slot n k := rfl
@[simp] theorem State.slot_modCluster (d : Nat) (f : Cluster → Cluster) (n k : Nat) : (s.modCluster d f).slot n k = s.slot n k := rfl
@[simp] theorem State.slot_setByte (a : Nat) (b : Byte) (n k : Nat) : (s.setByte a b).slot n k = s.slot n k := rfl
@[simp] theorem State.byteAt_setSlot (c k : Nat) (x : Slot) (a : Nat) : (s.setSlot c k x).byteAt a = s.byteAt a := rfl
@[simp] theorem State.byteAt_modMe (f : Slot → Slot) (a : Nat) : (s.modMe f).byteAt a = s.byteAt a := rfl
@[simp] theorem State.byteAt_modCore (c : Nat) (f : Core → Core) (a : Nat) : (s.modCore c f).byteAt a = s.byteAt a := rfl
@[simp] theorem State.byteAt_modPkg (f : Pkg → Pkg) (a : Nat) : (s.modPkg f).byteAt a = s.byteAt a := rfl

end Sys2Proof.Machine
end

