-- ==== Sys2Proof/Laws/Slot.lean ====
section
/-!
SUPPORT. What each update of a slot leaves as it was, and what registers hold after an update. For every update one lemma names the
fields that it may change, with values that no proof unfolds; the field lemmas follow from it.
-/

namespace Sys2Proof.Machine

open Sys2Proof

variable (x : Slot)


/-! ### setPark -/

theorem Slot.setPark_shape (n : Nat) : ∃ (a_sw : Word), x.setPark n = { x with sw := a_sw } := ⟨_, rfl⟩
@[simp] theorem Slot.setPark_st (n : Nat) : (x.setPark n).st = x.st := by obtain ⟨_, h⟩ := x.setPark_shape n; rw [h]
@[simp] theorem Slot.setPark_g (n : Nat) : (x.setPark n).g = x.g := by obtain ⟨_, h⟩ := x.setPark_shape n; rw [h]
@[simp] theorem Slot.setPark_full (n : Nat) : (x.setPark n).full = x.full := by obtain ⟨_, h⟩ := x.setPark_shape n; rw [h]
@[simp] theorem Slot.setPark_pc (n : Nat) : (x.setPark n).pc = x.pc := by obtain ⟨_, h⟩ := x.setPark_shape n; rw [h]
@[simp] theorem Slot.setPark_fst (n : Nat) : (x.setPark n).fst = x.fst := by obtain ⟨_, h⟩ := x.setPark_shape n; rw [h]
@[simp] theorem Slot.setPark_epc (n : Nat) : (x.setPark n).epc = x.epc := by obtain ⟨_, h⟩ := x.setPark_shape n; rw [h]
@[simp] theorem Slot.setPark_cause (n : Nat) : (x.setPark n).cause = x.cause := by obtain ⟨_, h⟩ := x.setPark_shape n; rw [h]
@[simp] theorem Slot.setPark_fault (n : Nat) : (x.setPark n).fault = x.fault := by obtain ⟨_, h⟩ := x.setPark_shape n; rw [h]
@[simp] theorem Slot.setPark_tenant (n : Nat) : (x.setPark n).tenant = x.tenant := by obtain ⟨_, h⟩ := x.setPark_shape n; rw [h]
@[simp] theorem Slot.setPark_buf (n : Nat) : (x.setPark n).buf = x.buf := by obtain ⟨_, h⟩ := x.setPark_shape n; rw [h]
@[simp] theorem Slot.setPark_out (n : Nat) : (x.setPark n).out = x.out := by obtain ⟨_, h⟩ := x.setPark_shape n; rw [h]
@[simp] theorem Slot.setPark_kern (n : Nat) : (x.setPark n).kern = x.kern := by obtain ⟨_, h⟩ := x.setPark_shape n; rw [h]
@[simp] theorem Slot.setPark_ctx (n : Nat) : (x.setPark n).ctx = x.ctx := by obtain ⟨_, h⟩ := x.setPark_shape n; rw [h]
@[simp] theorem Slot.setPark_claims (n : Nat) : (x.setPark n).claims = x.claims := by obtain ⟨_, h⟩ := x.setPark_shape n; rw [h]
@[simp] theorem Slot.setPark_resv (n : Nat) : (x.setPark n).resv = x.resv := by obtain ⟨_, h⟩ := x.setPark_shape n; rw [h]
@[simp] theorem Slot.setPark_pend (n : Nat) : (x.setPark n).pend = x.pend := by obtain ⟨_, h⟩ := x.setPark_shape n; rw [h]

/-! ### setBgen -/

theorem Slot.setBgen_shape (b : Bool) : ∃ (a_sw : Word), x.setBgen b = { x with sw := a_sw } := ⟨_, rfl⟩
@[simp] theorem Slot.setBgen_st (b : Bool) : (x.setBgen b).st = x.st := by obtain ⟨_, h⟩ := x.setBgen_shape b; rw [h]
@[simp] theorem Slot.setBgen_g (b : Bool) : (x.setBgen b).g = x.g := by obtain ⟨_, h⟩ := x.setBgen_shape b; rw [h]
@[simp] theorem Slot.setBgen_full (b : Bool) : (x.setBgen b).full = x.full := by obtain ⟨_, h⟩ := x.setBgen_shape b; rw [h]
@[simp] theorem Slot.setBgen_pc (b : Bool) : (x.setBgen b).pc = x.pc := by obtain ⟨_, h⟩ := x.setBgen_shape b; rw [h]
@[simp] theorem Slot.setBgen_fst (b : Bool) : (x.setBgen b).fst = x.fst := by obtain ⟨_, h⟩ := x.setBgen_shape b; rw [h]
@[simp] theorem Slot.setBgen_epc (b : Bool) : (x.setBgen b).epc = x.epc := by obtain ⟨_, h⟩ := x.setBgen_shape b; rw [h]
@[simp] theorem Slot.setBgen_cause (b : Bool) : (x.setBgen b).cause = x.cause := by obtain ⟨_, h⟩ := x.setBgen_shape b; rw [h]
@[simp] theorem Slot.setBgen_fault (b : Bool) : (x.setBgen b).fault = x.fault := by obtain ⟨_, h⟩ := x.setBgen_shape b; rw [h]
@[simp] theorem Slot.setBgen_tenant (b : Bool) : (x.setBgen b).tenant = x.tenant := by obtain ⟨_, h⟩ := x.setBgen_shape b; rw [h]
@[simp] theorem Slot.setBgen_buf (b : Bool) : (x.setBgen b).buf = x.buf := by obtain ⟨_, h⟩ := x.setBgen_shape b; rw [h]
@[simp] theorem Slot.setBgen_out (b : Bool) : (x.setBgen b).out = x.out := by obtain ⟨_, h⟩ := x.setBgen_shape b; rw [h]
@[simp] theorem Slot.setBgen_kern (b : Bool) : (x.setBgen b).kern = x.kern := by obtain ⟨_, h⟩ := x.setBgen_shape b; rw [h]
@[simp] theorem Slot.setBgen_ctx (b : Bool) : (x.setBgen b).ctx = x.ctx := by obtain ⟨_, h⟩ := x.setBgen_shape b; rw [h]
@[simp] theorem Slot.setBgen_claims (b : Bool) : (x.setBgen b).claims = x.claims := by obtain ⟨_, h⟩ := x.setBgen_shape b; rw [h]
@[simp] theorem Slot.setBgen_resv (b : Bool) : (x.setBgen b).resv = x.resv := by obtain ⟨_, h⟩ := x.setBgen_shape b; rw [h]
@[simp] theorem Slot.setBgen_pend (b : Bool) : (x.setBgen b).pend = x.pend := by obtain ⟨_, h⟩ := x.setBgen_shape b; rw [h]

/-! ### dropFrame -/

theorem Slot.dropFrame_shape : ∃ (a_sw : Word), x.dropFrame = { x with sw := a_sw } := ⟨_, rfl⟩
@[simp] theorem Slot.dropFrame_st : (x.dropFrame).st = x.st := by obtain ⟨_, h⟩ := x.dropFrame_shape ; rw [h]
@[simp] theorem Slot.dropFrame_g : (x.dropFrame).g = x.g := by obtain ⟨_, h⟩ := x.dropFrame_shape ; rw [h]
@[simp] theorem Slot.dropFrame_full : (x.dropFrame).full = x.full := by obtain ⟨_, h⟩ := x.dropFrame_shape ; rw [h]
@[simp] theorem Slot.dropFrame_pc : (x.dropFrame).pc = x.pc := by obtain ⟨_, h⟩ := x.dropFrame_shape ; rw [h]
@[simp] theorem Slot.dropFrame_fst : (x.dropFrame).fst = x.fst := by obtain ⟨_, h⟩ := x.dropFrame_shape ; rw [h]
@[simp] theorem Slot.dropFrame_epc : (x.dropFrame).epc = x.epc := by obtain ⟨_, h⟩ := x.dropFrame_shape ; rw [h]
@[simp] theorem Slot.dropFrame_cause : (x.dropFrame).cause = x.cause := by obtain ⟨_, h⟩ := x.dropFrame_shape ; rw [h]
@[simp] theorem Slot.dropFrame_fault : (x.dropFrame).fault = x.fault := by obtain ⟨_, h⟩ := x.dropFrame_shape ; rw [h]
@[simp] theorem Slot.dropFrame_tenant : (x.dropFrame).tenant = x.tenant := by obtain ⟨_, h⟩ := x.dropFrame_shape ; rw [h]
@[simp] theorem Slot.dropFrame_buf : (x.dropFrame).buf = x.buf := by obtain ⟨_, h⟩ := x.dropFrame_shape ; rw [h]
@[simp] theorem Slot.dropFrame_out : (x.dropFrame).out = x.out := by obtain ⟨_, h⟩ := x.dropFrame_shape ; rw [h]
@[simp] theorem Slot.dropFrame_kern : (x.dropFrame).kern = x.kern := by obtain ⟨_, h⟩ := x.dropFrame_shape ; rw [h]
@[simp] theorem Slot.dropFrame_ctx : (x.dropFrame).ctx = x.ctx := by obtain ⟨_, h⟩ := x.dropFrame_shape ; rw [h]
@[simp] theorem Slot.dropFrame_claims : (x.dropFrame).claims = x.claims := by obtain ⟨_, h⟩ := x.dropFrame_shape ; rw [h]
@[simp] theorem Slot.dropFrame_resv : (x.dropFrame).resv = x.resv := by obtain ⟨_, h⟩ := x.dropFrame_shape ; rw [h]
@[simp] theorem Slot.dropFrame_pend : (x.dropFrame).pend = x.pend := by obtain ⟨_, h⟩ := x.dropFrame_shape ; rw [h]

/-! ### setReg -/

theorem Slot.setReg_shape (r : Reg) (v : Word) : ∃ (a_g : Vector Word 16) (a_full : BitVec 16) (a_badG : BitVec 16), x.setReg r v = { x with g := a_g, full := a_full, badG := a_badG } := by
  unfold Slot.setReg; split
  · exact ⟨x.g, x.full, x.badG, rfl⟩
  · exact ⟨_, _, _, rfl⟩
@[simp] theorem Slot.setReg_st (r : Reg) (v : Word) : (x.setReg r v).st = x.st := by obtain ⟨_, _, _, h⟩ := x.setReg_shape r v; rw [h]
@[simp] theorem Slot.setReg_pc (r : Reg) (v : Word) : (x.setReg r v).pc = x.pc := by obtain ⟨_, _, _, h⟩ := x.setReg_shape r v; rw [h]
@[simp] theorem Slot.setReg_sw (r : Reg) (v : Word) : (x.setReg r v).sw = x.sw := by obtain ⟨_, _, _, h⟩ := x.setReg_shape r v; rw [h]
@[simp] theorem Slot.setReg_fst (r : Reg) (v : Word) : (x.setReg r v).fst = x.fst := by obtain ⟨_, _, _, h⟩ := x.setReg_shape r v; rw [h]
@[simp] theorem Slot.setReg_epc (r : Reg) (v : Word) : (x.setReg r v).epc = x.epc := by obtain ⟨_, _, _, h⟩ := x.setReg_shape r v; rw [h]
@[simp] theorem Slot.setReg_cause (r : Reg) (v : Word) : (x.setReg r v).cause = x.cause := by obtain ⟨_, _, _, h⟩ := x.setReg_shape r v; rw [h]
@[simp] theorem Slot.setReg_fault (r : Reg) (v : Word) : (x.setReg r v).fault = x.fault := by obtain ⟨_, _, _, h⟩ := x.setReg_shape r v; rw [h]
@[simp] theorem Slot.setReg_tenant (r : Reg) (v : Word) : (x.setReg r v).tenant = x.tenant := by obtain ⟨_, _, _, h⟩ := x.setReg_shape r v; rw [h]
@[simp] theorem Slot.setReg_buf (r : Reg) (v : Word) : (x.setReg r v).buf = x.buf := by obtain ⟨_, _, _, h⟩ := x.setReg_shape r v; rw [h]
@[simp] theorem Slot.setReg_out (r : Reg) (v : Word) : (x.setReg r v).out = x.out := by obtain ⟨_, _, _, h⟩ := x.setReg_shape r v; rw [h]
@[simp] theorem Slot.setReg_kern (r : Reg) (v : Word) : (x.setReg r v).kern = x.kern := by obtain ⟨_, _, _, h⟩ := x.setReg_shape r v; rw [h]
@[simp] theorem Slot.setReg_ctx (r : Reg) (v : Word) : (x.setReg r v).ctx = x.ctx := by obtain ⟨_, _, _, h⟩ := x.setReg_shape r v; rw [h]
@[simp] theorem Slot.setReg_claims (r : Reg) (v : Word) : (x.setReg r v).claims = x.claims := by obtain ⟨_, _, _, h⟩ := x.setReg_shape r v; rw [h]
@[simp] theorem Slot.setReg_resv (r : Reg) (v : Word) : (x.setReg r v).resv = x.resv := by obtain ⟨_, _, _, h⟩ := x.setReg_shape r v; rw [h]
@[simp] theorem Slot.setReg_pend (r : Reg) (v : Word) : (x.setReg r v).pend = x.pend := by obtain ⟨_, _, _, h⟩ := x.setReg_shape r v; rw [h]

/-! ### setFull -/

theorem Slot.setFull_shape (r : Nat) (b : Bool) : ∃ (a_full : BitVec 16), x.setFull r b = { x with full := a_full } := by
  unfold Slot.setFull; split
  · exact ⟨x.full, rfl⟩
  · exact ⟨_, rfl⟩
@[simp] theorem Slot.setFull_st (r : Nat) (b : Bool) : (x.setFull r b).st = x.st := by obtain ⟨_, h⟩ := x.setFull_shape r b; rw [h]
@[simp] theorem Slot.setFull_g (r : Nat) (b : Bool) : (x.setFull r b).g = x.g := by obtain ⟨_, h⟩ := x.setFull_shape r b; rw [h]
@[simp] theorem Slot.setFull_pc (r : Nat) (b : Bool) : (x.setFull r b).pc = x.pc := by obtain ⟨_, h⟩ := x.setFull_shape r b; rw [h]
@[simp] theorem Slot.setFull_sw (r : Nat) (b : Bool) : (x.setFull r b).sw = x.sw := by obtain ⟨_, h⟩ := x.setFull_shape r b; rw [h]
@[simp] theorem Slot.setFull_fst (r : Nat) (b : Bool) : (x.setFull r b).fst = x.fst := by obtain ⟨_, h⟩ := x.setFull_shape r b; rw [h]
@[simp] theorem Slot.setFull_epc (r : Nat) (b : Bool) : (x.setFull r b).epc = x.epc := by obtain ⟨_, h⟩ := x.setFull_shape r b; rw [h]
@[simp] theorem Slot.setFull_cause (r : Nat) (b : Bool) : (x.setFull r b).cause = x.cause := by obtain ⟨_, h⟩ := x.setFull_shape r b; rw [h]
@[simp] theorem Slot.setFull_fault (r : Nat) (b : Bool) : (x.setFull r b).fault = x.fault := by obtain ⟨_, h⟩ := x.setFull_shape r b; rw [h]
@[simp] theorem Slot.setFull_tenant (r : Nat) (b : Bool) : (x.setFull r b).tenant = x.tenant := by obtain ⟨_, h⟩ := x.setFull_shape r b; rw [h]
@[simp] theorem Slot.setFull_buf (r : Nat) (b : Bool) : (x.setFull r b).buf = x.buf := by obtain ⟨_, h⟩ := x.setFull_shape r b; rw [h]
@[simp] theorem Slot.setFull_out (r : Nat) (b : Bool) : (x.setFull r b).out = x.out := by obtain ⟨_, h⟩ := x.setFull_shape r b; rw [h]
@[simp] theorem Slot.setFull_kern (r : Nat) (b : Bool) : (x.setFull r b).kern = x.kern := by obtain ⟨_, h⟩ := x.setFull_shape r b; rw [h]
@[simp] theorem Slot.setFull_ctx (r : Nat) (b : Bool) : (x.setFull r b).ctx = x.ctx := by obtain ⟨_, h⟩ := x.setFull_shape r b; rw [h]
@[simp] theorem Slot.setFull_claims (r : Nat) (b : Bool) : (x.setFull r b).claims = x.claims := by obtain ⟨_, h⟩ := x.setFull_shape r b; rw [h]
@[simp] theorem Slot.setFull_resv (r : Nat) (b : Bool) : (x.setFull r b).resv = x.resv := by obtain ⟨_, h⟩ := x.setFull_shape r b; rw [h]
@[simp] theorem Slot.setFull_pend (r : Nat) (b : Bool) : (x.setFull r b).pend = x.pend := by obtain ⟨_, h⟩ := x.setFull_shape r b; rw [h]

/-! ### writeOwn -/

theorem Slot.writeOwn_shape (r : Reg) (v : Word) (due : Nat) : ∃ (a_g : Vector Word 16) (a_full : BitVec 16) (a_badG : BitVec 16) (a_wbRegs : BitVec 16) (a_wbDue : Nat), x.writeOwn r v due = { x with g := a_g, full := a_full, badG := a_badG, wbRegs := a_wbRegs, wbDue := a_wbDue } := by
  unfold Slot.writeOwn; split
  · exact ⟨x.g, x.full, x.badG, x.wbRegs, x.wbDue, rfl⟩
  · obtain ⟨a, b, c, h⟩ := x.setReg_shape r v
    rw [h]; exact ⟨_, _, _, _, _, rfl⟩
@[simp] theorem Slot.writeOwn_st (r : Reg) (v : Word) (due : Nat) : (x.writeOwn r v due).st = x.st := by obtain ⟨_, _, _, _, _, h⟩ := x.writeOwn_shape r v due; rw [h]
@[simp] theorem Slot.writeOwn_pc (r : Reg) (v : Word) (due : Nat) : (x.writeOwn r v due).pc = x.pc := by obtain ⟨_, _, _, _, _, h⟩ := x.writeOwn_shape r v due; rw [h]
@[simp] theorem Slot.writeOwn_sw (r : Reg) (v : Word) (due : Nat) : (x.writeOwn r v due).sw = x.sw := by obtain ⟨_, _, _, _, _, h⟩ := x.writeOwn_shape r v due; rw [h]
@[simp] theorem Slot.writeOwn_fst (r : Reg) (v : Word) (due : Nat) : (x.writeOwn r v due).fst = x.fst := by obtain ⟨_, _, _, _, _, h⟩ := x.writeOwn_shape r v due; rw [h]
@[simp] theorem Slot.writeOwn_epc (r : Reg) (v : Word) (due : Nat) : (x.writeOwn r v due).epc = x.epc := by obtain ⟨_, _, _, _, _, h⟩ := x.writeOwn_shape r v due; rw [h]
@[simp] theorem Slot.writeOwn_cause (r : Reg) (v : Word) (due : Nat) : (x.writeOwn r v due).cause = x.cause := by obtain ⟨_, _, _, _, _, h⟩ := x.writeOwn_shape r v due; rw [h]
@[simp] theorem Slot.writeOwn_fault (r : Reg) (v : Word) (due : Nat) : (x.writeOwn r v due).fault = x.fault := by obtain ⟨_, _, _, _, _, h⟩ := x.writeOwn_shape r v due; rw [h]
@[simp] theorem Slot.writeOwn_tenant (r : Reg) (v : Word) (due : Nat) : (x.writeOwn r v due).tenant = x.tenant := by obtain ⟨_, _, _, _, _, h⟩ := x.writeOwn_shape r v due; rw [h]
@[simp] theorem Slot.writeOwn_buf (r : Reg) (v : Word) (due : Nat) : (x.writeOwn r v due).buf = x.buf := by obtain ⟨_, _, _, _, _, h⟩ := x.writeOwn_shape r v due; rw [h]
@[simp] theorem Slot.writeOwn_out (r : Reg) (v : Word) (due : Nat) : (x.writeOwn r v due).out = x.out := by obtain ⟨_, _, _, _, _, h⟩ := x.writeOwn_shape r v due; rw [h]
@[simp] theorem Slot.writeOwn_kern (r : Reg) (v : Word) (due : Nat) : (x.writeOwn r v due).kern = x.kern := by obtain ⟨_, _, _, _, _, h⟩ := x.writeOwn_shape r v due; rw [h]
@[simp] theorem Slot.writeOwn_ctx (r : Reg) (v : Word) (due : Nat) : (x.writeOwn r v due).ctx = x.ctx := by obtain ⟨_, _, _, _, _, h⟩ := x.writeOwn_shape r v due; rw [h]
@[simp] theorem Slot.writeOwn_claims (r : Reg) (v : Word) (due : Nat) : (x.writeOwn r v due).claims = x.claims := by obtain ⟨_, _, _, _, _, h⟩ := x.writeOwn_shape r v due; rw [h]
@[simp] theorem Slot.writeOwn_resv (r : Reg) (v : Word) (due : Nat) : (x.writeOwn r v due).resv = x.resv := by obtain ⟨_, _, _, _, _, h⟩ := x.writeOwn_shape r v due; rw [h]
@[simp] theorem Slot.writeOwn_pend (r : Reg) (v : Word) (due : Nat) : (x.writeOwn r v due).pend = x.pend := by obtain ⟨_, _, _, _, _, h⟩ := x.writeOwn_shape r v due; rw [h]

/-! ### orFst -/

theorem Slot.orFst_shape (f : BitVec 5) : ∃ (a_fst : Word), x.orFst f = { x with fst := a_fst } := ⟨_, rfl⟩
@[simp] theorem Slot.orFst_st (f : BitVec 5) : (x.orFst f).st = x.st := by obtain ⟨_, h⟩ := x.orFst_shape f; rw [h]
@[simp] theorem Slot.orFst_g (f : BitVec 5) : (x.orFst f).g = x.g := by obtain ⟨_, h⟩ := x.orFst_shape f; rw [h]
@[simp] theorem Slot.orFst_full (f : BitVec 5) : (x.orFst f).full = x.full := by obtain ⟨_, h⟩ := x.orFst_shape f; rw [h]
@[simp] theorem Slot.orFst_pc (f : BitVec 5) : (x.orFst f).pc = x.pc := by obtain ⟨_, h⟩ := x.orFst_shape f; rw [h]
@[simp] theorem Slot.orFst_sw (f : BitVec 5) : (x.orFst f).sw = x.sw := by obtain ⟨_, h⟩ := x.orFst_shape f; rw [h]
@[simp] theorem Slot.orFst_epc (f : BitVec 5) : (x.orFst f).epc = x.epc := by obtain ⟨_, h⟩ := x.orFst_shape f; rw [h]
@[simp] theorem Slot.orFst_cause (f : BitVec 5) : (x.orFst f).cause = x.cause := by obtain ⟨_, h⟩ := x.orFst_shape f; rw [h]
@[simp] theorem Slot.orFst_fault (f : BitVec 5) : (x.orFst f).fault = x.fault := by obtain ⟨_, h⟩ := x.orFst_shape f; rw [h]
@[simp] theorem Slot.orFst_tenant (f : BitVec 5) : (x.orFst f).tenant = x.tenant := by obtain ⟨_, h⟩ := x.orFst_shape f; rw [h]
@[simp] theorem Slot.orFst_buf (f : BitVec 5) : (x.orFst f).buf = x.buf := by obtain ⟨_, h⟩ := x.orFst_shape f; rw [h]
@[simp] theorem Slot.orFst_out (f : BitVec 5) : (x.orFst f).out = x.out := by obtain ⟨_, h⟩ := x.orFst_shape f; rw [h]
@[simp] theorem Slot.orFst_kern (f : BitVec 5) : (x.orFst f).kern = x.kern := by obtain ⟨_, h⟩ := x.orFst_shape f; rw [h]
@[simp] theorem Slot.orFst_ctx (f : BitVec 5) : (x.orFst f).ctx = x.ctx := by obtain ⟨_, h⟩ := x.orFst_shape f; rw [h]
@[simp] theorem Slot.orFst_claims (f : BitVec 5) : (x.orFst f).claims = x.claims := by obtain ⟨_, h⟩ := x.orFst_shape f; rw [h]
@[simp] theorem Slot.orFst_resv (f : BitVec 5) : (x.orFst f).resv = x.resv := by obtain ⟨_, h⟩ := x.orFst_shape f; rw [h]
@[simp] theorem Slot.orFst_pend (f : BitVec 5) : (x.orFst f).pend = x.pend := by obtain ⟨_, h⟩ := x.orFst_shape f; rw [h]

/-! ### advance -/

theorem Slot.advance_shape : ∃ (a_pc : Word) (a_sw : Word), x.advance = { x with pc := a_pc, sw := a_sw } := by
  unfold Slot.advance; dsimp only; split
  · split
    · exact ⟨_, _, rfl⟩
    · split
      · exact ⟨_, _, rfl⟩
      · exact ⟨_, _, rfl⟩
  · exact ⟨_, x.sw, rfl⟩
@[simp] theorem Slot.advance_st : (x.advance).st = x.st := by obtain ⟨_, _, h⟩ := x.advance_shape ; rw [h]
@[simp] theorem Slot.advance_g : (x.advance).g = x.g := by obtain ⟨_, _, h⟩ := x.advance_shape ; rw [h]
@[simp] theorem Slot.advance_full : (x.advance).full = x.full := by obtain ⟨_, _, h⟩ := x.advance_shape ; rw [h]
@[simp] theorem Slot.advance_fst : (x.advance).fst = x.fst := by obtain ⟨_, _, h⟩ := x.advance_shape ; rw [h]
@[simp] theorem Slot.advance_epc : (x.advance).epc = x.epc := by obtain ⟨_, _, h⟩ := x.advance_shape ; rw [h]
@[simp] theorem Slot.advance_cause : (x.advance).cause = x.cause := by obtain ⟨_, _, h⟩ := x.advance_shape ; rw [h]
@[simp] theorem Slot.advance_fault : (x.advance).fault = x.fault := by obtain ⟨_, _, h⟩ := x.advance_shape ; rw [h]
@[simp] theorem Slot.advance_tenant : (x.advance).tenant = x.tenant := by obtain ⟨_, _, h⟩ := x.advance_shape ; rw [h]
@[simp] theorem Slot.advance_buf : (x.advance).buf = x.buf := by obtain ⟨_, _, h⟩ := x.advance_shape ; rw [h]
@[simp] theorem Slot.advance_out : (x.advance).out = x.out := by obtain ⟨_, _, h⟩ := x.advance_shape ; rw [h]
@[simp] theorem Slot.advance_kern : (x.advance).kern = x.kern := by obtain ⟨_, _, h⟩ := x.advance_shape ; rw [h]
@[simp] theorem Slot.advance_ctx : (x.advance).ctx = x.ctx := by obtain ⟨_, _, h⟩ := x.advance_shape ; rw [h]
@[simp] theorem Slot.advance_claims : (x.advance).claims = x.claims := by obtain ⟨_, _, h⟩ := x.advance_shape ; rw [h]
@[simp] theorem Slot.advance_resv : (x.advance).resv = x.resv := by obtain ⟨_, _, h⟩ := x.advance_shape ; rw [h]
@[simp] theorem Slot.advance_pend : (x.advance).pend = x.pend := by obtain ⟨_, _, h⟩ := x.advance_shape ; rw [h]

/-! ### parkFor -/

theorem Slot.parkFor_shape (n : Nat) (p : Pend) : ∃ (a_st : SlotSt) (a_sw : Word) (a_pend : Pend), x.parkFor n p = { x with st := a_st, sw := a_sw, pend := a_pend } := ⟨_, _, _, rfl⟩
@[simp] theorem Slot.parkFor_g (n : Nat) (p : Pend) : (x.parkFor n p).g = x.g := by obtain ⟨_, _, _, h⟩ := x.parkFor_shape n p; rw [h]
@[simp] theorem Slot.parkFor_full (n : Nat) (p : Pend) : (x.parkFor n p).full = x.full := by obtain ⟨_, _, _, h⟩ := x.parkFor_shape n p; rw [h]
@[simp] theorem Slot.parkFor_pc (n : Nat) (p : Pend) : (x.parkFor n p).pc = x.pc := by obtain ⟨_, _, _, h⟩ := x.parkFor_shape n p; rw [h]
@[simp] theorem Slot.parkFor_fst (n : Nat) (p : Pend) : (x.parkFor n p).fst = x.fst := by obtain ⟨_, _, _, h⟩ := x.parkFor_shape n p; rw [h]
@[simp] theorem Slot.parkFor_epc (n : Nat) (p : Pend) : (x.parkFor n p).epc = x.epc := by obtain ⟨_, _, _, h⟩ := x.parkFor_shape n p; rw [h]
@[simp] theorem Slot.parkFor_cause (n : Nat) (p : Pend) : (x.parkFor n p).cause = x.cause := by obtain ⟨_, _, _, h⟩ := x.parkFor_shape n p; rw [h]
@[simp] theorem Slot.parkFor_fault (n : Nat) (p : Pend) : (x.parkFor n p).fault = x.fault := by obtain ⟨_, _, _, h⟩ := x.parkFor_shape n p; rw [h]
@[simp] theorem Slot.parkFor_tenant (n : Nat) (p : Pend) : (x.parkFor n p).tenant = x.tenant := by obtain ⟨_, _, _, h⟩ := x.parkFor_shape n p; rw [h]
@[simp] theorem Slot.parkFor_buf (n : Nat) (p : Pend) : (x.parkFor n p).buf = x.buf := by obtain ⟨_, _, _, h⟩ := x.parkFor_shape n p; rw [h]
@[simp] theorem Slot.parkFor_out (n : Nat) (p : Pend) : (x.parkFor n p).out = x.out := by obtain ⟨_, _, _, h⟩ := x.parkFor_shape n p; rw [h]
@[simp] theorem Slot.parkFor_kern (n : Nat) (p : Pend) : (x.parkFor n p).kern = x.kern := by obtain ⟨_, _, _, h⟩ := x.parkFor_shape n p; rw [h]
@[simp] theorem Slot.parkFor_ctx (n : Nat) (p : Pend) : (x.parkFor n p).ctx = x.ctx := by obtain ⟨_, _, _, h⟩ := x.parkFor_shape n p; rw [h]
@[simp] theorem Slot.parkFor_claims (n : Nat) (p : Pend) : (x.parkFor n p).claims = x.claims := by obtain ⟨_, _, _, h⟩ := x.parkFor_shape n p; rw [h]
@[simp] theorem Slot.parkFor_resv (n : Nat) (p : Pend) : (x.parkFor n p).resv = x.resv := by obtain ⟨_, _, _, h⟩ := x.parkFor_shape n p; rw [h]

/-! ### wake -/

theorem Slot.wake_shape : ∃ (a_st : SlotSt) (a_sw : Word) (a_pend : Pend) (a_popDue : Bool), x.wake = { x with st := a_st, sw := a_sw, pend := a_pend, popDue := a_popDue } := by
  unfold Slot.wake; split
  · exact ⟨_, x.sw, _, _, rfl⟩
  · exact ⟨_, _, _, _, rfl⟩
@[simp] theorem Slot.wake_g : (x.wake).g = x.g := by obtain ⟨_, _, _, _, h⟩ := x.wake_shape ; rw [h]
@[simp] theorem Slot.wake_full : (x.wake).full = x.full := by obtain ⟨_, _, _, _, h⟩ := x.wake_shape ; rw [h]
@[simp] theorem Slot.wake_pc : (x.wake).pc = x.pc := by obtain ⟨_, _, _, _, h⟩ := x.wake_shape ; rw [h]
@[simp] theorem Slot.wake_fst : (x.wake).fst = x.fst := by obtain ⟨_, _, _, _, h⟩ := x.wake_shape ; rw [h]
@[simp] theorem Slot.wake_epc : (x.wake).epc = x.epc := by obtain ⟨_, _, _, _, h⟩ := x.wake_shape ; rw [h]
@[simp] theorem Slot.wake_cause : (x.wake).cause = x.cause := by obtain ⟨_, _, _, _, h⟩ := x.wake_shape ; rw [h]
@[simp] theorem Slot.wake_fault : (x.wake).fault = x.fault := by obtain ⟨_, _, _, _, h⟩ := x.wake_shape ; rw [h]
@[simp] theorem Slot.wake_tenant : (x.wake).tenant = x.tenant := by obtain ⟨_, _, _, _, h⟩ := x.wake_shape ; rw [h]
@[simp] theorem Slot.wake_buf : (x.wake).buf = x.buf := by obtain ⟨_, _, _, _, h⟩ := x.wake_shape ; rw [h]
@[simp] theorem Slot.wake_out : (x.wake).out = x.out := by obtain ⟨_, _, _, _, h⟩ := x.wake_shape ; rw [h]
@[simp] theorem Slot.wake_kern : (x.wake).kern = x.kern := by obtain ⟨_, _, _, _, h⟩ := x.wake_shape ; rw [h]
@[simp] theorem Slot.wake_ctx : (x.wake).ctx = x.ctx := by obtain ⟨_, _, _, _, h⟩ := x.wake_shape ; rw [h]
@[simp] theorem Slot.wake_claims : (x.wake).claims = x.claims := by obtain ⟨_, _, _, _, h⟩ := x.wake_shape ; rw [h]
@[simp] theorem Slot.wake_resv : (x.wake).resv = x.resv := by obtain ⟨_, _, _, _, h⟩ := x.wake_shape ; rw [h]

/-! ### wakeNext -/

theorem Slot.wakeNext_shape : ∃ (a_st : SlotSt) (a_pc : Word) (a_sw : Word) (a_pend : Pend) (a_popDue : Bool), x.wakeNext = { x with st := a_st, pc := a_pc, sw := a_sw, pend := a_pend, popDue := a_popDue } := by
  obtain ⟨a, b, c, d, h⟩ := x.wake_shape
  unfold Slot.wakeNext; rw [h]
  generalize hy : ({ x with st := a, sw := b, pend := c, popDue := d } : Slot) = y
  obtain ⟨p, w, g⟩ := y.advance_shape
  rw [g]; subst hy; exact ⟨_, _, _, _, _, rfl⟩
@[simp] theorem Slot.wakeNext_g : (x.wakeNext).g = x.g := by obtain ⟨_, _, _, _, _, h⟩ := x.wakeNext_shape ; rw [h]
@[simp] theorem Slot.wakeNext_full : (x.wakeNext).full = x.full := by obtain ⟨_, _, _, _, _, h⟩ := x.wakeNext_shape ; rw [h]
@[simp] theorem Slot.wakeNext_fst : (x.wakeNext).fst = x.fst := by obtain ⟨_, _, _, _, _, h⟩ := x.wakeNext_shape ; rw [h]
@[simp] theorem Slot.wakeNext_epc : (x.wakeNext).epc = x.epc := by obtain ⟨_, _, _, _, _, h⟩ := x.wakeNext_shape ; rw [h]
@[simp] theorem Slot.wakeNext_cause : (x.wakeNext).cause = x.cause := by obtain ⟨_, _, _, _, _, h⟩ := x.wakeNext_shape ; rw [h]
@[simp] theorem Slot.wakeNext_fault : (x.wakeNext).fault = x.fault := by obtain ⟨_, _, _, _, _, h⟩ := x.wakeNext_shape ; rw [h]
@[simp] theorem Slot.wakeNext_tenant : (x.wakeNext).tenant = x.tenant := by obtain ⟨_, _, _, _, _, h⟩ := x.wakeNext_shape ; rw [h]
@[simp] theorem Slot.wakeNext_buf : (x.wakeNext).buf = x.buf := by obtain ⟨_, _, _, _, _, h⟩ := x.wakeNext_shape ; rw [h]
@[simp] theorem Slot.wakeNext_out : (x.wakeNext).out = x.out := by obtain ⟨_, _, _, _, _, h⟩ := x.wakeNext_shape ; rw [h]
@[simp] theorem Slot.wakeNext_kern : (x.wakeNext).kern = x.kern := by obtain ⟨_, _, _, _, _, h⟩ := x.wakeNext_shape ; rw [h]
@[simp] theorem Slot.wakeNext_ctx : (x.wakeNext).ctx = x.ctx := by obtain ⟨_, _, _, _, _, h⟩ := x.wakeNext_shape ; rw [h]
@[simp] theorem Slot.wakeNext_claims : (x.wakeNext).claims = x.claims := by obtain ⟨_, _, _, _, _, h⟩ := x.wakeNext_shape ; rw [h]
@[simp] theorem Slot.wakeNext_resv : (x.wakeNext).resv = x.resv := by obtain ⟨_, _, _, _, _, h⟩ := x.wakeNext_shape ; rw [h]

/-! ### resume -/

theorem Slot.resume_shape : ∃ (a_st : SlotSt) (a_sw : Word) (a_cause : Word) (a_pc : Word) (a_pend : Pend) (a_popDue : Bool) (a_atAnchor : Bool) (a_frameBuf : List (Nat × BitVec 32)) (a_stopReq : StopReq) (a_counted : Bool) (a_owed : Pend), x.resume = { x with st := a_st, sw := a_sw, cause := a_cause, pc := a_pc, pend := a_pend, popDue := a_popDue, atAnchor := a_atAnchor, frameBuf := a_frameBuf, stopReq := a_stopReq, counted := a_counted, owed := a_owed } := by
  unfold Slot.resume; by_cases h : x.park = 6
  · rw [if_pos h]; exact ⟨_, x.sw, _, _, _, _, _, _, _, _, _, rfl⟩
  · rw [if_neg h]; exact ⟨_, _, _, _, _, _, _, _, _, _, _, rfl⟩
@[simp] theorem Slot.resume_g : (x.resume).g = x.g := by obtain ⟨_, _, _, _, _, _, _, _, _, _, _, h⟩ := x.resume_shape ; rw [h]
@[simp] theorem Slot.resume_full : (x.resume).full = x.full := by obtain ⟨_, _, _, _, _, _, _, _, _, _, _, h⟩ := x.resume_shape ; rw [h]
@[simp] theorem Slot.resume_fst : (x.resume).fst = x.fst := by obtain ⟨_, _, _, _, _, _, _, _, _, _, _, h⟩ := x.resume_shape ; rw [h]
@[simp] theorem Slot.resume_epc : (x.resume).epc = x.epc := by obtain ⟨_, _, _, _, _, _, _, _, _, _, _, h⟩ := x.resume_shape ; rw [h]
@[simp] theorem Slot.resume_fault : (x.resume).fault = x.fault := by obtain ⟨_, _, _, _, _, _, _, _, _, _, _, h⟩ := x.resume_shape ; rw [h]
@[simp] theorem Slot.resume_tenant : (x.resume).tenant = x.tenant := by obtain ⟨_, _, _, _, _, _, _, _, _, _, _, h⟩ := x.resume_shape ; rw [h]
@[simp] theorem Slot.resume_buf : (x.resume).buf = x.buf := by obtain ⟨_, _, _, _, _, _, _, _, _, _, _, h⟩ := x.resume_shape ; rw [h]
@[simp] theorem Slot.resume_out : (x.resume).out = x.out := by obtain ⟨_, _, _, _, _, _, _, _, _, _, _, h⟩ := x.resume_shape ; rw [h]
@[simp] theorem Slot.resume_kern : (x.resume).kern = x.kern := by obtain ⟨_, _, _, _, _, _, _, _, _, _, _, h⟩ := x.resume_shape ; rw [h]
@[simp] theorem Slot.resume_ctx : (x.resume).ctx = x.ctx := by obtain ⟨_, _, _, _, _, _, _, _, _, _, _, h⟩ := x.resume_shape ; rw [h]
@[simp] theorem Slot.resume_claims : (x.resume).claims = x.claims := by obtain ⟨_, _, _, _, _, _, _, _, _, _, _, h⟩ := x.resume_shape ; rw [h]
@[simp] theorem Slot.resume_resv : (x.resume).resv = x.resv := by obtain ⟨_, _, _, _, _, _, _, _, _, _, _, h⟩ := x.resume_shape ; rw [h]

/-! ## Registers -/

@[simp] theorem Slot.reg_zero : x.reg 0 = 0 := rfl

theorem Slot.reg_setReg (r : Reg) (v : Word) (q : Reg) :
    (x.setReg r v).reg q = if q = r ∧ r ≠ 0 then v else x.reg q := by
  unfold Slot.setReg
  by_cases hr : r = 0
  · rw [if_pos hr, if_neg (fun h => h.2 hr)]
  · rw [if_neg hr]
    unfold Slot.reg
    by_cases hq : q = 0
    · rw [if_pos hq, if_pos hq]; split
      · rename_i h; exact absurd (h.1.symm.trans hq) hr
      · rfl
    · rw [if_neg hq, if_neg hq]
      have e (v : Vector Word 16) : v.get q.toFin = v[q.toNat]'q.isLt := rfl
      dsimp only
      rw [e, e, Vector.getElem_set]
      by_cases h : q = r
      · subst h; rw [if_pos rfl, if_pos ⟨rfl, hr⟩]
      · have : r.toNat ≠ q.toNat := fun g => h (BitVec.eq_of_toNat_eq g.symm)
        simp [h, this]

@[simp] theorem Slot.reg_setReg_self {r : Reg} (v : Word) (h : r ≠ 0) : (x.setReg r v).reg r = v := by
  rw [Slot.reg_setReg, if_pos ⟨rfl, h⟩]

theorem Slot.reg_setReg_ne {r q : Reg} (v : Word) (h : q ≠ r) : (x.setReg r v).reg q = x.reg q := by
  rw [Slot.reg_setReg, if_neg (fun g => h g.1)]

theorem Slot.oneHot_get : ∀ r q : Reg, (oneHot r.toNat).getLsbD q.toNat = decide (q = r) := by decide

theorem Slot.isFull_setReg (r : Reg) (v : Word) (q : Reg) :
    (x.setReg r v).isFull q = (decide (q = r) || x.isFull q) := by
  by_cases hr : r = 0
  · subst hr; simp only [Slot.setReg, if_true, Slot.isFull]; by_cases q = 0 <;> simp_all
  · simp only [Slot.setReg, if_neg hr, Slot.isFull, BitVec.getLsbD_or, Slot.oneHot_get]
    by_cases h : q = r <;> simp [h]

theorem Slot.reg_writeOwn (r : Reg) (v : Word) (due : Nat) (q : Reg) :
    (x.writeOwn r v due).reg q = if q = r ∧ r ≠ 0 then v else x.reg q := by
  unfold Slot.writeOwn
  by_cases hr : r = 0
  · simp [hr]
  · rw [if_neg hr]; exact Slot.reg_setReg x r v q

theorem Slot.isFull_writeOwn (r : Reg) (v : Word) (due : Nat) (q : Reg) :
    (x.writeOwn r v due).isFull q = (decide (q = r) || x.isFull q) := by
  unfold Slot.writeOwn
  by_cases hr : r = 0
  · subst hr; simp only [if_true, Slot.isFull]; by_cases q = 0 <;> simp_all
  · rw [if_neg hr]; exact Slot.isFull_setReg x r v q

@[simp] theorem Slot.reg_advance (q : Reg) : x.advance.reg q = x.reg q := by unfold Slot.reg; rw [Slot.advance_g]
@[simp] theorem Slot.isFull_advance (q : Reg) : x.advance.isFull q = x.isFull q := by unfold Slot.isFull; rw [Slot.advance_full]
@[simp] theorem Slot.reg_setPark (n : Nat) (q : Reg) : (x.setPark n).reg q = x.reg q := rfl
@[simp] theorem Slot.reg_parkFor (n : Nat) (p : Pend) (q : Reg) : (x.parkFor n p).reg q = x.reg q := rfl
@[simp] theorem Slot.reg_orFst (f : BitVec 5) (q : Reg) : (x.orFst f).reg q = x.reg q := rfl
@[simp] theorem Slot.reg_wake (q : Reg) : x.wake.reg q = x.reg q := by unfold Slot.reg; rw [Slot.wake_g]
@[simp] theorem Slot.reg_wakeNext (q : Reg) : x.wakeNext.reg q = x.reg q := by unfold Slot.reg; rw [Slot.wakeNext_g]
@[simp] theorem Slot.reg_resume (q : Reg) : x.resume.reg q = x.reg q := by unfold Slot.reg; rw [Slot.resume_g]
@[simp] theorem Slot.reg_setFull (r : Nat) (b : Bool) (q : Reg) : (x.setFull r b).reg q = x.reg q := by unfold Slot.reg; rw [Slot.setFull_g]

/-- Outside a repeat frame the next word is the one behind (R78). -/
theorem Slot.advance_plain (h : x.frame = false) : x.advance = { x with pc := pc57 (x.pc + 4) } := by unfold Slot.advance; rw [h]; rfl

end Sys2Proof.Machine
end

