-- ==== Sys2Proof/Laws/Issue.lean ====
section
/-!
SUPPORT. What the shared operations of issue do, once: an instruction whose checks pass reaches its own execution; a result is written; a
slot goes on, parks, or takes a fault.
-/

namespace Sys2Proof.Machine

open Sys2Proof

variable {s : State}

/-! ## Issue (R35) -/

theorem State.badSource_none {q : Ask} (hw : ∀ r ∈ q.srcs, s.me.badG.getLsbD r.toNat = false ∨ (r = 14 ∧ s.onChain = true))
    (hv : ∀ v ∈ q.vsrc, 4 * s.me.vbase + v.toNat ∉ (s.core s.curCore).badV) : s.badSource q = none := by
  have h1 : q.srcs.find? (fun r => s.me.badG.getLsbD r.toNat && !(r = 14 && s.chained s.curCore s.curSlot)) = none := by
    rw [List.find?_eq_none]
    intro r hr
    obtain h | ⟨rfl, h⟩ := hw r hr
    · simp [h]
    · simp only [State.onChain] at h; simp [h]
  have h2 : q.vsrc.find? (fun v => (s.core s.curCore).badV.contains (4 * s.me.vbase + v.toNat)) = none := by
    rw [List.find?_eq_none]
    intro v hvv
    simpa using hv v hvv
  unfold State.badSource
  rw [h1, h2]

/-- An instruction whose checks pass reaches its own execution. -/
theorem State.issue_passes {q : Ask} (body : State → State) (h : Passes s q.level q.frameOk q.vdst q.vsrc q.srcs q.dst) :
    s.issue q body = .next (body s) := by
  have hm := h.mode
  have hp := h.place
  have hf := h.frame
  have h1 : ¬((q.level = .privileged ∧ s.me.priv = false) ∨ (q.level = .security ∧ s.curCore ≠ securityCore)) := by
    rintro (⟨a, b⟩ | ⟨a, b⟩)
    · rw [hm a] at b; cases b
    · exact b (hp a)
  have h2 : ¬(s.me.frame = true ∧ q.frameOk = false) := by
    rintro ⟨a, b⟩; rw [hf a] at b; cases b
  have h3 : ¬((q.vdst ++ q.vsrc).any (fun v => decide (4 * s.me.vsize ≤ v.toNat)) = true) := by
    simp only [List.any_eq_true, decide_eq_true_eq, not_exists, not_and, not_le]
    exact h.window
  have h4 : ¬(q.srcs.any (fun r => !(s.me.isFull r) && !(r = 14 && s.chained s.curCore s.curSlot)) = true) := by
    simp only [List.any_eq_true, not_exists, not_and]
    intro r hr
    obtain g | ⟨rfl, g⟩ := h.full r hr
    · simp [g]
    · simp only [State.onChain] at g; simp [g]
  have h5 : ¬((s.pops q.srcs && (s.chainHead s.curCore s.curSlot).isNone ||
      s.pushes q.dst && s.chainFull s.curCore s.curSlot) = true) := by
    have hpop := h.pop
    have hpush := h.push
    intro g
    simp only [Bool.or_eq_true, Bool.and_eq_true] at g
    obtain ⟨a, b⟩ | ⟨a, b⟩ := g
    · have := hpop a
      cases hh : s.chainHead s.curCore s.curSlot <;> simp_all
    · rw [hpush a] at b; cases b
  unfold State.issue
  simp only [h1, h2, h3, h4, h5, if_false, Bool.false_eq_true]
  rw [State.badSource_none h.whole h.wholeV]

/-! ## The numbering of a quad -/

theorem upstream_ne (c : Nat) : upstream c ≠ c := by unfold upstream quadCore; omega
theorem downstream_ne (c : Nat) : downstream c ≠ c := by unfold downstream quadCore; omega
theorem downstream_upstream (c : Nat) : downstream (upstream c) = c := by unfold downstream upstream quadCore; omega

/-! ## Slots after an update -/

theorem State.slot_setSlot_key (c k : Nat) (x : Slot) {c' k' : Nat} (h : slotKey c' k' ≠ slotKey c k) :
    (s.setSlot c k x).slot c' k' = s.slot c' k' := State.slot_setSlot_ne s x h

theorem State.me_eq (s : State) : s.me = s.slot s.curCore s.curSlot := rfl

theorem OnlyMe.modMe (f : Slot → Slot) : OnlyMe s (s.modMe f) := ⟨rfl, fun _ _ h => State.slot_setSlot_key _ _ _ h⟩

theorem OnlyMe.trans {s t u : State} (h : OnlyMe s t) (g : OnlyMe t u) : OnlyMe s u := by
  have hc : t.curCore = s.curCore := by rw [h.1]
  have hk : t.curSlot = s.curSlot := by rw [h.1]
  refine ⟨?_, fun c k o => ?_⟩
  · rw [g.1, h.1]
  · rw [g.2 c k (by unfold State.other at *; rw [hc, hk]; exact o), h.2 c k o]

/-! ## The latch and the queues (R62, R150) -/

/-- What setting a latch leaves: only the slot named and only its core's latch may change. -/
theorem State.setLatch_shape (s : State) (c k : Nat) :
    s.setLatch c k = { s with slots := (s.setLatch c k).slots, cores := (s.setLatch c k).cores } := by
  unfold State.setLatch
  dsimp only
  split
  case h_4 => split <;> rfl
  all_goals rfl

theorem State.slot_setLatch (s : State) (c k c' k' : Nat) (h : slotKey c' k' ≠ slotKey c k) :
    (s.setLatch c k).slot c' k' = s.slot c' k' := by
  unfold State.setLatch
  dsimp only
  split
  · exact State.slot_setSlot_key _ _ _ h
  · exact State.slot_setSlot_key (s := s.modCore c _) _ _ _ h
  · exact State.slot_setSlot_key (s := s.modCore c _) _ _ _ h
  · split <;> rfl

theorem State.core_setLatch (s : State) (c k c' : Nat) :
    (s.setLatch c k).core c' = { s.core c' with latch := ((s.setLatch c k).core c').latch } := by
  unfold State.setLatch
  dsimp only
  split
  case h_4 => split <;> simp only [State.core_modCore]; split <;> simp_all
  all_goals simp only [State.core_modSlot, State.core_modCore] <;> try (split <;> simp_all)

theorem State.latch_setLatch (s : State) (c k c' : Nat) (h : c' ≠ c) : ((s.setLatch c k).core c').latch = (s.core c').latch := by
  unfold State.setLatch
  dsimp only
  split
  case h_4 => split <;> simp [State.core_modCore, h]
  all_goals simp [State.core_modCore, h]

@[simp] theorem State.setLatch_curCore (s : State) (c k : Nat) : (s.setLatch c k).curCore = s.curCore := by rw [State.setLatch_shape]
@[simp] theorem State.setLatch_curSlot (s : State) (c k : Nat) : (s.setLatch c k).curSlot = s.curSlot := by rw [State.setLatch_shape]
@[simp] theorem State.setLatch_now (s : State) (c k : Nat) : (s.setLatch c k).now = s.now := by rw [State.setLatch_shape]

@[simp] theorem State.chainOut_setLatch (s : State) (c k c' k' : Nat) : (s.setLatch c k).chainOut c' k' = s.chainOut c' k' := by
  unfold State.chainOut; rw [State.core_setLatch]

theorem State.chainOut_setChain (s : State) (c k : Nat) (q : List (Nat × Word)) (c' k' : Nat) :
    (s.setChain c k q).chainOut c' k' = if c' = c ∧ k' = k then q else s.chainOut c' k' := by
  unfold State.chainOut State.setChain
  rw [State.core_modCore]
  by_cases h : c' = c
  · subst h; simp [Tab.get_set]
  · simp [h]

@[simp] theorem State.slot_setChain (s : State) (c k : Nat) (q : List (Nat × Word)) (c' k' : Nat) :
    (s.setChain c k q).slot c' k' = s.slot c' k' := rfl

theorem State.core_setChain (s : State) (c k : Nat) (q : List (Nat × Word)) (c' : Nat) :
    (s.setChain c k q).core c' = { s.core c' with chq := ((s.setChain c k q).core c').chq } := by
  unfold State.setChain
  rw [State.core_modCore]
  split <;> simp_all

@[simp] theorem State.chainOut_modMe (s : State) (f : Slot → Slot) (c k : Nat) : (s.modMe f).chainOut c k = s.chainOut c k := rfl

theorem State.le_pushDue (s : State) (c due : Nat) : due ≤ s.pushDue c due := by
  unfold State.pushDue; split
  · exact Nat.le_max_left ..
  · exact Nat.le_refl _

@[simp] theorem State.pushDue_modMe (s : State) (f : Slot → Slot) (c due : Nat) : (s.modMe f).pushDue c due = s.pushDue c due := rfl

/-- A push enters its queue with the cycle in which it is complete; unless that is this one, it sets no latch yet (R22, R150). -/
theorem State.chainPush_eq (s : State) (c k : Nat) (v : Word) (due : Nat) :
    s.chainPush c k v due =
      if s.now < s.pushDue c due then s.setChain c k (s.chainOut c k ++ [(s.pushDue c due, v)])
      else (s.setChain c k (s.chainOut c k ++ [(s.pushDue c due, v)])).setLatch (downstream c) k := rfl

theorem State.slot_chainPush (s : State) (c k : Nat) (v : Word) (due : Nat) {c' k' : Nat}
    (h : ¬(due ≤ s.now ∧ slotKey c' k' = slotKey (downstream c) k)) : (s.chainPush c k v due).slot c' k' = s.slot c' k' := by
  rw [State.chainPush_eq]
  split
  · rfl
  · rename_i g
    rw [State.slot_setLatch _ _ _ _ _ (fun e => h ⟨Nat.le_trans (s.le_pushDue c due) (by omega), e⟩)]; rfl

theorem State.chainOut_chainPush (s : State) (c k : Nat) (v : Word) (due c' k' : Nat) :
    (s.chainPush c k v due).chainOut c' k' =
      if c' = c ∧ k' = k then s.chainOut c' k' ++ [(s.pushDue c' due, v)] else s.chainOut c' k' := by
  have h : (s.chainPush c k v due).chainOut c' k' = (s.setChain c k (s.chainOut c k ++ [(s.pushDue c due, v)])).chainOut c' k' := by
    rw [State.chainPush_eq]; split
    · rfl
    · rw [State.chainOut_setLatch]
  rw [h, State.chainOut_setChain]
  split
  · rename_i g; rw [g.1, g.2]
  · rfl

theorem SameButChains.refl (s : State) : SameButChains s s := ⟨rfl, fun _ => rfl⟩

theorem SameButChains.trans {s t u : State} (h : SameButChains s t) (g : SameButChains t u) : SameButChains s u :=
  ⟨by rw [g.1, h.1], fun c => by rw [g.2 c, h.2 c]⟩

theorem SameButChains.modMe (f : Slot → Slot) : SameButChains s (s.modMe f) := ⟨rfl, fun _ => rfl⟩

theorem SameButChains.setChain (c k : Nat) (q : List (Nat × Word)) : SameButChains s (s.setChain c k q) :=
  ⟨rfl, fun n => by rw [State.core_setChain]⟩

theorem SameButChains.setLatch (c k : Nat) : SameButChains s (s.setLatch c k) :=
  ⟨by rw [State.setLatch_shape], fun n => by rw [State.core_setLatch]⟩

theorem SameButChains.chainPush (c k : Nat) (v : Word) (due : Nat) : SameButChains s (s.chainPush c k v due) := by
  rw [State.chainPush_eq]; split
  · exact SameButChains.setChain ..
  · exact (SameButChains.setChain ..).trans (SameButChains.setLatch ..)

theorem State.latch_chainPush (s : State) (c k : Nat) (v : Word) (due : Nat) {c' : Nat} (h : s.now < due ∨ c' ≠ downstream c) :
    ((s.chainPush c k v due).core c').latch = (s.core c').latch := by
  rw [State.chainPush_eq]
  split
  · rw [State.core_setChain]
  · rename_i g
    obtain a | a := h
    · have := s.le_pushDue c due; omega
    · rw [State.latch_setLatch _ _ _ _ a, State.core_setChain]

/-! ## Taking operands, writing a result, going on -/

theorem State.take_shape (s : State) (srcs : List Reg) : SameButChains s (s.take srcs) := by
  unfold State.take; split
  · exact SameButChains.setChain ..
  · exact SameButChains.refl s

@[simp] theorem State.slot_take (s : State) (srcs : List Reg) (c k : Nat) : (s.take srcs).slot c k = s.slot c k := by
  unfold State.take; split <;> rfl
@[simp] theorem State.take_curCore (s : State) (srcs : List Reg) : (s.take srcs).curCore = s.curCore := by
  unfold State.take; split <;> rfl
@[simp] theorem State.take_curSlot (s : State) (srcs : List Reg) : (s.take srcs).curSlot = s.curSlot := by
  unfold State.take; split <;> rfl
@[simp] theorem State.take_now (s : State) (srcs : List Reg) : (s.take srcs).now = s.now := by
  unfold State.take; split <;> rfl
@[simp] theorem State.take_me (s : State) (srcs : List Reg) : (s.take srcs).me = s.me := by simp [State.me_eq]
@[simp] theorem State.take_mem (s : State) (srcs : List Reg) : (s.take srcs).mem = s.mem := by
  unfold State.take; split <;> rfl
@[simp] theorem State.take_pkg (s : State) (srcs : List Reg) : (s.take srcs).pkg = s.pkg := by
  unfold State.take; split <;> rfl

theorem State.take_none {srcs : List Reg} (h : s.pops srcs = false) : s.take srcs = s := by simp [State.take, h]

theorem State.chainOut_take (s : State) (srcs : List Reg) (c k : Nat) :
    (s.take srcs).chainOut c k =
      if s.pops srcs = true ∧ c = upstream s.curCore ∧ k = s.curSlot then (s.chainOut c k).tail else s.chainOut c k := by
  unfold State.take
  split
  · rename_i h
    simp only [State.chainPop, State.chainOut_setChain, h, true_and]
    split
    · rename_i g; rw [g.1, g.2]
    · rfl
  · rename_i h; simp [h]

theorem State.pushDue_take (s : State) (srcs : List Reg) (c due : Nat) : (s.take srcs).pushDue c due = s.pushDue c due := by
  have h := (State.take_shape s srcs).2 (downstream c)
  have h2 : ((s.take srcs).core (downstream c)).health = (s.core (downstream c)).health := by rw [h]
  unfold State.pushDue; rw [h2, State.take_now]

theorem State.latch_take (s : State) (srcs : List Reg) (c : Nat) : ((s.take srcs).core c).latch = (s.core c).latch := by
  unfold State.take; split
  · unfold State.chainPop; rw [State.core_setChain]
  · rfl

theorem State.take_popped (s : State) (srcs : List Reg) : Popped s (s.take srcs) srcs := State.chainOut_take s srcs

@[simp] theorem State.chained_take (s : State) (srcs : List Reg) (c k : Nat) : (s.take srcs).chained c k = s.chained c k := by
  simp [State.chained]

/-- An instruction that writes no register goes on at a place that depends on its slot alone. -/
theorem State.take_wentOn (s : State) (srcs : List Reg) (f : Slot → Slot)
    (hf : ∀ x, f x = { x with pc := (f x).pc, sw := (f x).sw }) :
    WentOn s ((s.take srcs).modMe f) srcs (f s.me).pc (f s.me).sw := by
  have hs : ((s.take srcs).modMe f).me = f s.me := by simp
  refine ⟨by rw [hs]; exact ⟨rfl, rfl⟩, ?_, ?_, ?_, ?_, ?_, ?_⟩
  · unfold SameButPc; rw [hs]; exact hf _
  · intro c k; rw [State.chainOut_modMe, State.chainOut_take]
  · intro c k o
    rw [State.modMe, State.modSlot, State.slot_setSlot_key _ _ _ (by simpa [State.other] using o), State.slot_take]
  · intro c; rw [State.core_modMe, State.latch_take]
  · exact (State.take_shape s srcs).trans (SameButChains.modMe f)
  · intro h; rw [State.take_none h]; exact OnlyMe.modMe f

theorem Slot.advance_pcsw (x : Slot) : x.advance = { x with pc := x.advance.pc, sw := x.advance.sw } := by
  obtain ⟨_, _, h⟩ := x.advance_shape; rw [h]

theorem State.take_advance (s : State) (srcs : List Reg) : WentOn s (s.take srcs).advance srcs s.me.advance.pc s.me.advance.sw :=
  State.take_wentOn s srcs _ Slot.advance_pcsw

theorem State.put_chain {d : Reg} (v : Word) (due : Nat) (h : s.pushes (some d) = true) :
    s.put d v due = s.chainPush s.curCore s.curSlot v due := by
  unfold State.put
  have : (d = 14 && s.chained s.curCore s.curSlot) = true := by
    unfold State.pushes at h; simp at h; simp [h.1, h.2]
  rw [if_pos this]

theorem State.put_own {d : Reg} (v : Word) (due : Nat) (h : s.pushes (some d) = false) :
    s.put d v due = s.modMe (·.writeOwn d v due) := by
  unfold State.put
  have : ¬((d = 14 && s.chained s.curCore s.curSlot) = true) := by
    unfold State.pushes at h
    intro g
    simp at g
    simp [g.1, g.2] at h
  rw [if_neg this]

theorem Slot.writeOwn_eq (x : Slot) (r : Reg) (v : Word) (due : Nat) :
    SameButRegs x (x.writeOwn r v due) := by
  unfold SameButRegs Slot.writeOwn Slot.setReg; split <;> rfl

theorem Slot.writeOwn_due (x : Slot) {r : Reg} (v : Word) (due : Nat) (h : r ≠ 0) :
    (x.writeOwn r v due).wbRegs = oneHot r.toNat ∧ (x.writeOwn r v due).wbDue = due := by
  unfold Slot.writeOwn; rw [if_neg h]; exact ⟨rfl, rfl⟩

@[simp] theorem State.slot_modMe_other {c k : Nat} (f : Slot → Slot) (h : s.other c k) : (s.modMe f).slot c k = s.slot c k :=
  State.slot_setSlot_key _ _ _ h

theorem State.pushes_modMe (f : Slot → Slot) (hf : (f s.me).sw = s.me.sw) (d : Option Reg) : (s.modMe f).pushes d = s.pushes d := by
  unfold State.pushes State.chained Slot.chain
  have : (s.modMe f).slot (s.modMe f).curCore (s.modMe f).curSlot = f s.me := State.me_modMe s f
  rw [this, hf]; rfl

theorem State.pops_modMe (f : Slot → Slot) (hf : (f s.me).sw = s.me.sw) (srcs : List Reg) : (s.modMe f).pops srcs = s.pops srcs := by
  unfold State.pops State.chained Slot.chain
  have : (s.modMe f).slot (s.modMe f).curCore (s.modMe f).curSlot = f s.me := State.me_modMe s f
  rw [this, hf]; rfl

theorem State.pushes_take (srcs : List Reg) (d : Option Reg) : (s.take srcs).pushes d = s.pushes d := by
  unfold State.pushes; simp

/-- What a push does to the rest of the machine (R62, R150). -/
theorem State.chainPush_me (s : State) (v : Word) (due : Nat) : (s.chainPush s.curCore s.curSlot v due).me = s.me := by
  have hp := (SameButChains.chainPush (s := s) s.curCore s.curSlot v due).1
  have hc : (s.chainPush s.curCore s.curSlot v due).curCore = s.curCore := by rw [hp]
  have hk : (s.chainPush s.curCore s.curSlot v due).curSlot = s.curSlot := by rw [hp]
  rw [State.me_eq, hc, hk, State.slot_chainPush]
  · rfl
  · rintro ⟨-, h⟩
    have := downstream_ne s.curCore
    simp only [slotKey] at h
    omega

theorem State.advance_me (s : State) : s.advance.me = s.me.advance := State.me_modMe ..

theorem SameButRegs.advance {x y : Slot} (h : SameButRegs x y) : SameButRegs x y.advance := by
  unfold SameButRegs at *
  rw [Slot.advance_pcsw, h]

/-- Where a slot goes on depends on its program counter and `k.sw` alone. -/
theorem Slot.advance_congr {x y : Slot} (hp : x.pc = y.pc) (hs : x.sw = y.sw) :
    x.advance.pc = y.advance.pc ∧ x.advance.sw = y.advance.sw := by
  unfold Slot.advance Slot.dropFrame Slot.frame
  rw [hp, hs]
  by_cases h1 : bit y.sw 3 = true
  · by_cases h2 : bits y.sw 4 4 < bits y.sw 12 4
    · simp [h1, h2]
    · by_cases h3 : bits y.sw 8 4 < bits y.sw 16 4 <;> simp [h1, h2, h3]
  · simp [h1]

theorem State.put_shape (s : State) (d : Reg) (v : Word) (due : Nat) : SameButChains s (s.put d v due) := by
  cases h : s.pushes (some d)
  · rw [State.put_own v due h]; exact SameButChains.modMe _
  · rw [State.put_chain v due h]; exact SameButChains.chainPush ..

theorem State.chainOut_put (s : State) (d : Reg) (v : Word) (due : Nat) (c k : Nat) :
    (s.put d v due).chainOut c k =
      if s.pushes (some d) = true ∧ c = s.curCore ∧ k = s.curSlot then s.chainOut c k ++ [(s.pushDue c due, v)] else s.chainOut c k := by
  cases h : s.pushes (some d)
  · rw [State.put_own v due h]; simp
  · rw [State.put_chain v due h, State.chainOut_chainPush]; simp only [true_and]

theorem State.put_me (s : State) (d : Reg) (v : Word) (due : Nat) :
    (s.put d v due).me = if s.pushes (some d) = true then s.me else s.me.writeOwn d v due := by
  cases h : s.pushes (some d)
  · rw [State.put_own v due h]; simp
  · rw [State.put_chain v due h, State.chainPush_me]; simp

theorem State.slot_put (s : State) (d : Reg) (v : Word) (due : Nat) {c k : Nat} (o : s.other c k)
    (hn : ¬(due ≤ s.now ∧ s.pushes (some d) = true ∧ slotKey c k = slotKey (downstream s.curCore) s.curSlot)) :
    (s.put d v due).slot c k = s.slot c k := by
  cases h : s.pushes (some d)
  · rw [State.put_own v due h]; exact State.slot_modMe_other _ o
  · rw [State.put_chain v due h, State.slot_chainPush _ _ _ _ _ (fun g => hn ⟨g.1, h, g.2⟩)]

theorem State.latch_put (s : State) (d : Reg) (v : Word) (due : Nat) {c : Nat}
    (hn : s.now < due ∨ s.pushes (some d) = false ∨ c ≠ downstream s.curCore) :
    ((s.put d v due).core c).latch = (s.core c).latch := by
  cases h : s.pushes (some d)
  · rw [State.put_own v due h]; rfl
  · rw [State.put_chain v due h, State.latch_chainPush]
    simpa [h] using hn

/-- A fixed-latency instruction: what it leaves. -/
theorem State.retire_wrote (s : State) (srcs : List Reg) (d : Reg) (v : Word) (lat : Nat) :
    Wrote s (s.retire srcs d v lat) srcs d v 0 lat := by
  have hpush : (s.take srcs).pushes (some d) = s.pushes (some d) := State.pushes_take ..
  have hme : (s.retire srcs d v lat).me =
      (if s.pushes (some d) = true then s.me else s.me.writeOwn d v (s.now + lat)).advance := by
    rw [State.retire, State.advance_me, State.put_me, hpush, State.take_me]
  refine ⟨?_, ?_, ?_, ?_, ?_, ?_, ?_, ?_, ?_, ?_, ?_⟩
  · intro r
    rw [hme]
    cases h : s.pushes (some d)
    · simp only [Bool.false_eq_true, if_false, Slot.reg_advance, Slot.reg_writeOwn]
      by_cases e : r = d
      · subst e; simp
      · simp [e]
    · simp
  · intro r
    rw [hme]
    cases h : s.pushes (some d)
    · simp only [Bool.false_eq_true, if_false, Slot.isFull_advance, Slot.isFull_writeOwn, Bool.not_false, Bool.and_true]
      rw [Bool.or_comm]
    · simp only [if_true, Slot.isFull_advance, Bool.not_true, Bool.and_false, Bool.or_false]
  · rw [hme]; cases h : s.pushes (some d) <;> simp
  · intro hd h
    rw [hme, h]
    simp only [Bool.false_eq_true, if_false]
    rw [Slot.advance_pcsw]
    exact Slot.writeOwn_due _ _ _ hd
  · rw [hme]; cases h : s.pushes (some d)
    · simp only [Bool.false_eq_true, if_false]
      exact Slot.advance_congr (by simp) (by simp)
    · exact Slot.advance_congr rfl rfl
  · rw [hme]
    apply SameButRegs.advance
    split
    · rfl
    · exact Slot.writeOwn_eq s.me d v (s.now + lat)
  · intro c k
    rw [State.retire]
    change (State.put _ d v _).chainOut c k = _
    rw [State.chainOut_put, hpush, State.chainOut_take]
    simp only [State.take_curCore, State.take_curSlot, State.pushDue_take]
    by_cases a : s.pops srcs = true ∧ c = upstream s.curCore ∧ k = s.curSlot
    · obtain ⟨a, rfl, rfl⟩ := a
      simp [a, upstream_ne]
    · simp [a]
  · intro c k o hn
    rw [State.retire, State.advance, State.slot_modMe_other, State.slot_put, State.slot_take]
    · simpa [State.other] using o
    · rw [hpush, State.take_now]; rintro ⟨a, b⟩; exact hn ⟨by omega, by simpa using b⟩
    · have := State.put_shape (s.take srcs) d v (s.now + lat)
      rw [State.other, this.1]; simpa [State.other] using o
  · intro c hc
    rw [State.retire, State.advance, State.core_modMe, State.latch_put, State.latch_take]
    rw [hpush, State.take_now]
    obtain a | a := hc
    · exact .inl (by omega)
    · exact .inr (by simpa using a)
  · exact ((State.take_shape ..).trans (State.put_shape ..)).trans (SameButChains.modMe _)
  · intro h1 h2
    rw [State.retire, State.take_none h1, State.put_own _ _ h2]
    exact (OnlyMe.modMe _).trans (OnlyMe.modMe _)

/-- The flags that come into place with a result. -/
theorem Wrote.flagged {t : State} {srcs : List Reg} {d : Reg} {v : Word} {lat : Nat} (fl : BitVec 5)
    (h : Wrote (s.modMe (·.orFst fl)) t srcs d v 0 lat) : Wrote s t srcs d v fl lat := by
  have hpop : (s.modMe (·.orFst fl)).pops srcs = s.pops srcs := State.pops_modMe (hf := rfl) ..
  have hpush : (s.modMe (·.orFst fl)).pushes (some d) = s.pushes (some d) := State.pushes_modMe (hf := rfl) ..
  have hadv := Slot.advance_congr (x := s.me.orFst fl) (y := s.me) rfl rfl
  obtain ⟨h1, h2, h3, h4, h5, h6, h7, h8, h9, h10, h11⟩ := h
  rw [State.me_modMe] at h1 h2 h3 h5 h6
  rw [hpop, hpush] at h11
  rw [hpush] at h4
  simp only [hpush, hpop] at h1 h2 h7 h8 h9
  refine ⟨h1, h2, by rw [h3]; simp [Slot.orFst], h4, ?_, ?_, h7, ?_, h9, ?_, ?_⟩
  · rw [h5.1, h5.2]; exact hadv
  · unfold SameButRegs at *; rw [h6]; rfl
  · intro c k o hn; rw [h8 c k o hn, State.slot_modMe_other _ o]
  · exact (SameButChains.modMe _).trans h10
  · intro a b; exact (OnlyMe.modMe _).trans (h11 a b)

/-- An instruction that only writes a register, once its checks pass. -/
theorem State.compute_passes {i : Instr} {fr : Bool} {srcs : List Reg} {d : Reg} {lat : Nat} (f : (Reg → Word) → Word)
    (h : PassesG s fr srcs (some d)) : s.compute i fr srcs d lat f = .next (s.retire srcs d (f s.src) lat) :=
  State.issue_passes _ h

/-! ## Parking (R17, R23) -/

theorem Slot.parkFor_park (x : Slot) (n : Nat) (p : Pend) : (x.parkFor n p).park = n % 16 :=
  bits_setBits x.sw 41 4 n (by decide)

theorem Slot.parkFor_sw (x : Slot) (n : Nat) (p : Pend) (i : Nat) (h : i < 64) (hi : ¬(41 ≤ i ∧ i < 45)) :
    bit (x.parkFor n p).sw i = bit x.sw i :=
  (bit_setBits x.sw 41 4 n i h).trans (if_neg hi)

/-- A slot that parks. -/
theorem State.park_parked (s : State) (n : Nat) (p : Pend) : Parked s (s.park n p) n p := by
  refine ⟨?_, ?_, ?_, ?_, ?_, OnlyMe.modMe _⟩ <;> (try (rw [State.park, State.me_modMe]))
  · rfl
  · exact Slot.parkFor_park ..
  · exact fun _ h hi => Slot.parkFor_sw s.me n p _ h hi
  · rfl
  · rfl

theorem State.parkOn_parked (s : State) (b : Bool) (n : Nat) (p : Pend) : Parked s (s.parkOn b n p) n p := by
  refine ⟨?_, ?_, ?_, ?_, ?_, OnlyMe.modMe _⟩ <;> (try (rw [State.parkOn, State.me_modMe]))
  · rfl
  · exact Slot.parkFor_park s.me n p
  · exact fun _ h hi => Slot.parkFor_sw s.me n p _ h hi
  · rfl
  · rfl

theorem State.parkRetry_parked (s : State) (n : Nat) : Parked s (s.parkRetry n) n .retry := State.park_parked ..

/-! ## Faults (R290 to R295) -/

theorem FaultCode.num_lt (f : FaultCode) : f.num < 32 := by cases f <;> decide

theorem causeBits (n a b c : Nat) (hn : n < 32) (ha : a ≤ 1) (hb : b ≤ 1) (hc : c ≤ 1) :
    bits (wrap (n + a * 256 + b * 512 + c * 1024)) 0 8 = n ∧ bit (wrap (n + a * 256 + b * 512 + c * 1024)) 9 = decide (b = 1) ∧
    bit (wrap (n + a * 256 + b * 512 + c * 1024)) 10 = decide (c = 1) := by
  have h : (wrap (n + a * 256 + b * 512 + c * 1024)).toNat = n + a * 256 + b * 512 + c * 1024 := by
    unfold wrap; rw [BitVec.toNat_ofNat]; omega
  refine ⟨by unfold bits; rw [h]; omega, ?_, ?_⟩
  · unfold bit BitVec.getLsbD; rw [h, Nat.testBit_eq_decide_div_mod_eq]; congr 1; apply propext; omega
  · unfold bit BitVec.getLsbD; rw [h, Nat.testBit_eq_decide_div_mod_eq]; congr 1; apply propext; omega

@[simp] theorem State.slot_postFault (s : State) (c k c' k' : Nat) : (s.postFault c k).slot c' k' = s.slot c' k' := rfl

/-- What stopping a slot writes. -/
theorem State.slot_stopWith (s : State) (c k : Nat) (f : FaultCode) (fa fv : Word) (imp : Bool) :
    (s.stopWith c k f fa fv imp).slot c k =
      { s.slot c k with
        st := .stopped, faddr := fa, fault := fv, pend := (s.slot c k).owes, owed := .none, counted := false,
        cause := wrap (f.num + (if imp then 1 else 0) * 256 + (if (s.slot c k).frame then 1 else 0) * 512 +
          (if (s.slot c k).inline_ then 1 else 0) * 1024) } := by
  unfold State.stopWith
  dsimp only
  rw [State.slot_postFault, State.slot_setSlot_self]
  cases imp <;> cases (s.slot c k).frame <;> cases (s.slot c k).inline_ <;> rfl

/-- Taking a fault. -/
theorem State.takeFault_faulted (s : State) (c k : Nat) (f : FaultCode) (fa fv : Word) (imp : Bool) :
    Faulted s (s.takeFault c k f fa fv imp) c k f.num fa fv false := by
  have hs : (s.takeFault c k f fa fv imp).slot c k =
      { s.slot c k with
        st := .stopped, epc := (s.slot c k).pc, faddr := fa, fault := fv, pend := (s.slot c k).owes, owed := .none, counted := false,
        cause := wrap (f.num + (if imp then 1 else 0) * 256 + (if (s.slot c k).frame then 1 else 0) * 512 +
          (if (s.slot c k).inline_ then 1 else 0) * 1024) } := by
    unfold State.takeFault
    rw [State.slot_stopWith, State.slot_modSlot_self]; rfl
  have hb := causeBits f.num (if imp then 1 else 0) (if (s.slot c k).frame then 1 else 0) (if (s.slot c k).inline_ then 1 else 0)
    f.num_lt (by split <;> simp) (by split <;> simp) (by split <;> simp)
  refine ⟨?_, ?_, ?_, rfl, ?_⟩
  · rw [hs]
    refine ⟨hb.1, ?_, ?_⟩
    · rw [hb.2.1]; cases (s.slot c k).frame <;> rfl
    · rw [hb.2.2]; cases (s.slot c k).inline_ <;> rfl
  · rw [hs]; rfl
  · intro c' k' h
    unfold State.takeFault State.stopWith
    dsimp only
    rw [State.slot_postFault, State.slot_setSlot_key _ _ _ h]
    exact State.slot_setSlot_key (s := s) _ _ _ h
  · have hp : (s.takeFault c k f fa fv imp).pkg = { s.pkg with
        notices := s.pkg.notices ++
        [.fault (tileOf c) (faultNotice (if bit (s.core c).owner 39 then 0 else ((s.takeFault c k f fa fv imp).slot c k).epc) c k
          (bits ((s.takeFault c k f fa fv imp).slot c k).cause 0 8) ((s.takeFault c k f fa fv imp).slot c k).tenant)] } := rfl
    rw [hp, hs]
    simp only [hb.1]

theorem State.fault_stops (s : State) (f : FaultCode) (fa fv : Word) : Stops s (s.fault f fa fv) f.num fa fv :=
  State.takeFault_faulted ..

theorem State.faultLeavingFrame_stops (s : State) (f : FaultCode) (fv : Word) :
    Stops s (s.faultLeavingFrame f fv) f.num 0 fv true := by
  obtain ⟨h1, h2, h3, h4, h5⟩ := State.fault_stops s f 0 fv
  have hs : (s.faultLeavingFrame f fv).slot s.curCore s.curSlot = ((s.fault f 0 fv).slot s.curCore s.curSlot).dropFrame :=
    State.me_modMe ..
  refine ⟨?_, ?_, ?_, ?_, h5⟩
  · rw [hs]; exact h1
  · rw [hs, h2]; rfl
  · intro c k o
    rw [← h3 c k o]; exact State.slot_modMe_other _ o
  · rfl

end Sys2Proof.Machine
end

