-- ==== Sys2Proof/Laws/Memory.lean ====
section
/-!
SUPPORT. Memory: a read after a write, that writes keep the one form of memory, and what a write by an agent leaves.
-/

namespace Sys2Proof.Machine

open Sys2Proof

/-! ## Bytes -/

theorem State.rawWrite_shape : ∀ (n : Nat) (s : State) (k v : Nat), s.rawWrite k n v = { s with mem := (s.rawWrite k n v).mem }
  | 0, _, _, _ => rfl
  | n + 1, s, k, v => by rw [State.rawWrite, State.rawWrite_shape n]; rfl

theorem State.byteAt_rawWrite : ∀ (n : Nat) (s : State) (k v a : Nat),
    (s.rawWrite k n v).byteAt a = if k ≤ a ∧ a < k + n then BitVec.ofNat 8 (v / 256 ^ (a - k)) else s.byteAt a
  | 0, s, k, v, a => by rw [State.rawWrite, if_neg (by omega)]
  | n + 1, s, k, v, a => by
    rw [State.rawWrite, State.byteAt_rawWrite n, State.byteAt_setByte]
    by_cases h : a = k
    · subst h
      rw [if_neg (by omega), if_pos rfl, if_pos (by omega)]
      simp
    · by_cases g : k + 1 ≤ a ∧ a < k + 1 + n
      · rw [if_pos g, if_pos (by omega), Nat.div_div_eq_div_mul]
        have : a - k = (a - (k + 1)) + 1 := by omega
        rw [this, Nat.pow_succ, Nat.mul_comm]
      · rw [if_neg g, if_neg h, if_neg (by omega)]

theorem State.rawWriteBytes_shape : ∀ (l : List Byte) (s : State) (k : Nat), s.rawWriteBytes k l = { s with mem := (s.rawWriteBytes k l).mem }
  | [], _, _ => rfl
  | b :: l, s, k => by rw [State.rawWriteBytes, State.rawWriteBytes_shape l]; rfl

theorem State.byteAt_rawWriteBytes : ∀ (l : List Byte) (s : State) (k a : Nat),
    (s.rawWriteBytes k l).byteAt a = if k ≤ a ∧ a < k + l.length then l.getD (a - k) 0 else s.byteAt a
  | [], s, k, a => by rw [State.rawWriteBytes, if_neg (by simp only [List.length_nil]; omega)]
  | b :: l, s, k, a => by
    rw [State.rawWriteBytes, State.byteAt_rawWriteBytes l, State.byteAt_setByte]
    simp only [List.length_cons]
    by_cases h : a = k
    · subst h; rw [if_neg (by omega), if_pos rfl, if_pos (by omega), Nat.sub_self]; rfl
    · by_cases g : k + 1 ≤ a ∧ a < k + 1 + l.length
      · have : a - k = (a - (k + 1)) + 1 := by omega
        rw [if_pos g, if_pos (by omega), this]; rfl
      · rw [if_neg g, if_neg h, if_neg (by omega)]

theorem State.rawRead_lt (s : State) : ∀ (n k : Nat), s.rawRead k n < 256 ^ n
  | 0, _ => by simp [State.rawRead]
  | n + 1, k => by
    have h := State.rawRead_lt s n (k + 1)
    have := (s.byteAt k).isLt
    rw [State.rawRead, Nat.pow_succ]; omega

/-- Byte i of a read. -/
theorem State.rawRead_byte (s : State) : ∀ (n k i : Nat), i < n → s.rawRead k n / 256 ^ i % 256 = (s.byteAt (k + i)).toNat
  | 0, _, _, h => by omega
  | n + 1, k, 0, _ => by
    have := (s.byteAt k).isLt
    rw [State.rawRead]; simp; omega
  | n + 1, k, i + 1, h => by
    have := (s.byteAt k).isLt
    rw [State.rawRead, Nat.pow_succ, Nat.mul_comm (256 ^ i), ← Nat.div_div_eq_div_mul]
    have e : ((s.byteAt k).toNat + 256 * s.rawRead (k + 1) n) / 256 = s.rawRead (k + 1) n := by omega
    rw [e, State.rawRead_byte s n (k + 1) i (by omega), Nat.add_assoc, Nat.add_comm 1 i]

/-- A read depends on its bytes alone. -/
theorem State.rawRead_congr {s t : State} : ∀ (n k : Nat), (∀ i < n, s.byteAt (k + i) = t.byteAt (k + i)) → s.rawRead k n = t.rawRead k n
  | 0, _, _ => rfl
  | n + 1, k, h => by
    rw [State.rawRead, State.rawRead, State.rawRead_congr n (k + 1) (fun i hi => ?_)]
    · have := h 0 (by omega); rw [Nat.add_zero] at this; rw [this]
    · have := h (i + 1) (by omega); rw [← Nat.add_assoc, Nat.add_right_comm] at this; exact this

theorem byteOf_toNat (w : Word) (n : Nat) : (byteOf w n).toNat = w.toNat / 256 ^ n % 256 := by
  unfold byteOf
  rw [BitVec.extractLsb'_toNat, Nat.shiftRight_eq_div_pow, Nat.pow_mul]

theorem byteOf_wordRaw (s : State) (k : Nat) {n : Nat} (h : n < 8) : byteOf (wrap (s.rawRead k 8)) n = s.byteAt (k + n) := by
  apply BitVec.eq_of_toNat_eq
  rw [byteOf_toNat, ← State.rawRead_byte s 8 k n h]
  unfold wrap
  have : s.rawRead k 8 < 2 ^ 64 := State.rawRead_lt s 8 k
  rw [BitVec.toNat_ofNat, Nat.mod_eq_of_lt this]

/-! ## The form of memory -/

theorem MemInv.setByte {s : State} (h : MemInv s) (k : Nat) (b : Byte) : MemInv (s.setByte k b) := Tab.wf_set _ _ _ _ h
theorem MemInv.of_mem {s t : State} (h : MemInv s) (e : t.mem = s.mem) : MemInv t := by unfold MemInv at *; rw [e]; exact h
theorem MemInv.rawWrite : ∀ (n : Nat) {s : State} (k v : Nat), MemInv s → MemInv (s.rawWrite k n v)
  | 0, _, _, _, h => h
  | n + 1, _, _, _, h => MemInv.rawWrite n _ _ (h.setByte _ _)
theorem MemInv.rawWriteBytes : ∀ (l : List Byte) {s : State} (k : Nat), MemInv s → MemInv (s.rawWriteBytes k l)
  | [], _, _, h => h
  | _ :: l, _, _, h => MemInv.rawWriteBytes l _ (h.setByte _ _)
theorem MemInv.setTag {s : State} (h : MemInv s) (key t : Nat) : MemInv (s.setTag key t) := h
theorem MemInv.setBadWord {s : State} (h : MemInv s) (key : Nat) (b : Bool) : MemInv (s.setBadWord key b) := h
theorem MemInv.memStore {s : State} (h : MemInv s) (ck key size : Nat) (v : Word) : MemInv (s.memStore ck key size v) := by
  unfold State.memStore
  split
  · exact ((MemInv.rawWrite 8 key v.toNat h).setTag _ _).setBadWord _ _
  · split
    · exact MemInv.rawWrite size key v.toNat h
    · exact (MemInv.rawWrite 8 _ _ h).setTag _ _
theorem MemInv.loseResv {s : State} (h : MemInv s) (b : Option (Nat × Nat)) (key : Nat) : MemInv (s.loseResv b key) := h
theorem MemInv.agentWrite {s : State} (h : MemInv s) (b : Option (Nat × Nat)) (ck key size : Nat) (v : Word) :
    MemInv (s.agentWrite b ck key size v) := (h.memStore ck key size v).loseResv _ _

/-! ## What a write leaves -/

theorem State.slot_mapSlots (s : State) (f : Nat → Nat → Slot → Slot) (hf : ∀ c k, f c k Slot.reset = Slot.reset) (c k : Nat) (hk : k < 16) :
    (s.mapSlots f).slot c k = f c k (s.slot c k) := by
  unfold State.mapSlots State.slot
  rw [Tab.get_mapAll _ _ _ (fun _ => hf _ _)]
  have h1 : (16 * c + k) / 16 = c := by omega
  have h2 : (16 * c + k) % 16 = k := by omega
  rw [h1, h2]

/-- Reservations after a write (R227). -/
theorem State.slot_loseResv (s : State) (b : Option (Nat × Nat)) (key c k : Nat) (hk : k < 16) :
    (s.loseResv b key).slot c k =
      if b ≠ some (c, k) ∧ (s.slot c k).resv.any (fun r => r.key = key / 64) = true then (s.slot c k).unreserve else s.slot c k := by
  unfold State.loseResv
  rw [State.slot_mapSlots _ _ (fun _ _ => rfl) _ _ hk]
  cases h : (s.slot c k).resv with
  | none => simp
  | some r =>
    simp only [Option.any_some, decide_eq_true_eq, Bool.and_eq_true, bne_iff_ne, ne_eq]
    by_cases g : r.key = key / 64
    · by_cases e : b = some (c, k)
      · simp [e]
      · rw [if_pos ⟨g, e⟩, if_pos ⟨e, g⟩]; unfold Slot.unreserve; rfl
    · rw [if_neg (fun a => g a.1), if_neg (fun a => g a.2)]

theorem byteOf_ofNat (n v : Nat) : byteOf (wrap v) n = BitVec.ofNat 8 (v % 2 ^ 64 / 256 ^ n) := by
  apply BitVec.eq_of_toNat_eq
  rw [byteOf_toNat, wrap, BitVec.toNat_ofNat, BitVec.toNat_ofNat]

theorem byteOf_eq (w : Word) (n : Nat) : byteOf w n = BitVec.ofNat 8 (w.toNat / 256 ^ n) := by
  apply BitVec.eq_of_toNat_eq
  rw [byteOf_toNat, BitVec.toNat_ofNat]

theorem byteOf_getLsbD (w : Word) (n i : Nat) : (byteOf w n).getLsbD i = (decide (i < 8) && w.getLsbD (8 * n + i)) := by
  unfold byteOf; rw [BitVec.getLsbD_extractLsb']

/-- A field of whole bytes in a word. -/
theorem byteOf_setBits (w : Word) (p n v i : Nat) (hi : i < 8) :
    byteOf (setBits w (8 * p) (8 * n) v) i = if p ≤ i ∧ i < p + n then BitVec.ofNat 8 (v / 256 ^ (i - p)) else byteOf w i := by
  apply BitVec.eq_of_getLsbD_eq
  intro j hj
  rw [byteOf_getLsbD, getLsbD_setBits]
  have h64 : 8 * i + j < 64 := by omega
  by_cases h : p ≤ i ∧ i < p + n
  · rw [if_pos h, if_pos (by omega), BitVec.getLsbD_ofNat, show (256 : Nat) = 2 ^ 8 from rfl, ← Nat.pow_mul, Nat.testBit_div_two_pow]
    have e : 8 * i + j - 8 * p = j + 8 * (i - p) := by omega
    simp [hj, h64, e]
  · rw [if_neg h, if_neg (by omega), byteOf_getLsbD]
    simp [h64]

theorem State.wordAs_own {s : State} {ck key : Nat} (h : s.tagOf key = ck) : s.wordAs ck key = wrap (s.rawRead (key / 8 * 8) 8) := by
  unfold State.wordAs; rw [if_pos h]

/-- What a store leaves of the bytes, the tags and the errors of memory. -/
theorem State.memStore_stored (s : State) (ck key size : Nat) (v : Word) (hs : key % 8 + size ≤ 8) :
    let t := s.memStore ck key size v
    (∀ n < 8, byteOf (t.wordAs ck key) n =
      if key % 8 ≤ n ∧ n < key % 8 + size then byteOf v (n - key % 8) else byteOf (s.wordAs ck key) n) ∧
    t.tagOf key = ck ∧
    (s.tagOf key = ck ∨ size = 8 → ∀ a, ¬(key ≤ a ∧ a < key + size) → t.byteAt a = s.byteAt a) ∧
    (∀ a, a / 8 ≠ key / 8 → t.byteAt a = s.byteAt a ∧ t.tagOf a = s.tagOf a) ∧
    (∀ a, t.badWord a = (s.badWord a && !(decide (size = 8) && decide (a / 8 = key / 8)))) ∧
    t = { s with mem := t.mem, tags := t.tags, pkg := { s.pkg with badWords := t.pkg.badWords } } := by
  have hword : ∀ (t : State), t.tagOf key = ck → ∀ n < 8, byteOf (t.wordAs ck key) n = t.byteAt (key / 8 * 8 + n) := by
    intro t ht n hn; rw [State.wordAs_own ht, byteOf_wordRaw _ _ hn]
  unfold State.memStore
  by_cases h8 : size = 8
  · subst h8
    rw [if_pos rfl]
    have hk : key % 8 = 0 := by omega
    have hk2 : key / 8 * 8 = key := by omega
    have hsh := State.rawWrite_shape 8 s key v.toNat
    have hby := State.byteAt_rawWrite 8 s key v.toNat
    generalize s.rawWrite key 8 v.toNat = u at hsh hby ⊢
    have hb : ∀ a, ((u.setTag key ck).setBadWord key false).byteAt a = u.byteAt a := fun _ => rfl
    have htag : ∀ a, ((u.setTag key ck).setBadWord key false).tagOf a = if a / 8 = key / 8 then ck else s.tagOf a := by
      intro a
      change (u.setTag key ck).tagOf a = _
      rw [State.tagOf_setTag, hsh]; rfl
    have ht := htag key
    rw [if_pos rfl] at ht
    refine ⟨?_, ht, ?_, ?_, ?_, ?_⟩
    · intro n hn
      rw [hword _ ht n hn, hb, hby, hk2, if_pos (by omega), if_pos (by omega), byteOf_eq]
      rw [hk]; congr 3; omega
    · intro _ a ha; rw [hb, hby, if_neg ha]
    · intro a ha
      exact ⟨by rw [hb, hby, if_neg (by omega)], by rw [htag, if_neg ha]⟩
    · intro a
      have : ((u.setTag key ck).setBadWord key false).badWord a = if a / 8 = key / 8 then false else s.badWord a := by
        rw [hsh]
        exact Tab.get_set false s.pkg.badWords (key / 8) false (a / 8)
      rw [this]
      by_cases e : a / 8 = key / 8 <;> simp [e]
    · rw [hsh]; rfl
  · rw [if_neg h8]
    by_cases hck : s.tagOf key = ck
    · rw [if_pos hck]
      have hsh := State.rawWrite_shape size s key v.toNat
      have hby := State.byteAt_rawWrite size s key v.toNat
      generalize s.rawWrite key size v.toNat = u at hsh hby ⊢
      have htag : ∀ a, u.tagOf a = s.tagOf a := by intro a; rw [hsh]; rfl
      have ht : u.tagOf key = ck := by rw [htag, hck]
      refine ⟨?_, ht, ?_, ?_, ?_, by rw [hsh]⟩
      · intro n hn
        rw [hword _ ht n hn, hword _ hck n hn, hby]
        by_cases e : key % 8 ≤ n ∧ n < key % 8 + size
        · rw [if_pos e, if_pos (by omega), byteOf_eq]
          congr 3; omega
        · rw [if_neg e, if_neg (by omega)]
      · intro _ a ha; rw [hby, if_neg ha]
      · intro a ha
        exact ⟨by rw [hby, if_neg (by omega)], htag a⟩
      · intro a
        have : u.badWord a = s.badWord a := by rw [hsh]; rfl
        rw [this]; simp [h8]
    · rw [if_neg hck]
      simp only
      generalize hw : setBits (s.wordAs ck key) (8 * (key % 8)) (8 * size) v.toNat = w
      have hsh := State.rawWrite_shape 8 s (key / 8 * 8) w.toNat
      have hby := State.byteAt_rawWrite 8 s (key / 8 * 8) w.toNat
      generalize s.rawWrite (key / 8 * 8) 8 w.toNat = u at hsh hby ⊢
      have hb : ∀ a, (u.setTag key ck).byteAt a = u.byteAt a := fun _ => rfl
      have htag : ∀ a, (u.setTag key ck).tagOf a = if a / 8 = key / 8 then ck else s.tagOf a := by
        intro a; rw [State.tagOf_setTag, hsh]; rfl
      have ht := htag key
      rw [if_pos rfl] at ht
      refine ⟨?_, ht, ?_, ?_, ?_, ?_⟩
      · intro n hn
        rw [hword _ ht n hn, hb, hby, if_pos (by omega)]
        have e1 : key / 8 * 8 + n - key / 8 * 8 = n := by omega
        rw [e1, ← byteOf_eq, ← hw, byteOf_setBits _ _ _ _ _ hn]
        split
        · rw [byteOf_eq]
        · rfl
      · rintro (h | h)
        · exact absurd h hck
        · exact absurd h h8
      · intro a ha
        exact ⟨by rw [hb, hby, if_neg (by omega)], by rw [htag, if_neg ha]⟩
      · intro a
        have : (u.setTag key ck).badWord a = s.badWord a := by rw [hsh]; rfl
        rw [this]; simp [h8]
      · rw [hsh]; rfl

/-- A write by an agent: what it leaves. -/
theorem State.agentWrite_stored (s : State) (b : Option (Nat × Nat)) (ck key size : Nat) (v : Word) (hs : key % 8 + size ≤ 8) :
    Stored s (s.agentWrite b ck key size v) b ck key size v := by
  obtain ⟨h1, h2, h3, h4, h5, h6⟩ := s.memStore_stored ck key size v hs
  have hslot : ∀ c k, (s.memStore ck key size v).slot c k = s.slot c k := by
    intro c k; rw [h6]; rfl
  refine ⟨h1, h2, h3, h4, h5, ?_, ?_⟩
  · intro c k hk
    rw [State.agentWrite, State.slot_loseResv _ _ _ _ _ hk, hslot]
  · unfold State.agentWrite State.loseResv State.mapSlots
    rw [h6]

end Sys2Proof.Machine
end

