-- ==== Sys2Proof/Laws/MemForm.lean ====
section
/-!
SUPPORT. Every operation on memory keeps its one form: stores of slots, jobs, windows, hosts and firmware, pages and bodies, the zeroing of
local memory and of the package; and memory at reset has it.
-/

namespace Sys2Proof.Machine

open Sys2Proof

/-- Memory at reset lists nothing. -/
theorem MemInv_reset : MemInv State.reset := rfl

/-- What each step of a fold keeps, the fold keeps. -/
theorem foldl_keeps {α β : Type} (P : β → Prop) (f : β → α → β) (h : ∀ t a, P t → P (f t a)) : ∀ (l : List α) (s : β), P s → P (l.foldl f s)
  | [], _, hs => hs
  | a :: l, s, hs => foldl_keeps P f h l (f s a) (h s a hs)

theorem MemInv.setWordFull {s : State} (h : MemInv s) (key : Nat) (b : Bool) : MemInv (s.setWordFull key b) := h
theorem MemInv.nextFree {s : State} (h : MemInv s) : MemInv s.nextFree := h
theorem MemInv.modSlot {s : State} (h : MemInv s) (c k : Nat) (f : Slot → Slot) : MemInv (s.modSlot c k f) := h
theorem MemInv.modCore {s : State} (h : MemInv s) (c : Nat) (f : Core → Core) : MemInv (s.modCore c f) := h
theorem MemInv.modPkg {s : State} (h : MemInv s) (f : Pkg → Pkg) : MemInv (s.modPkg f) := h
theorem MemInv.modDie {s : State} (h : MemInv s) (d : Nat) (f : Die → Die) : MemInv (s.modDie d f) := h
theorem MemInv.mapSlots {s : State} (h : MemInv s) (f : Nat → Nat → Slot → Slot) : MemInv (s.mapSlots f) := h

theorem MemInv.ite {p : Prop} [Decidable p] {s t : State} (hs : MemInv s) (ht : MemInv t) : MemInv (if p then s else t) := by
  split
  · exact hs
  · exact ht

/-- R299: a run of bytes that an agent other than a slot writes. -/
theorem MemInv.writeRun {s : State} (h : MemInv s) (ck : Nat) (key : Nat → Nat) (l : List Byte) : MemInv (s.writeRun ck key l) :=
  foldl_keeps MemInv _ (fun _ _ ht =>
    MemInv.ite (MemInv.ite (ht.agentWrite _ _ _ _ _) ht) (ht.agentWrite _ _ _ _ _)) _ _ h

theorem MemInv.agentWriteBytes {s : State} (h : MemInv s) (ck key : Nat) (l : List Byte) : MemInv (s.agentWriteBytes ck key l) :=
  h.writeRun _ _ _

/-- R199: replicated pages are collapsed. -/
theorem MemInv.collapse {s : State} (h : MemInv s) (page : Nat) : MemInv (s.collapse page) := by
  unfold State.collapse
  dsimp only
  refine MemInv.mapSlots ?_ _
  exact MemInv.of_mem (foldl_keeps MemInv _ (fun _ _ ht => ht.agentWrite _ _ _ _ _) _ _ h) rfl

theorem MemInv.collapsePages {s : State} (h : MemInv s) (l : List Nat) : MemInv (s.collapsePages l) :=
  foldl_keeps MemInv _ (fun _ _ ht => MemInv.ite (ht.collapse _) ht) _ _ h

/-- R221: a store of a slot that is performed. -/
theorem MemInv.performStore {s : State} (h : MemInv s) (c k : Nat) (e : StoreEnt) : MemInv (s.performStore c k e) := by
  unfold State.performStore
  split
  · exact MemInv.ite ((h.agentWrite _ _ _ _ _).setWordFull _ _) (h.agentWrite _ _ _ _ _)
  · exact foldl_keeps MemInv _ (fun _ _ ht => ht.agentWrite _ _ _ _ _) _ _ h

/-- R28, R339: local memory that is made zero. -/
theorem MemInv.zeroLocal {s : State} (h : MemInv s) (c off len : Nat) : MemInv (s.zeroLocal c off len) := by
  unfold State.zeroLocal
  refine MemInv.mapSlots ?_ _
  refine MemInv.ite ?_ ?_
  · exact Tab.wf_filter _ _ _ h
  · exact foldl_keeps MemInv _ (fun _ _ ht => ht.setTag _ _) _ _ (Tab.wf_filter _ _ _ h)

/-- R389, R390: power goes or a reset begins. -/
theorem MemInv.cold {s : State} (h : MemInv s) (b : Boot) : MemInv (s.cold b) := Tab.wf_filter _ _ _ h

theorem MemInv.scribble {s : State} (h : MemInv s) (ck : Nat) (keys : List Nat) : MemInv (s.scribble ck keys) :=
  foldl_keeps MemInv _ (fun _ _ ht => (ht.agentWrite _ _ _ _ _).nextFree) _ _ h

/-- R199: the pages of an area are collapsed before it is written. -/
theorem MemInv.collapseAt {s : State} (h : MemInv s) (keys : List Nat) : MemInv (s.collapseAt keys) := h.collapsePages _

theorem MemInv.setWinWord {s : State} (h : MemInv s) (w : WinCfg) (c e o : Nat) (v : Word) : MemInv (s.setWinWord w c e o v) :=
  h.agentWrite _ _ _ _ _

/-! ### Tables and bodies -/

/-- R194, R197: a guest frame gets its place in stage 2. -/
theorem MemInv.giveFrame {s : State} (h : MemInv s) (x : BitVec 8) (r : TenantDie) (gpa need : Nat) : MemInv (s.giveFrame x r gpa need) := by
  unfold State.giveFrame
  dsimp only
  exact MemInv.ite h (MemInv.ite (MemInv.ite h (h.agentWrite _ _ _ _ _)) (h.agentWrite _ _ _ _ _))

/-- R197, R313: a page is mapped. -/
theorem MemInv.mapWalk (x : BitVec 8) (r : TenantDie) (va : Nat) (leaf : Word) :
    ∀ (l : List (Nat × Nat × Bool × Bool × Nat)) (s : State) (tab : Nat), MemInv s → MemInv (s.mapWalk x r va leaf l tab)
  | [], _, _, h => h
  | l :: rest, s, tab, h => by
    have ih := fun (t : State) (ht : MemInv t) (y : Nat) => MemInv.mapWalk x r va leaf rest t y ht
    have hg := h.giveFrame x r tab 2
    unfold State.mapWalk
    dsimp only
    split
    · exact hg
    · split
      · exact hg.agentWrite _ _ _ _ _
      · split
        · exact ih _ hg _
        · refine ih _ (MemInv.agentWrite (foldl_keeps MemInv _ (fun _ _ ht => ht.agentWrite _ _ _ _ _) _ _ ?_) _ _ _ _ _) _
          exact MemInv.giveFrame hg.nextFree _ _ _ _

theorem MemInv.dropTlb {s : State} (h : MemInv s) (f : TlbEnt → Bool) : MemInv (s.dropTlb f) := h

/-- What each page's change keeps, a range of pages keeps. -/
theorem MemInv.eachPage {s : State} (h : MemInv s) (x : BitVec 8) (va bytes : Nat) (f : State → TenantDie → Nat → State)
    (hf : ∀ t r o, MemInv t → MemInv (f t r o)) : MemInv (s.eachPage x va bytes f) :=
  MemInv.dropTlb (foldl_keeps MemInv _ (fun _ _ ht => foldl_keeps MemInv _ (fun _ _ hu => MemInv.ite hu (hf _ _ _ hu)) _ _ ht) _ _ h) _

/-- R197, R313: a range is mapped on every die. -/
theorem MemInv.mapRange {s : State} (h : MemInv s) (x : BitVec 8) (va gpa bytes perm : Nat) : MemInv (s.mapRange x va gpa bytes perm) :=
  h.eachPage _ _ _ _ (fun _ _ _ ht => MemInv.mapWalk _ _ _ _ _ _ _ (ht.giveFrame _ _ _ _))

/-- R322: a range is mapped no longer. -/
theorem MemInv.unmapRange {s : State} (h : MemInv s) (x : BitVec 8) (va bytes : Nat) : MemInv (s.unmapRange x va bytes) := by
  refine h.eachPage _ _ _ _ (fun _ _ _ ht => ?_)
  split
  · exact ht
  · exact ht.agentWrite _ _ _ _ _

/-- R313: the words of a body stand in its pages. -/
theorem MemInv.putBody {s : State} (h : MemInv s) (x : BitVec 8) (b : Body) : MemInv (s.putBody x b) :=
  MemInv.writeRun (h.mapRange _ _ _ _ _) _ _ _

/-- R322: the pages of a body are released. -/
theorem MemInv.dropBody {s : State} (h : MemInv s) (x : BitVec 8) (b : Body) : MemInv (s.dropBody x b) := h.unmapRange _ _ _

/-- R252: a tile's image is written. -/
theorem MemInv.storeTile {s : State} (h : MemInv s) (c k : Nat) (va : Word) (pages : List Loc) (cluster tile : Nat) :
    MemInv (s.storeTile c k va pages cluster tile) := by
  have put : ∀ (t : State) (o : Nat) (v : Word), MemInv t →
      MemInv (if (imageAt va pages o).2.ty = .sync
        then (t.agentWrite (some (c, k)) (s.cipherKey c) (imageAt va pages o).1 8 v).setWordFull (imageAt va pages o).1 true
        else t.agentWrite (some (c, k)) (s.cipherKey c) (imageAt va pages o).1 8 v) :=
    fun _ _ _ ht => MemInv.ite ((ht.agentWrite _ _ _ _ _).setWordFull _ _) (ht.agentWrite _ _ _ _ _)
  unfold State.storeTile
  exact foldl_keeps MemInv _ (fun _ _ ht => put _ _ _ ht) _ _ (foldl_keeps MemInv _ (fun _ _ ht => put _ _ _ ht) _ _ h)

/-- R338: the bytes of a segment are written. -/
theorem MemInv.writePages {s : State} (h : MemInv s) (va : Word) (pages : List (Word × Loc)) (l : List Byte) : MemInv (s.writePages va pages l) :=
  foldl_keeps MemInv _ (fun _ _ ht => ht.agentWriteBytes _ _ _) _ _ h

/-- R338: local memory of a segment that opens. -/
theorem MemInv.open2 {s : State} (h : MemInv s) (c : Nat) (hd : SegHdr) (p : List Byte) : MemInv (s.open2 c hd p) :=
  foldl_keeps MemInv _ (fun _ _ ht => ht.agentWrite _ _ _ _ _) _ _ h

/-- R256: the ring of an event queue is emptied. -/
theorem MemInv.enableEvq {s : State} (h : MemInv s) (tenant q : Nat) (w : Word) : MemInv (s.enableEvq tenant q w) :=
  MemInv.modPkg (foldl_keeps MemInv _ (fun _ _ ht => (ht.agentWrite _ _ _ _ _).setWordFull _ _) _ _ h) _

/-- R320: an image is placed in local memory. -/
theorem MemInv.placeLocal {s t : State} (h : MemInv s) {tenant : BitVec 8} {core off : Nat} {l : List Byte}
    (e : s.placeLocal tenant core off l = some t) : MemInv t := by
  unfold State.placeLocal at e
  dsimp only at e
  split at e
  · cases e
  · cases e
    exact foldl_keeps MemInv _ (fun _ _ ht => ht.setWordFull _ _) _ _ (h.agentWriteBytes _ _ _)

/-- R320: an image is placed at translated addresses. -/
theorem MemInv.placeAt {s t : State} (h : MemInv s) {tenant : BitVec 8} {va : Word} {l : List Byte} (e : s.placeAt tenant va l = some t) :
    MemInv t := by
  unfold State.placeAt at e
  dsimp only at e
  split at e
  · cases e
    exact foldl_keeps MemInv _ (fun _ _ ht => ht.setWordFull _ _) _ _
      (MemInv.writeRun (foldl_keeps MemInv _ (fun _ p ht => ht.collapse p) _ _ h) _ _ _)
  · cases e

/-- The word that is placed for the next fetch. -/
theorem MemInv.withFetchWord {s : State} (h : MemInv s) (n w : Nat) : MemInv (s.withFetchWord n w) := by
  unfold State.withFetchWord
  dsimp only
  refine MemInv.of_mem (s := State.rawWrite _ _ 4 w) (MemInv.rawWrite 4 _ _ ?_) rfl
  exact h.of_mem rfl

end Sys2Proof.Machine
end

