-- ==== Sys2Proof/Laws/Park.lean ====
section
/-!
SUPPORT. Parked instructions that complete: what going on, and a result, leave.
-/

namespace Sys2Proof.Machine

open Sys2Proof

theorem Slot.wakeNext_setReg (x : Slot) (d : Reg) (v : Word) : (x.setReg d v).wakeNext = (x.wakeNext).setReg d v := by
  unfold Slot.wakeNext Slot.setReg
  by_cases h : d = 0
  · rw [if_pos h, if_pos h]
  · rw [if_neg h, if_neg h]
    have h1 : ∀ (y : Slot) (a : Vector Word 16) (b c : BitVec 16),
        ({ y with g := a, full := b, badG := c } : Slot).advance = { y.advance with g := a, full := b, badG := c } := by
      intro y a b c
      rw [Slot.advance_pcsw, Slot.advance_pcsw y]
      have := Slot.advance_congr (x := { y with g := a, full := b, badG := c }) (y := y) rfl rfl
      rw [this.1, this.2]
    have h2 : ∀ (y : Slot) (a : Vector Word 16) (b c : BitVec 16),
        ({ y with g := a, full := b, badG := c } : Slot).wake = { y.wake with g := a, full := b, badG := c } := by
      intro y a b c
      unfold Slot.wake
      have : ({ y with g := a, full := b, badG := c } : Slot).park = y.park := rfl
      rw [this]
      by_cases e : (y.pend.translating && y.park = 6) = true
      · simp only [e, if_true]
      · simp only [e]; rfl
    rw [h2, h1]
    have e1 : x.wake.advance.g = x.g := by simp
    have e2 : x.wake.advance.full = x.full := by simp
    have e3 : x.wake.advance.badG = x.badG := by rw [Slot.advance_pcsw]; unfold Slot.wake; split <;> rfl
    rw [e1, e2, e3]

/-- A parked instruction that completes without a result. -/
theorem State.goOn_resumed (s : State) (c k : Nat) : Resumed s (s.goOn c k) c k := by
  unfold State.goOn
  have hsl : ∀ c' k', (if (s.slot c k).popDue = true then s.chainPop c k else s).slot c' k' = s.slot c' k' := by
    intro c' k'; split <;> rfl
  have hco : ∀ c' k', (if (s.slot c k).popDue = true then s.chainPop c k else s).chainOut c' k' =
      if (s.slot c k).popDue = true ∧ c' = upstream c ∧ k' = k then (s.chainOut c' k').tail else s.chainOut c' k' := by
    intro c' k'
    by_cases h : (s.slot c k).popDue = true
    · rw [if_pos h, State.chainPop, State.chainOut_setChain]
      by_cases g : c' = upstream c ∧ k' = k
      · rw [if_pos g, if_pos ⟨h, g⟩, g.1, g.2]
      · rw [if_neg g, if_neg (fun e => g e.2)]
    · rw [if_neg h, if_neg (fun e => h e.1)]
  have hsh : SameButChains s (if (s.slot c k).popDue = true then s.chainPop c k else s) := by
    split
    · exact SameButChains.setChain ..
    · exact SameButChains.refl s
  have hla : ∀ c', ((if (s.slot c k).popDue = true then s.chainPop c k else s).core c').latch = (s.core c').latch := by
    intro c'; split
    · unfold State.chainPop; rw [State.core_setChain]
    · rfl
  refine ⟨?_, ?_, ?_, ?_, ?_⟩
  · unfold State.modSlot
    rw [State.slot_setSlot_self, hsl]
  · intro c' k'; exact hco c' k'
  · intro c' k' h
    unfold State.modSlot
    rw [State.slot_setSlot_key _ _ _ h, hsl]
  · exact hsh.trans ⟨rfl, fun _ => rfl⟩
  · intro c'; exact hla c'

/-- A parked instruction that completes with a result. -/
theorem State.answer_answered (s : State) (c k : Nat) (d : Reg) (v : Word) : Answered s (s.answer c k d v) c k d v := by
  unfold State.answer
  have hr := (s.result c k d v).goOn_resumed c k
  have hc : (d = 14 && s.chained c k) = true ↔ (d = 14 ∧ s.chained c k = true) := by simp
  have key : 16 * downstream c + k ≠ 16 * c + k := by have := downstream_ne c; omega
  by_cases h : d = 14 ∧ s.chained c k = true
  · have hres : s.result c k d v = s.chainPush c k v s.now := by unfold State.result; rw [if_pos (hc.2 h)]
    rw [hres] at hr ⊢
    have hme : (s.chainPush c k v s.now).slot c k = s.slot c k :=
      State.slot_chainPush _ _ _ _ _ (fun g => by have := g.2; unfold slotKey at this; omega)
    refine ⟨?_, ?_, ?_, ?_, ?_⟩
    · rw [hr.slot, hme, if_pos h]
    · intro c' k'
      rw [hr.queue, hme, State.chainOut_chainPush]
      by_cases g : (s.slot c k).popDue = true ∧ c' = upstream c ∧ k' = k
      · have : ¬(c' = c ∧ k' = k) := fun e => upstream_ne c (by rw [← g.2.1, e.1])
        rw [if_pos g, if_pos g, if_neg this]
      · rw [if_neg g, if_neg g]
        by_cases e : c' = c ∧ k' = k
        · rw [if_pos e, if_pos ⟨h, e⟩, e.1]
        · rw [if_neg e, if_neg (fun x => e x.2)]
    · intro c' k' n1 n2
      rw [hr.slots c' k' n1, State.slot_chainPush _ _ _ _ _ (fun e => n2 ⟨h, e.2⟩)]
    · exact (SameButChains.chainPush ..).trans hr.parts
    · intro c' hc'
      rw [hr.latch, State.latch_chainPush _ _ _ _ _ (by tauto)]
  · have hres : s.result c k d v = s.modSlot c k (·.setReg d v) := by unfold State.result; rw [if_neg (fun e => h (hc.1 e))]
    rw [hres] at hr ⊢
    have hme : (s.modSlot c k (·.setReg d v)).slot c k = (s.slot c k).setReg d v := State.slot_setSlot_self ..
    have hpop : ((s.slot c k).setReg d v).popDue = (s.slot c k).popDue := by unfold Slot.setReg; split <;> rfl
    refine ⟨?_, ?_, ?_, ?_, ?_⟩
    · rw [hr.slot, hme, if_neg h]
    · intro c' k'
      rw [hr.queue, hme, hpop]
      have : ¬((d = 14 ∧ s.chained c k = true) ∧ c' = c ∧ k' = k) := fun x => h x.1
      rw [if_neg this]; rfl
    · intro c' k' n1 _
      rw [hr.slots c' k' n1]; exact State.slot_setSlot_key _ _ _ n1
    · have h0 : SameButChains s (s.modSlot c k (·.setReg d v)) := ⟨rfl, fun _ => rfl⟩
      exact h0.trans hr.parts
    · intro c' _; rw [hr.latch]; rfl

end Sys2Proof.Machine
end

