-- ==== Sys2Proof/Laws/Vector.lean ====
section
/-!
SUPPORT. The vector file: what a lane reads after a write, and what a vector instruction leaves.
-/

namespace Sys2Proof.Machine

open Sys2Proof

theorem Core.lane_setLanes (l : List Lane) : ∀ (x : Core) (r j n : Nat), n < 32 → j + l.length ≤ 32 →
    ∀ q, (x.setLanes r j l).lane q n = if q = r ∧ j ≤ n ∧ n < j + l.length then l.getD (n - j) 0 else x.lane q n := by
  induction l with
  | nil =>
    intro x r j n _ _ q
    have : ¬(q = r ∧ j ≤ n ∧ n < j + ([] : List Lane).length) := by rintro ⟨-, a, b⟩; simp at b; omega
    rw [if_neg this]; rfl
  | cons v t ih =>
    intro x r j n hn hl q
    simp only [List.length_cons] at hl
    rw [Core.setLanes, ih _ r (j + 1) n hn (by omega)]
    have hlane : ({ x with vf := Tab.set 0 x.vf (32 * r + j) v } : Core).lane q n = if q = r ∧ n = j then v else x.lane q n := by
      unfold Core.lane
      rw [Tab.get_set]
      have : (32 * q + n = 32 * r + j) ↔ (q = r ∧ n = j) := by omega
      simp only [this]
    rw [hlane]
    simp only [List.length_cons]
    by_cases hq : q = r
    · subst hq
      by_cases h1 : n = j
      · subst h1
        simp
      · by_cases h2 : j + 1 ≤ n ∧ n < j + 1 + t.length
        · have h3 : n - j = (n - (j + 1)) + 1 := by omega
          have h4 : j ≤ n ∧ n < j + (t.length + 1) := by omega
          simp [h2, h4, h3]
        · have h4 : ¬(j ≤ n ∧ n < j + (t.length + 1)) := by omega
          rw [if_neg (fun e => h2 e.2), if_neg (fun e => h1 e.2), if_neg (fun e => h4 e.2)]
    · simp [hq]

theorem Core.setLanes_shape (l : List Lane) : ∀ (x : Core) (r j : Nat), x.setLanes r j l = { x with vf := (x.setLanes r j l).vf } := by
  induction l with
  | nil => intro x r j; rfl
  | cons v t ih => intro x r j; rw [Core.setLanes, ih]

/-- What writing a window register leaves of its core. -/
theorem State.core_setVreg (s : State) (d : VReg) (whole : Bool) (l : List Lane) (c : Nat) :
    (s.setVreg d whole l).core c =
      if c = s.curCore then
        { s.core c with
          vf := ((s.core s.curCore).setLanes (s.fileReg d) 0 l).vf
          badV := if whole then (s.core c).badV.filter (fun n => n != s.fileReg d) else (s.core c).badV }
      else s.core c := by
  unfold State.setVreg
  rw [State.core_modCore]
  split
  · rename_i h
    subst h
    rw [Core.setLanes_shape]
    cases whole <;> simp
  · rfl

/-- A vector instruction: lanes written, flags set, operands taken, next word. -/
theorem State.vec_wrote (s : State) (srcs : List Reg) (d : VReg) (whole : Bool) (l : List Lane) (lanes : Nat → Option Lane) (fl : BitVec 5)
    (hlen : l.length = 32)
    (hl : ∀ n < 32, l.getD n 0 = (lanes n).getD ((s.core s.curCore).lane (s.fileReg d) n))
    (hw : whole = true ↔ ∀ n < 32, (lanes n).isSome = true) :
    VWrote s ((((s.setVreg d whole l).modMe (·.orFst fl)).take srcs).advance) srcs d lanes fl := by
  have hpop : ((s.setVreg d whole l).modMe (·.orFst fl)).pops srcs = s.pops srcs := by
    rw [State.pops_modMe (hf := rfl)]; rfl
  have hcore : ∀ c, c ≠ upstream s.curCore ∨ True →
      ((((s.setVreg d whole l).modMe (·.orFst fl)).take srcs).advance).core c =
        { (s.setVreg d whole l).core c with
          chq := (((((s.setVreg d whole l).modMe (·.orFst fl)).take srcs).advance).core c).chq } := by
    intro c _
    have := (State.take_shape ((s.setVreg d whole l).modMe (·.orFst fl)) srcs).2 c
    simp only [State.advance, State.core_modMe] at this ⊢
    conv_lhs => rw [this]
    have hlat := State.latch_take ((s.setVreg d whole l).modMe (·.orFst fl)) srcs c
    rw [hlat]; simp
  have hchq : ((((s.setVreg d whole l).modMe (·.orFst fl)).take srcs).advance).core s.curCore = (s.setVreg d whole l).core s.curCore := by
    simp only [State.advance, State.core_modMe]
    unfold State.take
    split
    · unfold State.chainPop State.setChain
      rw [State.core_modCore, if_neg]
      · rfl
      · exact fun e => upstream_ne s.curCore e.symm
    · rfl
  have hme : ((((s.setVreg d whole l).modMe (·.orFst fl)).take srcs).advance).me = { s.me.advance with fst := s.me.fst ||| fl.zeroExtend 64 } := by
    rw [State.advance_me, State.take_me, State.me_modMe]
    have : (s.setVreg d whole l).me = s.me := rfl
    rw [this, Slot.advance_pcsw, Slot.advance_pcsw s.me]
    have hadv := Slot.advance_congr (x := s.me.orFst fl) (y := s.me) rfl rfl
    rw [hadv.1, hadv.2]; rfl
  refine ⟨?_, ?_, ?_, hme, ?_, ?_, ?_, ?_, ?_⟩
  · intro n hn
    rw [hchq, State.core_setVreg, if_pos rfl]
    have := Core.lane_setLanes l (s.core s.curCore) (s.fileReg d) 0 n hn (by omega) (s.fileReg d)
    rw [if_pos ⟨rfl, Nat.zero_le _, by omega⟩, Nat.sub_zero] at this
    rw [← hl n hn, ← this]; rfl
  · intro r n hn hr
    rw [hchq, State.core_setVreg, if_pos rfl]
    have := Core.lane_setLanes l (s.core s.curCore) (s.fileReg d) 0 n hn (by omega) r
    rw [if_neg (fun h => hr h.1)] at this
    rw [← this]; rfl
  · intro r
    rw [hchq, State.core_setVreg, if_pos rfl, ← hw]
    cases whole <;> simp
  · intro c k
    have := State.take_popped ((s.setVreg d whole l).modMe (·.orFst fl)) srcs c k
    rw [hpop] at this
    have hco : ((s.setVreg d whole l).modMe (·.orFst fl)).chainOut c k = s.chainOut c k := by
      rw [State.chainOut_modMe]; unfold State.chainOut; rw [State.core_setVreg]; split
      · rename_i h; subst h; rfl
      · rfl
    rw [hco] at this
    exact this
  · intro c k o
    rw [State.advance, State.slot_modMe_other, State.slot_take, State.slot_modMe_other]
    · rfl
    · exact o
    · rw [State.other, State.take_curCore, State.take_curSlot]; exact o
  · rw [hchq, State.core_setVreg, if_pos rfl]
  · intro c hc
    rw [hcore c (.inr trivial), State.core_setVreg, if_neg hc]
  · have := (State.take_shape ((s.setVreg d whole l).modMe (·.orFst fl)) srcs).1
    rw [State.advance, State.modMe]
    rw [this]; rfl

/-- Only the lanes of a register matter. -/
theorem VWrote.congr {s t : State} {srcs : List Reg} {d : VReg} {l l' : Nat → Option Lane} {fl : BitVec 5}
    (h : VWrote s t srcs d l fl) (e : ∀ n < 32, l' n = l n) : VWrote s t srcs d l' fl := by
  refine ⟨fun n hn => by rw [e n hn]; exact h.lane n hn, h.file, fun r => ?_, h.me, h.queue, h.slots, h.core, h.cores, h.parts⟩
  rw [h.bad r]
  have : (∀ n < 32, (l' n).isSome = true) ↔ (∀ n < 32, (l n).isSome = true) :=
    ⟨fun g n hn => by rw [← e n hn]; exact g n hn, fun g n hn => by rw [e n hn]; exact g n hn⟩
  rw [this]

/-! ## Masks and element operations -/

theorem State.mask_testBit (s : State) (m : Reg) {j : Nat} (h : j < 32) :
    (s.mask m).testBit j = (decide (m = 0) || (s.src m).getLsbD j) := by
  unfold State.mask lo32
  split
  · rename_i hm; rw [Nat.testBit_two_pow_sub_one]; simp [hm, h]
  · rename_i hm
    rw [Nat.testBit_mod_two_pow, decide_eq_false hm]
    simp [h, BitVec.testBit_toNat]

theorem vreg_getD (s : State) (r : VReg) {n : Nat} (h : n < 32) :
    (s.vreg r).getD n 0 = (s.core s.curCore).lane (s.fileReg r) n := by
  unfold State.vreg
  simp [List.getD, h]

@[simp] theorem onMask_length {α : Type} (mask n : Nat) (f : Nat → α) : (onMask mask n f).length = n := by simp [onMask]

theorem onMask_getD {α : Type} (mask n : Nat) (f : Nat → α) {j : Nat} (h : j < n) :
    (onMask mask n f).getD j none = if mask.testBit j then some (f j) else none := by
  unfold onMask; simp [List.getD, h]

theorem onMask_all {α : Type} (mask n : Nat) (f : Nat → α) :
    (onMask mask n f).all Option.isSome = true ↔ ∀ j < n, mask.testBit j = true := by
  unfold onMask
  simp only [List.all_map, List.all_eq_true, List.mem_range, Function.comp]
  constructor
  · intro h j hj; have := h j hj; by_cases g : mask.testBit j <;> simp_all
  · intro h j hj; simp [h j hj]

theorem flagsOf_foldl (l : List (Option (Nat × Fl))) (a : Fl) (i : Nat) :
    (l.foldl (fun a r => match r with | some x => a ||| x.2 | none => a) a).getLsbD i = true ↔
      a.getLsbD i = true ∨ ∃ x, some x ∈ l ∧ x.2.getLsbD i = true := by
  induction l generalizing a with
  | nil => simp
  | cons r t ih =>
    rw [List.foldl_cons, ih]
    cases r with
    | none => simp
    | some x =>
      simp only [BitVec.getLsbD_or, Bool.or_eq_true, List.mem_cons, Option.some.injEq]
      constructor
      · rintro ((h | h) | ⟨y, hy, h⟩)
        · exact .inl h
        · exact .inr ⟨x, .inl rfl, h⟩
        · exact .inr ⟨y, .inr hy, h⟩
      · rintro (h | ⟨y, (rfl | hy), h⟩)
        · exact .inl (.inl h)
        · exact .inl (.inr h)
        · exact .inr ⟨y, hy, h⟩

/-- The union of flags has the flags of the enabled elements (R94). -/
theorem flagsOf_onMask (mask n : Nat) (f : Nat → Nat × Fl) (i : Nat) :
    (flagsOf (onMask mask n f)).getLsbD i = true ↔ ∃ j < n, mask.testBit j = true ∧ (f j).2.getLsbD i = true := by
  refine (flagsOf_foldl (onMask mask n f) 0 i).trans ?_
  simp only [onMask, List.mem_map, List.mem_range]
  constructor
  · rintro (h | ⟨x, ⟨j, hj, e⟩, h⟩)
    · simp at h
    · by_cases g : mask.testBit j = true
      · simp only [g, if_true, Option.some.injEq] at e; exact ⟨j, hj, g, by rw [e]; exact h⟩
      · simp [g] at e
  · rintro ⟨j, hj, g, h⟩
    exact .inr ⟨f j, ⟨j, hj, by simp [g]⟩, h⟩

theorem valsOf_onMask (mask n : Nat) (f : Nat → Nat × Fl) : valsOf (onMask mask n f) = onMask mask n (fun j => (f j).1) := by
  unfold valsOf onMask
  simp only [List.map_map]
  apply List.map_congr_left
  intro j _
  by_cases g : mask.testBit j = true <;> simp [g]

@[simp] theorem mergeElems_length (ty : ETy) (old : List Lane) (res : List (Option Nat)) : (mergeElems ty old res).length = 32 := by
  simp [mergeElems]

theorem mergeElems_getD (ty : ETy) (old : List Lane) (res : List (Option Nat)) {n : Nat} (h : n < 32) :
    (mergeElems ty old res).getD n 0 =
      match res.getD (if ty = .i64 then n / 2 else n) none with
      | some v => elemLane ty v n
      | none => old.getD n 0 := by
  unfold mergeElems; simp [List.getD, h] <;> rfl

theorem ETy.count_cases (ty : ETy) : (ty = .i64 ∧ ty.count = 16) ∨ (ty ≠ .i64 ∧ ty.count = 32) := by
  unfold ETy.count; by_cases h : ty = .i64 <;> simp [h]

theorem ETy.index_lt (ty : ETy) {n : Nat} (h : n < 32) : (if ty = .i64 then n / 2 else n) < ty.count := by
  obtain ⟨g, e⟩ | ⟨g, e⟩ := ty.count_cases
  · rw [if_pos g, e]; omega
  · rw [if_neg g, e]; exact h

/-- An element operation: what it leaves. -/
theorem State.elemwise_wrote (s : State) (ty : ETy) (d : VReg) (m : Reg) (f : Nat → Nat × Fl) :
    VWrote s (s.elemwise ty d m f) (maskSrc m) d
      (fun n => if (s.mask m).testBit (if ty = .i64 then n / 2 else n) then some (elemLane ty (f (if ty = .i64 then n / 2 else n)).1 n) else none)
      (flagsOf (onMask (s.mask m) ty.count f)) := by
  unfold State.elemwise
  refine State.vec_wrote s (maskSrc m) d _ _ _ _ (mergeElems_length ..) ?_ ?_
  · intro n hn
    rw [mergeElems_getD _ _ _ hn, valsOf_onMask, onMask_getD, vreg_getD s d hn]
    · by_cases g : (s.mask m).testBit (if ty = .i64 then n / 2 else n) = true <;> simp [g]
    · exact ty.index_lt hn
  · rw [onMask_all]
    constructor
    · intro h n hn
      have : (s.mask m).testBit (if ty = .i64 then n / 2 else n) = true := by
        apply h
        exact ty.index_lt hn
      simp [this]
    · intro h j hj
      obtain ⟨g, e⟩ | ⟨g, e⟩ := ty.count_cases
      · have := h (2 * j) (by omega)
        simp only [g, if_true, show 2 * j / 2 = j by omega] at this
        by_contra hc; simp [hc] at this
      · have := h j (by omega)
        simp only [g, if_false] at this
        by_contra hc; simp [hc] at this

end Sys2Proof.Machine
end

