-- ==== Sys2Proof/Tests/Slice0.lean ====
section
/-!
SUPPORT. The model's own tests: ill-formed terms, words written out bit by bit, single steps with results from the spec's tables and examples,
and for every statement a state and operands that meet its hypotheses.
-/

set_option Elab.async false

namespace Sys2Proof.Tests

open Sys2Proof Sys2Proof.Machine Sys2Proof.Claims

/-! ## Ill-formed terms, one for each check -/

theorem test_wf_bfx : (Instr.bfx 1 2 63 1).wf = false := by decide
theorem test_wf_bfi : (Instr.bfi 1 2 1 63).wf = false := by decide
theorem test_wf_br : (Instr.br 1 6 0).wf = false := by decide
theorem test_wf_skip : (Instr.skip 1 6 1).wf = false ∧ (Instr.skip 1 7 1).wf = false ∧ (Instr.skip 1 0 0).wf = false := by decide
theorem test_wf_ld : (Instr.ld 1 2 0 5 0 0).wf = false ∧ (Instr.ld 1 2 0 0 2 0).wf = false := by decide
theorem test_wf_ldS : (Instr.ldS 1 2 3 0 0 0).wf = false ∧ (Instr.ldS 1 2 0 5 0 0).wf = false ∧ (Instr.ldS 1 2 0 0 3 0).wf = false := by decide
theorem test_wf_st : (Instr.st 1 2 0 5 0 0).wf = false ∧ (Instr.st 1 2 0 0 1 0).wf = false := by decide
theorem test_wf_ldx_ldc_stf : (Instr.ldx 1 2 5 0 0).wf = false ∧ (Instr.ldx 1 2 0 2 0).wf = false ∧ (Instr.ldc 1 2 6 0 0).wf = false ∧
    (Instr.ldc 1 2 0 3 0).wf = false ∧ (Instr.stf 1 2 7 0 0).wf = false ∧ (Instr.stf 1 2 0 1 0).wf = false := by decide
theorem test_wf_atomics : (Instr.amoAdd 1 2 3 0 5 0).wf = false ∧ (Instr.amoSwap 1 2 3 0 7 0).wf = false ∧ (Instr.cas 1 2 3 4 1 5 0).wf = false ∧
    (Instr.ldres 1 2 0 5 0).wf = false ∧ (Instr.ldres 1 2 0 0 2).wf = false ∧ (Instr.stcnd 1 2 3 0 5 0).wf = false ∧
    (Instr.stcnd 1 2 3 0 0 1).wf = false := by decide
theorem test_wf_amo_rest : (Instr.amoAnd 1 2 3 0 5 0).wf = false ∧ (Instr.amoOr 1 2 3 0 5 0).wf = false ∧ (Instr.amoXor 1 2 3 0 5 0).wf = false ∧
    (Instr.amoMin 1 2 3 0 5 0).wf = false ∧ (Instr.amoMax 1 2 3 0 5 0).wf = false ∧ (Instr.amoMinz 1 2 3 0 5 0).wf = false ∧
    (Instr.amoMaxz 1 2 3 0 5 0).wf = false := by decide
theorem test_wf_sync : (Instr.fence 5).wf = false ∧ (Instr.wrs 1 5).wf = false ∧ (Instr.barm 1 2 3 5).wf = false := by decide
theorem test_wf_floats : (Instr.vaddF 3 1 2 3 0).wf = false ∧ (Instr.vsubF 3 1 2 3 0).wf = false ∧ (Instr.vmulF 3 1 2 3 0).wf = false ∧
    (Instr.vminF 3 1 2 3 0).wf = false ∧ (Instr.vmaxF 3 1 2 3 0).wf = false ∧ (Instr.vfma 3 1 2 3 0).wf = false := by decide
theorem test_wf_floats_unary : (Instr.vabs 3 1 2 0).wf = false ∧ (Instr.vneg 3 1 2 0).wf = false ∧ (Instr.vexp2 3 1 2 0).wf = false ∧
    (Instr.vlog2 3 1 2 0).wf = false ∧ (Instr.vrcp 3 1 2 0).wf = false ∧ (Instr.vrsq 3 1 2 0).wf = false ∧ (Instr.vredF 3 1 2 0).wf = false := by decide
theorem test_wf_float_compares : (Instr.vceqF 3 1 2 3 0).wf = false ∧ (Instr.vcltF 3 1 2 3 0).wf = false ∧ (Instr.vcle 3 1 2 3 0).wf = false := by
  decide
theorem test_wf_vcvt : (Instr.vcvt 1 2 0 0 10 0 4).wf = false ∧ (Instr.vcvt 1 2 0 0 4 0 15).wf = false ∧ (Instr.vcvt 1 2 0 0 4 0 4).wf = false := by
  decide
theorem test_wf_cpq : (Instr.cpq 1 2 3 6).wf = false := by decide
theorem test_wf_bar : (Instr.bar 1 0).wf = false ∧ (Instr.bar 4 1).wf = false ∧ (Instr.bar 8 3).wf = false ∧ (Instr.bar 0 6).wf = false := by decide
theorem test_wf_tnow : (Instr.tnow 3 3).wf = false ∧ (Instr.tnow 0 0).wf = true := by decide
theorem test_wf_kregs : (Instr.movk 1 42).wf = false ∧ (Instr.kmov 1 511).wf = false := by decide
theorem test_wf_refld : (Instr.refldBase 1 2 11).wf = false ∧ (Instr.refldShape 1 2 15).wf = false := by decide

/-! ## Words from the spec's encoding tables and examples -/

-- 0x01 | d 0101 | a 0001 | b 1001 | c 0000 | fn 0000000000 (the example after R59)
theorem test_word_add : decode (0b000001#6 ++ 0b0101#4 ++ 0b0001#4 ++ 0b1001#4 ++ 0b0000#4 ++ 0b0000000000#10) = .ok (.add 5 1 9) := by rfl
theorem test_word_add_hex : decode 0x05464000#32 = .ok (.add 5 1 9) := by rfl
theorem test_word_repf : decode 0x50084400#32 = .ok (.repf 0 2 1 1 0) := by rfl
theorem test_word_nop : decode 0xF0000005#32 = .ok .nop := by rfl
theorem test_word_kmov : decode 0xF408020E#32 = .ok (.kmov 2 14) := by rfl
theorem test_word_movk : decode 0xF4C00013#32 = .ok (.movk 3 19) := by rfl
theorem test_word_addi : decode 0x08CC0004#32 = .ok (.addi 3 3 4) := by rfl
theorem test_word_eret : decode 0xF0000003#32 = .ok .eret := by rfl
theorem test_word_trap : decode 0xF0000001#32 = .ok .trap := by rfl
theorem test_word_ldc : decode 0x71470000#32 = .ok (.ldc 5 1 0 0 0) := by rfl
theorem test_word_st : decode 0x69470001#32 = .ok (.st 5 1 3 0 0 1) := by rfl
theorem test_word_vdot : decode 0xA8404260#32 = .ok (.vdotL6l6 4 1 2 6 0) := by rfl
theorem test_word_mxq : decode (0b110000#6 ++ 0b0101#4 ++ 0b0010#4 ++ 0b0011#4 ++ 0b0000#4 ++ 0b0000000001#10) = .ok (.mxq 5 2 3 1) := by rfl
theorem test_word_xcfg : decode (0b110101#6 ++ 0b0000#4 ++ 0b0010#4 ++ 0b0011#4 ++ 0b0000#4 ++ 0b0000000010#10) = .ok (.xcfg 2 3) := by rfl
theorem test_word_rput : decode (0b111000#6 ++ 0b0101#4 ++ 0b0010#4 ++ 0b0011#4 ++ 0b0000#4 ++ 0b0000000100#10) = .ok (.rput 5 2 3) := by rfl
theorem test_word_sbar : decode (0b111011#6 ++ 0b0101#4 ++ 0b0000#4 ++ 0b0000#4 ++ 0b0000#4 ++ 0b1111110100#10) = .ok (.sbar 5 63) := by rfl
theorem test_word_seal : decode (0b111110#6 ++ 0b0001#4 ++ 0b0010#4 ++ 0b0110#4 ++ 0b0000#4 ++ 0b0000000011#10) = .ok (.seal 1 2 6) := by rfl
theorem test_word_fence : decode (0b011111#6 ++ 0#4 ++ 0#4 ++ 0#4 ++ 0#4 ++ 0b0000011000#10) = .ok (.fence 3) := by rfl
theorem test_word_elements : decode (fmtV 0x20 1 2 3 4 1) = .ok (.vsubI 0 1 2 3 4) ∧ decode (fmtV 0x21 1 2 3 4 3) = .ok (.vminI 1 1 2 3 4) ∧
    decode (fmtV 0x22 1 2 3 4 0) = .ok (.vaddI 2 1 2 3 4) ∧ decode (fmtV 0x23 63 62 61 15 4) = .ok (.vmaxI 3 63 62 61 15) ∧
    decode (fmtV 0x24 1 2 3 0 5) = .ok (.vfma 0 1 2 3 0) ∧ decode (fmtV 0x25 1 2 3 4 2) = .ok (.vmulF 1 1 2 3 4) ∧
    decode (fmtV 0x26 1 2 3 4 4) = .ok (.vmaxF 2 1 2 3 4) := ⟨rfl, rfl, rfl, rfl, rfl, rfl, rfl⟩
theorem test_word_lanes : decode (fmtV 0x27 3 0 4 5 6) = .ok (.vshuf 3 0 4 5) ∧ decode (fmtV 0x28 2 3 (1#1 ++ 0#1 ++ 4#4) 0 9) = .ok (.vcvt 2 3 1 0 4 0 9) ∧
    decode (fmtV 0x29 1 (0#2 ++ 4#4) 0 5 0) = .ok (.vld 1 4 5) ∧ decode (fmtV 0x2F 4 1 2 0 9) = .ok (.vdotI8i8 4 1 2 0 9) := ⟨rfl, rfl, rfl, rfl⟩
theorem test_word_units : decode (fmtA 0x31 0 2 3 0 5) = .ok (.accst 2 3 1) ∧ decode (fmtA 0x32 5 2 3 0 0) = .ok (.cpq 5 2 3 0) ∧
    decode (fmtA 0x33 5 2 0 0 1) = .ok (.jpoll 5 2) ∧ decode (fmtA 0x34 0 2 3 0 0) = .ok (.scls 2 3) ∧ decode (fmtA 0x38 0 2 3 4 1) = .ok (.spawnq 2 3 4) ∧
    decode (fmtA 0x39 0 0 0 0 (0#1 ++ 3#6 ++ 3#3)) = .ok (.bar 3 3) ∧ decode (fmtA 0x3B 5 2 3 4 3) = .ok (.scas 5 2 3 4) ∧
    decode (fmtA 0x3E 5 2 0 10 0) = .ok (.refldBase 5 2 10) := ⟨rfl, rfl, rfl, rfl, rfl, rfl, rfl, rfl⟩
theorem test_word_scalars : decode (fmtI 0x08 3 4 (0#6 ++ 8#6 ++ 15#6)) = .ok (.bfx 3 4 8 15) ∧ decode (fmtU 0x0A 1 0x3FFFFF) = .ok (.lui 1 0x3FFFFF) ∧
    decode (fmtA 0x0C 4 5 6 7 0x003) = .ok (.ffma 4 5 6 7) ∧ decode (fmtB 0x10 2 0 7) = .ok (.br 2 0 7) ∧
    decode (fmtA 0x1E 5 2 6 7 (9#4 ++ 1#1 ++ 2#3 ++ 0#2)) = .ok (.cas 5 2 6 7 1 2 0) := ⟨rfl, rfl, rfl, rfl, rfl⟩
theorem test_word_rejected : (decode 0#32).toOption = none ∧ (decode 0x05464400#32).toOption = none ∧ (decode 0xFFFFFFFF#32).toOption = none := by
  decide
theorem test_table_word : decodeTableWord 32 0x05464000 = some (.add 5 1 9) := by rfl

/-! ## Small states -/

/-- What an instruction leaves. -/
def ran (i : Instr) (s : State) : State := match exec i s with
  | .next t => t
  | _ => s
/-- The machine n clk later, with nothing else changed. -/
def later (n : Nat) (s : State) : State := { s with now := s.now + n }
/-- The first store of slot 0 of core 0 leaves its buffer, 12 clk later. -/
def drained (s : State) : State := ran (.storeBufferDrain 0 0) (later 12 s)

/-- Slot 0 of core c is READY at 0x1000 with these registers full, on a machine that runs; its window is the first four granules. -/
def at_ (c : Nat) (regs : List (Reg × Word)) : State :=
  let x : Slot := { Slot.reset with st := .ready, pc := 0x1000, tenant := 1, sw := if c < 3072 then 0x4000000000 else 0x4000000004 }
  { State.reset with
    curCore := c
    pkg := { Pkg.reset with boot := .running }
    slots := [(16 * c, regs.foldl (fun y p => y.setReg p.1 p.2) x)] }

/-- The same on core 0. -/
def small (regs : List (Reg × Word)) : State := at_ 0 regs

/-- Lanes of window registers: (register, lane, value). -/
def withLanes (s : State) (l : List (Nat × Nat × Lane)) : State :=
  s.modCore s.curCore (fun x => { x with vf := l.foldl (fun f p => Tab.set 0 f (32 * p.1 + p.2.1) p.2.2) x.vf })

/-- The address of byte o of own local memory. -/
def loc (o : Nat) : Word := BitVec.ofNat 64 (0xFFFFFF0000000000 + o)
/-- The memory key of byte o of the local memory of core 0. -/
def key (o : Nat) : Nat := 2 ^ 56 + o

/-! ## Single steps: scalar instructions (Table 4.2 and hand calculation) -/

theorem test_add_wraps : (ran (.add 3 1 2) (small [(1, -1), (2, 2)])).me.reg 3 = 1 := by decide
theorem test_add_goes_on : (ran (.add 3 1 2) (small [(1, 1), (2, 2)])).me.pc = 0x1004 := by decide
theorem test_sub : (ran (.sub 1 1 2) (small [(1, 5), (2, 7)])).me.reg 1 = -2 := by decide
theorem test_and_or_xor : (ran (.and 3 1 2) (small [(1, 12), (2, 10)])).me.reg 3 = 8 ∧ (ran (.or 3 1 2) (small [(1, 12), (2, 10)])).me.reg 3 = 14 ∧
    (ran (.xor 3 1 2) (small [(1, 12), (2, 10)])).me.reg 3 = 6 := by decide
theorem test_sll_65 : (ran (.sll 3 1 2) (small [(1, 1), (2, 65)])).me.reg 3 = 2 := by decide
theorem test_srl : (ran (.srl 3 1 2) (small [(1, -1), (2, 63)])).me.reg 3 = 1 := by decide
theorem test_sra : (ran (.sra 3 1 2) (small [(1, -7), (2, 1)])).me.reg 3 = -4 := by decide
theorem test_rol_ror : (ran (.rol 3 1 2) (small [(1, 0x8000000000000001), (2, 1)])).me.reg 3 = 3 ∧
    (ran (.ror 3 1 2) (small [(1, 3), (2, 1)])).me.reg 3 = 0x8000000000000001 := by decide
theorem test_min_max : (ran (.min 3 1 2) (small [(1, -1), (2, 1)])).me.reg 3 = -1 ∧ (ran (.max 3 1 2) (small [(1, -1), (2, 1)])).me.reg 3 = 1 ∧
    (ran (.minz 3 1 2) (small [(1, -1), (2, 1)])).me.reg 3 = 1 ∧ (ran (.maxz 3 1 2) (small [(1, -1), (2, 1)])).me.reg 3 = -1 := by decide
theorem test_slt_sltz : (ran (.slt 3 1 2) (small [(1, -1), (2, 1)])).me.reg 3 = 1 ∧ (ran (.sltz 3 1 2) (small [(1, -1), (2, 1)])).me.reg 3 = 0 ∧
    (ran (.seq 3 1 2) (small [(1, 1), (2, 1)])).me.reg 3 = 1 := by decide
theorem test_sel : (ran (.sel 4 1 2 3) (small [(1, 10), (2, 20), (3, 0)])).me.reg 4 = 20 := by decide
theorem test_clz_ctz : (ran (.clz 2 1) (small [(1, 0)])).me.reg 2 = 64 ∧ (ran (.ctz 2 1) (small [(1, 0)])).me.reg 2 = 64 ∧
    (ran (.clz 2 1) (small [(1, 1)])).me.reg 2 = 63 ∧ (ran (.ctz 2 1) (small [(1, 8)])).me.reg 2 = 3 := by decide
theorem test_popc : (ran (.popc 2 1) (small [(1, -1)])).me.reg 2 = 64 := by decide
theorem test_sext : (ran (.sextB 2 1) (small [(1, 0x180)])).me.reg 2 = -128 ∧ (ran (.sextH 2 1) (small [(1, 0x8000)])).me.reg 2 = -32768 ∧
    (ran (.sextW 2 1) (small [(1, 0x80000000)])).me.reg 2 = 0xFFFFFFFF80000000 := by decide
theorem test_zext : (ran (.zextB 2 1) (small [(1, -1)])).me.reg 2 = 255 ∧ (ran (.zextH 2 1) (small [(1, -1)])).me.reg 2 = 65535 ∧
    (ran (.zextW 2 1) (small [(1, -1)])).me.reg 2 = 0xFFFFFFFF := by decide
theorem test_mul : (ran (.mul 3 1 2) (small [(1, 0x100000000), (2, 0x100000000)])).me.reg 3 = 0 ∧
    (ran (.mulh 3 1 2) (small [(1, -1), (2, -1)])).me.reg 3 = 0 ∧ (ran (.mulhz 3 1 2) (small [(1, -1), (2, -1)])).me.reg 3 = -2 := by decide
theorem test_mul_latency : (ran (.mul 3 1 2) (small [(1, 3), (2, 4)])).me.wbDue = 4 := by decide
theorem test_div_parks : (ran (.div 3 1 2) (small [(1, -7), (2, 2)])).me.park = 2 ∧ (ran (.div 3 1 2) (small [(1, -7), (2, 2)])).me.pc = 0x1000 := by
  decide
theorem test_div : (ran (.divisionComplete 0 0) (ran (.div 3 1 2) (small [(1, -7), (2, 2)]))).me.reg 3 = -3 ∧
    (ran (.divisionComplete 0 0) (ran (.div 3 1 2) (small [(1, 0x8000000000000000), (2, -1)]))).me.reg 3 = 0x8000000000000000 := by decide
theorem test_rem : (ran (.divisionComplete 0 0) (ran (.rem 3 1 2) (small [(1, -7), (2, 2)]))).me.reg 3 = -1 ∧
    (ran (.divisionComplete 0 0) (ran (.rem 3 1 2) (small [(1, 9), (2, 0)]))).me.reg 3 = 9 := by decide
theorem test_divz_remz : (ran (.divisionComplete 0 0) (ran (.divz 3 1 2) (small [(1, 7), (2, 0)]))).me.reg 3 = -1 ∧
    (ran (.divisionComplete 0 0) (ran (.remz 3 1 2) (small [(1, 7), (2, 4)]))).me.reg 3 = 3 := by decide
theorem test_addi : (ran (.addi 2 2 0x3FFFF) (small [(2, 0)])).me.reg 2 = -1 := by decide
theorem test_andi_sign_extends : (ran (.andi 1 1 0x3FFF8) (small [(1, -1)])).me.reg 1 = -8 := by decide
theorem test_ori_xori_slti : (ran (.ori 2 1 1) (small [(1, 6)])).me.reg 2 = 7 ∧ (ran (.xori 2 1 0x3FFFF) (small [(1, 0)])).me.reg 2 = -1 ∧
    (ran (.slti 2 1 0x3FFFF) (small [(1, -2)])).me.reg 2 = 1 := by decide
theorem test_shift_immediates : (ran (.slli 2 1 63) (small [(1, 1)])).me.reg 2 = 0x8000000000000000 ∧ (ran (.srli 2 1 63) (small [(1, -1)])).me.reg 2 = 1 ∧
    (ran (.srai 2 1 63) (small [(1, -1)])).me.reg 2 = -1 ∧ (ran (.rori 2 1 1) (small [(1, 1)])).me.reg 2 = 0x8000000000000000 := by decide
theorem test_bfx_bfi : (ran (.bfx 2 1 8 7) (small [(1, 0x12345)])).me.reg 2 = 0x23 ∧
    (ran (.bfi 2 1 8 7) (small [(1, 0xFF), (2, 0)])).me.reg 2 = 0xFF00 := by decide
-- R33: lui #-1 gives 0xFFFF_FFFF_FFFC_0000
theorem test_lui : (ran (.lui 1 0x3FFFFF) (small [])).me.reg 1 = 0xFFFFFFFFFFFC0000 := by decide
theorem test_addpc : (ran (.addpc 1 2) (small [])).me.reg 1 = 0x1008 := by decide
theorem test_g0_discards : (ran (.addi 0 1 5) (small [(1, 1)])).me.reg 0 = 0 := by decide
theorem test_empty_source_parks : (ran (.add 3 1 2) (small [(1, 1)])).me.park = 1 ∧ (ran (.add 3 1 2) (small [(1, 1)])).me.st = .parked := by decide

/-! ## Scalar FP32 -/

theorem test_fadd : (ran (.fadd 3 1 2) (small [(1, 0x3F800000), (2, 0x40000000)])).me.reg 3 = 0x40400000 := by decide
theorem test_fsub_inf : (ran (.fsub 3 1 2) (small [(1, 0x7F800000), (2, 0x7F800000)])).me.reg 3 = 0x7FC00000 ∧
    (ran (.fsub 3 1 2) (small [(1, 0x7F800000), (2, 0x7F800000)])).me.fst = 1 := by decide
theorem test_fmul : (ran (.fmul 3 1 2) (small [(1, 0x40400000), (2, 0xC0000000)])).me.reg 3 = 0xC0C00000 := by decide
theorem test_ffma : (ran (.ffma 4 1 2 3) (small [(1, 0x40400000), (2, 0x40000000), (3, 0x3F800000)])).me.reg 4 = 0x40E00000 := by decide
theorem test_fmin_nan : (ran (.fmin 3 1 2) (small [(1, 0x7FC00000), (2, 0x3F800000)])).me.reg 3 = 0x3F800000 := by decide
theorem test_fmax_zeros : (ran (.fmax 3 1 2) (small [(1, 0x80000000), (2, 0)])).me.reg 3 = 0 := by decide
theorem test_fcmp : (ran (.fcmpEq 3 1 2) (small [(1, 0x80000000), (2, 0)])).me.reg 3 = 1 ∧
    (ran (.fcmpLt 3 1 2) (small [(1, 0x3F800000), (2, 0x40000000)])).me.reg 3 = 1 ∧
    (ran (.fcmpLe 3 1 2) (small [(1, 0x7FC00000), (2, 0)])).me.fst = 1 ∧ (ran (.fcmpUn 3 1 2) (small [(1, 0x7FC00000), (2, 0)])).me.reg 3 = 1 := by
  decide
theorem test_fcvt : (ran (.fcvtF32i32 2 1) (small [(1, -1)])).me.reg 2 = 0xBF800000 ∧ (ran (.fcvtF32i64 2 1) (small [(1, 3)])).me.reg 2 = 0x40400000 ∧
    (ran (.fcvtI32f32 2 1) (small [(1, 0xC0200000)])).me.reg 2 = -2 ∧ (ran (.fcvtI64f32 2 1) (small [(1, 0x40200000)])).me.reg 2 = 2 := by decide
theorem test_fcvt_rz : (ran (.fcvtI32f32Rz 2 1) (small [(1, 0xC0300000)])).me.reg 2 = -2 ∧
    (ran (.fcvtI64f32Rz 2 1) (small [(1, 0x40700000)])).me.reg 2 = 3 := by decide

/-! ## Conversions (Table 5.5) -/

theorem test_convert_e4 : convert .f32 .e4 false false 0x43960000 = (0x79, flNx) ∧ convert .f32 .e4 false true 0x43FA0000 = (0x7E, flOf ||| flNx ||| flSat) := by
  decide
theorem test_convert_e5 : convert .f32 .e5 false false 0x43FA0000 = (0x60, flNx) ∧ convert .f32 .e5 false false 0x7F800001 = (0x7E, flNv) := by decide
theorem test_convert_log : convert .f32 .l6 false false 0x40400000 = (0x06, flNx) ∧ convert .f32 .l6 false true 0x42C80000 = (0x0F, flOf ||| flNx ||| flSat) ∧
    convert .i32 .l6 false false 0xFFFFFFFD = (0x26, flNx) := by decide
theorem test_convert_from_log : convert .l6 .f32 false false 0x07 = (0x40574500, 0) ∧ convert .l6 .bf16 false false 0x07 = (0x4057, flNx) := by decide
theorem test_convert_int : convert .i32 .i8 false false 300 = (44, 0) ∧ convert .i32 .i8 false true 300 = (127, flSat) ∧
    convert .f32 .i8 false false 0x40200000 = (2, flNx) := by decide

/-! ## Control -/

theorem test_br_taken : (ran (.br 1 2 0x7FFFF) (small [(1, -1)])).me.pc = 0xFFC ∧ (ran (.br 1 2 8) (small [(1, 0)])).me.pc = 0x1004 := by decide
theorem test_jmp_call : (ran (.jmp 4) (small [])).me.pc = 0x1010 ∧ (ran (.call 15 4) (small [])).me.reg 15 = 0x1004 := by decide
theorem test_callr_reads_first : (ran (.callr 15 15) (small [(15, 0x2000)])).me.pc = 0x2000 ∧
    (ran (.callr 15 15) (small [(15, 0x2000)])).me.reg 15 = 0x1004 := by decide
theorem test_ret_misaligned : bits (ran (.ret 1) (small [(1, 0x2002)])).me.cause 0 8 = 6 ∧ (ran (.ret 1) (small [(1, 0x2002)])).me.faddr = 0x2002 := by
  decide
theorem test_skip : (ran (.skip 1 0 2) (small [(1, 0)])).me.pc = 0x100C ∧ (ran (.skip 1 0 2) (small [(1, 1)])).me.pc = 0x1004 := by decide
-- Table 3.11
theorem test_repf : (ran (.repf 0 2 1 1 0) (small [])).me.frame = true ∧ bits (ran (.repf 0 2 1 1 0) (small [])).me.sw 16 4 = 2 := by decide

/-! ## Vector instructions -/

theorem test_vadd : ((ran (.vaddI 2 3 1 2 0) (withLanes (small []) [(1, 0, 5), (2, 0, 7), (1, 31, 0xFFFFFFFF), (2, 31, 1)])).core 0).lane 3 0 = 12 := by
  decide
theorem test_vadd_mask : ((ran (.vaddI 2 3 1 2 5) (withLanes (small [(5, 2)]) [(1, 0, 5), (2, 0, 7), (3, 0, 9)])).core 0).lane 3 0 = 9 := by decide
theorem test_vceq : (ran (.vceqI 2 6 1 2 5) (withLanes (small [(5, 0xF)]) [(1, 0, 5), (2, 0, 5), (1, 1, 1)])).me.reg 6 = 13 := by decide
theorem test_vbcast : ((ran (.vbcast 3 1 0) (small [(1, 0x100000007)])).core 0).lane 3 31 = 7 := by decide
theorem test_vext : (ran (.vext 6 1 4) (withLanes (small []) [(1, 4, 77)])).me.reg 6 = 77 := by decide
theorem test_novreg : bits (ran (.vmov 16 1 0) (small [])).me.cause 0 8 = 4 := by decide
-- R130's example: the five terms of Table 5.6
theorem test_vdot : ((ran (.vdotL6l6 4 1 2 6 0) (withLanes (small [(6, 0x1F)])
    [(1, 1, 1), (1, 2, 0x26), (1, 3, 0x39), (1, 4, 0x10), (2, 0, 2), (2, 1, 3), (2, 2, 0x1F), (2, 3, 0x1A), (2, 4, 5)])).core 0).lane 4 0 = 30496 := by
  decide

/-! ## Own local memory -/

theorem test_store_load : let s := drained (ran (.st 2 1 3 0 0 1) (small [(1, loc 0x100), (2, 0x8877665544332211)]))
    s.byteAt (key 0x108) = 0x11 ∧ s.byteAt (key 0x10F) = 0x88 := by decide
theorem test_load_forwards : (ran (.ld 3 1 1 0 0 0) (ran (.st 2 1 0 0 0 1) (small [(1, loc 0x100), (2, 0xAB)]))).me.reg 3 = 0xAB00 := by decide
theorem test_load_signed : (ran (.ldS 3 1 0 0 0 0) (ran (.st 2 1 0 0 0 0) (small [(1, loc 0), (2, 0x80)]))).me.reg 3 = -128 := by decide
theorem test_load_edges : bits (ran (.ld 3 1 3 0 0 0) (small [(1, loc 0x40000)])).me.cause 0 8 = 5 ∧
    bits (ran (.ld 3 1 3 0 0 0) (small [(1, loc 4)])).me.cause 0 8 = 6 := by decide
theorem test_ldc_empties : let s := ran (.fullEmptyPerform 0 0) (ran (.ldc 5 1 0 0 0) (small [(1, loc 0x200)]))
    s.me.reg 5 = 0 ∧ s.wordFull (key 0x200) = false ∧ s.me.st = .ready := by decide
theorem test_stf_fills : let s := ((small [(1, loc 0x200), (2, 9)]).setWordFull (key 0x200) false)
    (drained (ran (.stf 2 1 0 0 0) s)).wordFull (key 0x200) = true := by decide
theorem test_amo : let s := ran (.atomicPerform 0 0) (ran (.amoAdd 5 2 6 1 1 0) (small [(2, loc 0x40), (6, 7)]))
    s.byteAt (key 0x40) = 7 ∧ s.me.reg 5 = 0 := by decide
theorem test_cas_misses : (ran (.atomicPerform 0 0) (ran (.cas 5 2 6 7 1 0 0) (small [(2, loc 0x40), (6, 7), (7, 1)]))).byteAt (key 0x40) = 0 := by
  decide
theorem test_stcnd : let s := ran (.atomicPerform 0 0) (ran (.ldres 5 2 1 0 0) (small [(2, loc 0x40), (6, 7)]))
    (ran (.atomicPerform 0 0) (ran (.stcnd 4 2 6 1 0 0) s)).me.reg 4 = 0 ∧
    (ran (.atomicPerform 0 0) (ran (.stcnd 4 2 6 1 0 0) (small [(2, loc 0x40), (6, 7)]))).me.reg 4 = 1 := by decide
theorem test_vst_vld : let r := drained (ran (.vst 1 1 5) (withLanes (small [(1, loc 0x80), (5, 9)]) [(1, 0, 5), (1, 3, 7)]))
    let s := ran (.storeBufferDrain 0 0) (later 1 r)
    r.byteAt (key 0x80) = 5 ∧ r.byteAt (key 0x8C) = 0 ∧ s.byteAt (key 0x80) = 5 ∧ s.byteAt (key 0x8C) = 7 ∧ ((ran (.vld 2 1 5) s).core 0).lane 2 3 = 7 := by decide

/-! ## Threads, waits and system instructions -/

theorem test_quit : (ran .quit (small [])).me.st = .free := by decide
theorem test_wait : (ran .wait (small [])).me.park = 8 := by decide
theorem test_yield : (ran (.yieldTimeout 0 0) { ran .yield (small []) with now := 256 }).me.st = .ready := by decide
theorem test_chset : (ran .chset (small [])).me.chain = true ∧ (ran .chset (at_ 8192 [])).me.chain = false := by decide
theorem test_bar_core : (ran (.bar 0 0) (small [])).me.st = .ready := by decide
theorem test_trap : bits (ran .trap (small [])).me.cause 0 8 = 28 ∧ (ran .trap (small [])).me.fault = 0xF0000001 ∧
    (ran .trap (small [])).me.epc = 0x1000 := by decide
theorem test_halt : bits (ran .halt (small [])).me.cause 0 8 = 2 ∧ (ran .halt (at_ 8192 [])).me.park = 8 := by decide
theorem test_unassigned : bits (ran (.unassignedWord 0) (small [])).me.cause 0 8 = 1 := by decide
theorem test_movk : (ran (.movk 7 1) (at_ 20 [])).me.reg 7 = 20 ∧ (ran (.movk 7 1) (at_ 8193 [])).me.reg 7 = 8193 := by decide
theorem test_kmov_sw : bits (ran (.kmov 1 6) (small [(1, 4)])).me.cause 0 8 = 1 ∧ (ran (.kmov 1 12) (small [(1, 31)])).me.fst = 31 := by decide
-- R331's example: the routine resumes slot 3 of core 40 at X + 4
theorem test_eret : let s := ((at_ 8193 [(2, 0x700030028), (3, 0x2004)]).setSlot 40 3 { Slot.reset with st := .stopped, epc := 0x2000, cause := 28 })
    let t := ran .eret (ran (.kmov 3 19) (ran (.kmov 2 14) s))
    (t.slot 40 3).st = .ready ∧ (t.slot 40 3).pc = 0x2004 ∧ (t.slot 40 3).cause = 0 := by decide
theorem test_claim_mode : let a : Arrival := ⟨.launch, 0, 0, 0x3000, ⟨1, 0, 0⟩, 1, 0, [(1, 5, true)], false, ⟨none, none⟩, none, none, 0⟩
    ((State.reset.claim 8192 ⟨0, 0, 4, none⟩ a).slot 8192 0).priv = true ∧ ((State.reset.claim 5 ⟨0, 0, 4, none⟩ a).slot 5 0).priv = false ∧
    ((State.reset.claim 5 ⟨0, 0, 4, none⟩ a).slot 5 0).reg 1 = 5 := by decide
theorem test_step : let s := State.reset.withFetchWord 32 0xF0000005
    (match step s with
     | .next t => (t.slot 0 0).pc
     | _ => 1) = 4 := by rfl


/-! ## For every statement, a state and operands that meet its hypotheses -/

/-- `Passes`, as a computation. -/
def passesB (s : State) (lv : Level) (fr : Bool) (vdst vsrc : List VReg) (srcs : List Reg) (dst : Option Reg) : Bool :=
  (lv != .privileged || s.me.priv) && (lv != .security || s.curCore == securityCore) && (!s.me.frame || fr) &&
  (vdst ++ vsrc).all (fun v => decide (v.toNat < 4 * s.me.vsize)) && srcs.all (fun r => s.me.isFull r || (r == 14 && s.onChain)) &&
  (!s.pops srcs || (s.chainHead s.curCore s.curSlot).isSome) && (!s.pushes dst || !(s.chainFull s.curCore s.curSlot)) &&
  srcs.all (fun r => s.me.badG.getLsbD r.toNat == false || (r == 14 && s.onChain)) &&
  vsrc.all (fun v => !(s.core s.curCore).badV.contains (4 * s.me.vbase + v.toNat))

theorem passes_of {s : State} {lv : Level} {fr : Bool} {vdst vsrc : List VReg} {srcs : List Reg} {dst : Option Reg}
    (h : passesB s lv fr vdst vsrc srcs dst = true) : Passes s lv fr vdst vsrc srcs dst := by
  simp only [passesB, Bool.and_eq_true, Bool.or_eq_true, List.all_eq_true, bne_iff_ne, beq_iff_eq, decide_eq_true_eq, Bool.not_eq_true',
    List.contains_eq_mem, decide_eq_false_iff_not] at h
  obtain ⟨⟨⟨⟨⟨⟨⟨⟨h1, h2⟩, h3⟩, h4⟩, h5⟩, h6⟩, h7⟩, h8⟩, h9⟩ := h
  refine ⟨fun e => ?_, fun e => ?_, fun e => ?_, h4, h5, fun e => ?_, fun e => ?_, h8, h9⟩
  · exact h1.resolve_left (fun n => n e)
  · exact h2.resolve_left (fun n => n e)
  · rcases h3 with h | h
    · rw [h] at e; cases e
    · exact h
  · rcases h6 with h | h
    · rw [h] at e; cases e
    · exact h
  · rcases h7 with h | h
    · rw [h] at e; cases e
    · exact h

/-- Where an address leads, as a computation. -/
def locateB (s : State) (va : Word) (size : Nat) (acc : Acc) (rd wr : Bool) (l : Loc) : Bool := match s.locate va size acc rd wr with
  | .ok x => decide (x = l)
  | .error _ => false

theorem loc_of {s : State} {va : Word} {size : Nat} {acc : Acc} {rd wr : Bool} {l : Loc} (h : locateB s va size acc rd wr l = true) :
    s.locate va size acc rd wr = .ok l := by
  unfold locateB at h
  split at h
  · rename_i x e; rw [e, of_decide_eq_true h]
  · cases h

/-- A page of tenant 1 at 0x10000, whose frame lies at 0x20000. -/
def page : TlbEnt :=
  { tenant := 1, va := 0x10000, size := 0x10000, page := 0x10000, pa := 0x20000, gpa := 0x20000, ty := .normal, rp := false, u := true, x := true, w := true, r := true,
    s2x := true, s2w := true, s2r := true }
/-- The TLBs of the core whose turn it is hold the entry. -/
def mapped (s : State) (e : TlbEnt) : State := s.modCore s.curCore (fun x => { x with dtlb := e :: x.dtlb, itlb := e :: x.itlb })
/-- The slot whose turn it is waits. -/
def waiting (s : State) (p : Pend) : State := s.modMe (fun x => { x with st := .parked, pend := p })
/-- Slot k of core c waits. -/
def parkedAt (s : State) (c k : Nat) (p : Pend) : State := s.modSlot c k (fun x => { x with st := .parked, pend := p })
/-- A location of own local memory of core 0. -/
def here (o : Nat) : Loc := ⟨key o, .lmem 0, .normal, false, false⟩

theorem witness_IntegerInstructionsGiveTheirResults :
    (∃ s i r, integerRow i = some r ∧ i.wf = true ∧ PassesG s r.fr r.srcs (some r.dst)) ∧
    (∃ s i r, multiplyRow i = some r ∧ i.wf = true ∧ PassesG s r.fr r.srcs (some r.dst)) ∧
    (∃ s i r, immediateRow i = some r ∧ i.wf = true ∧ PassesG s r.fr r.srcs (some r.dst)) :=
  ⟨⟨small [(1, -1), (2, 1)], .add 3 1 2, _, rfl, rfl, passes_of (by decide)⟩,
    ⟨small [(1, -1), (2, 1)], .mulh 3 1 2, _, rfl, rfl, passes_of (by decide)⟩,
    ⟨small [(1, -1)], .bfx 0 1 63 0, _, rfl, rfl, passes_of (by decide)⟩⟩

theorem witness_DivisionsFillTheirResult :
    (∃ s i d a b f, divisionOf i = some (d, a, b, f) ∧ PassesG s true [a, b] (some d) ∧ s.src b = 0) ∧
    (∃ s i d a b f, divisionOf i = some (d, a, b, f) ∧ PassesG s true [a, b] (some d) ∧ s.src a = 0x8000000000000000 ∧ s.src b = -1) ∧
    (∃ (s : State) (c k : Nat) (d : Reg) (v : Word), (s.slot c k).st = .parked ∧ (s.slot c k).pend = .div d v) :=
  ⟨⟨small [(1, 9), (2, 0)], .rem 3 1 2, _, _, _, _, rfl, passes_of (by decide), rfl⟩,
    ⟨small [(1, 0x8000000000000000), (2, -1)], .div 3 1 2, _, _, _, _, rfl, passes_of (by decide), rfl, rfl⟩,
    ⟨parkedAt State.reset 5 15 (.div 3 7), 5, 15, 3, 7, rfl, rfl⟩⟩

theorem witness_ScalarFloatGivesResultAndFlags :
    ∃ s i srcs d f ext, floatRow i = some (srcs, d, f, ext) ∧ PassesG s true srcs (some d) :=
  ⟨small [(1, 0x7F800000), (2, 0x7F800000)], .fsub 3 1 2, _, _, _, _, rfl, passes_of (by decide)⟩

theorem witness_TransfersSelectTheNextWord :
    (∃ (s : State) (a : Reg) (cond : BitVec 3), PassesG s false [a] none ∧ cond ≠ 6 ∧ cond ≠ 7 ∧ Holds cond (sg s a)) ∧
    (∃ (s : State) (a : Reg) (cond : BitVec 3), PassesG s false [a] none ∧ cond ≠ 6 ∧ cond ≠ 7 ∧ ¬Holds cond (sg s a)) ∧
    (∃ s : State, PassesG s false [] none) ∧ (∃ (s : State) (a : Reg), PassesG s false [] (some a)) :=
  ⟨⟨small [(1, -1)], 1, 2, passes_of (by decide), by decide, by decide, by unfold Holds; decide⟩,
    ⟨small [(1, 0)], 1, 2, passes_of (by decide), by decide, by decide, by unfold Holds; decide⟩,
    ⟨small [], passes_of (by decide)⟩, ⟨small [], 15, passes_of (by decide)⟩⟩

theorem witness_RegisterJumpsGoOrFault :
    (∃ (s : State) (a : Reg), PassesG s false [a] none ∧ un s a % 4 ≠ 0) ∧
    (∃ (s : State) (a : Reg), PassesG s false [a] none ∧ un s a % 4 = 0 ∧ ¬Canonical (s.src a)) ∧
    (∃ (s : State) (d a : Reg), PassesG s false [a] (some d) ∧ un s a % 4 = 0 ∧ Canonical (s.src a)) :=
  ⟨⟨small [(1, 3)], 1, passes_of (by decide), by decide⟩,
    ⟨small [(1, 0x100000000000000)], 1, passes_of (by decide), by decide, fun h => absurd (h 57 (by decide) (by decide)) (by decide)⟩,
    ⟨small [(15, 0xFFFFFFFFFFFFFC)], 15, 15, passes_of (by decide), by decide, fun i h h' => by
      have : ∀ j < 7, ((small [(15, 0xFFFFFFFFFFFFFC)]).src 15).getLsbD (57 + j) = ((small [(15, 0xFFFFFFFFFFFFFC)]).src 15).getLsbD 56 := by decide
      have := this (i - 57) (by omega)
      rwa [show 57 + (i - 57) = i by omega] at this⟩⟩

/-- The slot whose turn it is is in a frame of one word and three replays. -/
def framed (regs : List (Reg × Word)) : State := (ran (.repf 0 2 1 1 0) (small regs))

theorem witness_RepeatFramesReplayTheirWords :
    (∃ s : State, PassesG s false [] none) ∧
    (∃ x : Slot, x.frame = true ∧ bits x.sw 4 4 = bits x.sw 12 4 ∧ bits x.sw 8 4 < bits x.sw 16 4) ∧
    (∃ x : Slot, x.frame = true ∧ bits x.sw 4 4 = bits x.sw 12 4 ∧ bits x.sw 8 4 = bits x.sw 16 4) ∧
    (∃ x : Slot, x.frame = true ∧ bits x.sw 4 4 < bits x.sw 12 4) ∧
    (∃ (x : Slot) (vd va vb : VReg), x.frame = true ∧ 0 < x.vsize ∧ vd.toNat < 4 * x.vsize ∧ va.toNat < 4 * x.vsize ∧ vb.toNat < 4 * x.vsize) :=
  ⟨⟨small [], passes_of (by decide)⟩, ⟨(framed []).me, by decide, by decide, by decide⟩,
    ⟨(ran (.repf 0 0 1 1 0) (small [])).me, by decide, by decide, by decide⟩, ⟨(ran (.repf 3 0 1 1 0) (small [])).me, by decide, by decide⟩,
    ⟨(framed []).me, 15, 0, 14, by decide, by decide, by decide, by decide, by decide⟩⟩

theorem witness_RejectedWordsFault :
    (∃ (s : State) (i : Instr), Word_ s i ∧ frameMajor (opOf (encode i)).toNat = false ∧ s.me.frame = true ∧ s.me.park ≠ 6 ∧
      (levelOf i = .privileged → s.me.priv = true) ∧ (levelOf i = .security → s.curCore = securityCore)) ∧
    (∃ (s : State) (i : Instr), illegalHere s i) ∧
    (∃ (s : State) (i : Instr), Word_ s i ∧ i.wf = true ∧ levelOf i = .privileged ∧ s.me.priv = false) ∧
    (∃ (s : State) (i : Instr), Word_ s i ∧ i.wf = true ∧ levelOf i = .security ∧ s.curCore ≠ securityCore) ∧
    (∃ (s : State) (i : Instr) (vd vs : List VReg) (srcs : List Reg) (dst : Option Reg), operandsOf i = some (vd, vs, srcs, dst) ∧
      (s.me.frame = true → frameMajor (majorOf (encode i)) = true) ∧ ∃ v ∈ vd ++ vs, 4 * s.me.vsize ≤ v.toNat) :=
  ⟨⟨framed [], .nop, ⟨rfl, by intro w; exact Instr.noConfusion, by unfold illegalHere; exact not_false⟩, by decide, by decide, by decide, by decide, by decide⟩,
    ⟨at_ 8192 [], .sysc 1, rfl⟩,
    ⟨small [], .halt, ⟨rfl, by intro w; exact Instr.noConfusion, by unfold illegalHere; exact not_false⟩, rfl, rfl, by decide⟩,
    ⟨at_ 8191 [], .keyclr 1, ⟨rfl, by intro w; exact Instr.noConfusion, by unfold illegalHere; exact not_false⟩, rfl, rfl, by decide⟩,
    ⟨small [], .vst 16 1 0, _, _, _, _, rfl, by decide, 16, by decide, by decide⟩⟩

theorem witness_VectorIntegerOperationsGiveTable62 :
    ∃ s i r, vecIntRow i = some r ∧ i.wf = true ∧ Passes s .user true r.vdst r.vsrc r.srcs none :=
  ⟨small [(5, 2)], .vaddSat 0 15 0 15 5, _, rfl, rfl, passes_of (by decide)⟩
theorem witness_VectorFloatOperationsGiveTable63 :
    ∃ s i r, vecFloatRow i = some r ∧ i.wf = true ∧ Passes s .user true r.vdst r.vsrc r.srcs none :=
  ⟨small [], .vfma 0 15 0 15 0, _, rfl, rfl, passes_of (by decide)⟩
theorem witness_LaneInstructionsGiveTable66 :
    ∃ s i r, vecLaneRow i = some r ∧ i.wf = true ∧ Passes s .user true r.vdst r.vsrc r.srcs none :=
  ⟨small [(1, 7)], .vins 3 1 31, _, rfl, rfl, passes_of (by decide)⟩
theorem witness_ConversionsAndDotProductsGiveResults :
    ∃ s i r, vecMixRow i = some r ∧ i.wf = true ∧ Passes s .user true r.vdst r.vsrc r.srcs none :=
  ⟨small [(6, 0x1F)], .vdotL6l6 4 1 2 6 0, _, rfl, rfl, passes_of (by decide)⟩
theorem witness_VectorComparesWriteMasks :
    (∃ s i ty d a b m f, compareRow i = some (ty, d, a, b, m, f) ∧ i.wf = true ∧ Passes s .user true [] [a, b] (maskSrc m) (some d)) ∧
    (∃ (s : State) (d : Reg) (a : VReg), Passes s .user true [] [a] [] (some d)) :=
  ⟨⟨small [(5, 0xF)], .vceqI 2 6 1 2 5, _, _, _, _, _, _, rfl, rfl, passes_of (by decide)⟩, ⟨small [], 0, 15, passes_of (by decide)⟩⟩

theorem witness_AddressesAreCheckedAndLeadToLocations :
    (∃ s i r, memRow i = some r ∧ i.wf = true ∧ r.first s ∧ PassesG s false r.srcs r.dst ∧ NoRegion (r.addr s)) ∧
    (∃ s i r, memRow i = some r ∧ i.wf = true ∧ r.first s ∧ PassesG s false r.srcs r.dst ∧ ¬NoRegion (r.addr s) ∧ (r.addr s).toNat % r.size ≠ 0) ∧
    (∃ s i r, memRow i = some r ∧ i.wf = true ∧ r.first s ∧ PassesG s false r.srcs r.dst ∧ Translated (r.addr s) ∧ (r.addr s).toNat % r.size = 0 ∧
      tlbFind (s.core s.curCore).dtlb s.me.tenant (r.addr s) = none) ∧
    (∃ s i r e, memRow i = some r ∧ i.wf = true ∧ r.first s ∧ PassesG s false r.srcs r.dst ∧ Translated (r.addr s) ∧ (r.addr s).toNat % r.size = 0 ∧
      tlbFind (s.core s.curCore).dtlb s.me.tenant (r.addr s) = some e ∧ Denied e s.me.priv r.rd r.wr) ∧
    (∃ s i r e, memRow i = some r ∧ i.wf = true ∧ r.first s ∧ PassesG s false r.srcs r.dst ∧ Translated (r.addr s) ∧ (r.addr s).toNat % r.size = 0 ∧
      tlbFind (s.core s.curCore).dtlb s.me.tenant (r.addr s) = some e ∧ SealedPage e s.me.priv r.rd) := by
  have tr : Translated 0x10000 := ⟨fun i h h' => by
      have : ∀ j < 7, (0x10000 : Word).getLsbD (57 + j) = (0x10000 : Word).getLsbD 56 := by decide
      have := this (i - 57) (by omega)
      rwa [show 57 + (i - 57) = i by omega] at this, by decide, by decide⟩
  refine ⟨⟨small [(1, loc 0x40000)], .ld 3 1 3 0 0 0, _, rfl, rfl, trivial, passes_of (by decide), Or.inl (by decide)⟩,
    ⟨small [(1, loc 0x3FFFC)], .ld 3 1 3 0 0 0, _, rfl, rfl, trivial, passes_of (by decide), ?_, by decide⟩,
    ⟨small [(1, 0x10000)], .ld 3 1 3 0 0 0, _, rfl, rfl, trivial, passes_of (by decide), tr, by decide, rfl⟩,
    ⟨mapped (small [(1, 0x10000), (2, 1)]) { page with w := false }, .st 2 1 3 0 0 0, _, _, rfl, rfl, trivial, passes_of (by decide), tr, by decide, rfl,
      Or.inr (Or.inr ⟨by decide, rfl, rfl⟩)⟩,
    ⟨mapped (small [(1, 0x10000)]) { page with r := false, w := false }, .ld 3 1 3 0 0 0, _, _, rfl, rfl, trivial, passes_of (by decide), tr, by decide, rfl,
      ⟨Or.inr rfl, rfl, rfl, rfl⟩⟩⟩
  show ¬NoRegion (loc 0x3FFFC)
  unfold NoRegion; rintro (h | h | h) <;> revert h
  · decide
  · decide
  · rintro ⟨h, -⟩; exact h (by decide)

theorem witness_AddressesLeadToLocations :
    (∃ (s : State) (va : Word) (n o : Nat), va.toNat % 8 = 0 ∧ n = s.curCore ∧ LocalOffset s.curCore va n o) ∧
    (∃ (s : State) (va : Word) (n o : Nat), va.toNat % 8 = 0 ∧ n ≠ s.curCore ∧ LocalOffset s.curCore va n o) ∧
    (∃ (s : State) (va : Word) (e : TlbEnt) (p : Place), va.toNat % 8 = 0 ∧ tlbFind (s.core s.curCore).dtlb s.me.tenant va = some e ∧
      ¬Denied e s.me.priv true true ∧ ¬SealedPage e s.me.priv true ∧ Stage2Allows e true true ∧
      s.placeOf (e.pa + (va.toNat % 2 ^ 57 - e.va)) = some p) :=
  ⟨⟨small [], loc 0x3FFF8, 0, 0x3FFF8, by decide, rfl, by unfold LocalOffset; decide⟩,
    ⟨small [], BitVec.ofNat 64 (2 ^ 56 + 3072 * 2 ^ 18 - 8), 3071, 0x3FFF8, by decide, by decide, by unfold LocalOffset; decide⟩,
    ⟨mapped (small []) page, 0x1FFF8, page, .home 4, by decide, rfl, by unfold Denied page; decide, by unfold SealedPage page; decide,
      by unfold Stage2Allows page; decide, rfl⟩⟩

theorem witness_MemoryTypesScopesAndTargets :
    (∃ s i r l, memRow i = some r ∧ i.wf = true ∧ r.first s ∧ PassesG s false r.srcs r.dst ∧
      s.locate (r.addr s) r.size r.acc r.rd r.wr = .ok l ∧ r.accepts l = false) ∧
    (∃ s i r l, memRow i = some r ∧ i.wf = true ∧ r.first s ∧ PassesG s false r.srcs r.dst ∧
      s.locate (r.addr s) r.size r.acc r.rd r.wr = .ok l ∧ r.accepts l = true ∧ ¬r.reach s l) ∧
    (∃ s i r l n, memRow i = some r ∧ i.wf = true ∧ r.first s ∧ PassesG s false r.srcs r.dst ∧
      s.locate (r.addr s) r.size r.acc r.rd r.wr = .ok l ∧ r.accepts l = true ∧ r.reach s l ∧ l.window = true ∧ l.place = .lmem n ∧ TargetRefused s n) ∧
    (∃ s i r l n, memRow i = some r ∧ i.wf = true ∧ r.first s ∧ PassesG s false r.srcs r.dst ∧
      s.locate (r.addr s) r.size r.acc r.rd r.wr = .ok l ∧ r.accepts l = true ∧ r.reach s l ∧ l.window = true ∧ l.place = .lmem n ∧
      ¬TargetRefused s n ∧ (s.core n).health = .retired) ∧
    (∃ s i r l, memRow i = some r ∧ i.wf = true ∧ r.first s ∧ PassesG s false r.srcs r.dst ∧
      s.locate (r.addr s) r.size r.acc r.rd r.wr = .ok l ∧ r.accepts l = true ∧ r.reach s l ∧ l.window = false ∧ r.wr = true ∧ l.rp = true) :=
  ⟨⟨mapped (small [(1, 0x10000)]) page, .ldc 3 1 0 0 0, _, _, rfl, rfl, trivial, passes_of (by decide), rfl, rfl⟩,
    ⟨mapped (small [(1, 0x10000), (2, 1)]) page, .amoAdd 3 1 2 1 0 0, _, _, rfl, rfl, trivial, passes_of (by decide), rfl, rfl,
      by show ¬(1 ≤ (0 : Nat)); decide⟩,
    ⟨small [(1, BitVec.ofNat 64 (2 ^ 56 + 2 ^ 18))], .ld 3 1 3 0 0 0, _, _, 1, rfl, rfl, trivial, passes_of (by decide), rfl, rfl, trivial, rfl, rfl,
      Or.inr ⟨by decide, by decide⟩⟩,
    ⟨(small [(1, BitVec.ofNat 64 (2 ^ 56 + 2 ^ 18))]).modCore 1 (fun x => { x with wten := 1, health := .retired }), .ld 3 1 3 0 0 0, _, _, 1, rfl, rfl, trivial,
      passes_of (by decide), rfl, rfl, trivial, rfl, rfl, by unfold TargetRefused; decide, rfl⟩,
    ⟨mapped (small [(1, 0x10000), (2, 1)]) { page with rp := true }, .st 2 1 3 0 0 0, _, _, rfl, rfl, trivial, passes_of (by decide), rfl, rfl, trivial, rfl,
      rfl, rfl⟩⟩

theorem witness_LoadsGiveWhatTheSlotSees :
    (∃ (s : State) (i : Instr) (d a : Reg) (sz : BitVec 2) (sc : BitVec 3) (od : BitVec 2) (off : BitVec 11) (l : Loc), i = .ldS d a sz sc od off ∧
      i.wf = true ∧ PassesG s false [a] (some d) ∧ s.locate (ea s a off (szBytes sz)) (szBytes sz) .load true false = .ok l ∧ l.place = .lmem s.curCore ∧
      l.window = false ∧ badRead s s.curCore s.curSlot l (szBytes sz) = false) ∧
    (∃ (s : State) (i : Instr) (d a : Reg) (sz : BitVec 2) (sc : BitVec 3) (od : BitVec 2) (off : BitVec 11) (l : Loc), i = .ld d a sz sc od off ∧
      i.wf = true ∧ PassesG s false [a] (some d) ∧ s.locate (ea s a off (szBytes sz)) (szBytes sz) .load true false = .ok l ∧ l.place = .lmem s.curCore ∧
      l.window = false ∧ badRead s s.curCore s.curSlot l (szBytes sz) = true) ∧
    (∃ (s : State) (i : Instr) (d a : Reg) (sz : BitVec 2) (sc : BitVec 3) (od : BitVec 2) (off : BitVec 11) (l : Loc), i = .ld d a sz sc od off ∧
      i.wf = true ∧ PassesG s false [a] (some d) ∧ s.locate (ea s a off (szBytes sz)) (szBytes sz) .load true false = .ok l ∧ l.place ≠ .lmem s.curCore ∧
      (∀ n, l.window = true → l.place = .lmem n → ¬TargetRefused s n ∧ (s.core n).health ≠ .retired)) ∧
    (∃ (s : State) (c k : Nat) (d : Reg) (va : Word) (l : Loc) (size : Nat) (signed : Bool), (s.slot c k).st = .parked ∧
      (s.slot c k).pend = .load d va l size signed ∧ s.lostPlace l va = none ∧ s.reachable l = true ∧ badRead s c k l size = false) :=
  ⟨⟨small [(1, loc 7)], _, 3, 1, 0, 0, 0, 0, _, rfl, rfl, passes_of (by decide), rfl, rfl, rfl, by decide⟩,
    ⟨ran (.softError (.memWord (key 0)) false) (small [(1, loc 7)]), _, 3, 1, 0, 0, 0, 0, _, rfl, rfl, passes_of (by decide), rfl, rfl, rfl, by decide⟩,
    ⟨mapped (small [(1, 0x10000)]) page, _, 3, 1, 3, 0, 0, 0, _, rfl, rfl, passes_of (by decide), rfl, by decide, fun n h => by cases h⟩,
    ⟨ran (.ld 3 1 3 0 0 0) (mapped (small [(1, 0x10000)]) page), 0, 0, 3, _, _, _, _, by decide, rfl, by decide, by decide, by decide⟩⟩

theorem witness_StoresAreBufferedAndPerformed :
    (∃ (s : State) (i : Instr) (d a : Reg) (sz : BitVec 2) (sc : BitVec 3) (od : BitVec 2) (off : BitVec 11) (l : Loc), i = .st d a sz sc od off ∧
      i.wf = true ∧ PassesG s false [a, d] none ∧ s.locate (ea s a off (szBytes sz)) (szBytes sz) .store false true = .ok l ∧ l.rp = false ∧
      l.ty ≠ .stamped ∧ (∀ n, l.window = true → l.place = .lmem n → ¬TargetRefused s n ∧ (s.core n).health ≠ .retired)) ∧
    (∃ (s : State) (i : Instr) (d a : Reg) (sc : BitVec 3) (od : BitVec 2) (off : BitVec 11) (l : Loc), i = .stf d a sc od off ∧
      i.wf = true ∧ PassesG s false [a, d] none ∧ s.locate (ea s a off 8) 8 .store false true = .ok l ∧ l.rp = false ∧ localOrSync l = true ∧
      (∀ n, l.window = true → l.place = .lmem n → ¬TargetRefused s n ∧ (s.core n).health ≠ .retired)) ∧
    (∃ (s : State) (c k : Nat) (e : StoreEnt) (rest : List StoreEnt), (s.slot c k).buf = e :: rest ∧ s.mayLeave c k = true ∧ e.loc.place = .lmem c ∧
      e.lanes = [] ∧ e.loc.key % 8 + e.size ≤ 8 ∧ (s.slot c k).drainCyc ≠ s.now + 1) ∧
    (∃ (s : State) (c k : Nat) (e : StoreEnt) (rest : List StoreEnt), (s.slot c k).buf = e :: rest ∧ s.mayLeave c k = true ∧ e.loc.place ≠ .lmem c) ∧
    (∃ (s : State) (c k n : Nat) (e : StoreEnt), (∀ a l z v, (s.slot c k).pend ≠ .devStore a l z v) ∧ (s.slot c k).out[n]? = some e ∧ e.lanes = [] ∧
      e.loc.key % 8 + e.size ≤ 8 ∧ s.reachable e.loc = true ∧ s.lostPlace e.loc e.ea = none ∧ missesScope c e = false ∧
      ∀ f ∈ (s.slot c k).out.take n, f.covers (e.loc.key / 8 * 8) 8 = false) ∧
    (∃ (s : State) (c k : Nat) (va : Word) (l : Loc) (size : Nat) (v : Word), (s.slot c k).st = .parked ∧ (s.slot c k).pend = .devStore va l size v ∧
      l.key % 8 + size ≤ 8 ∧ s.lostPlace l va = none) :=
  ⟨⟨small [(1, loc 0x3FFF8), (2, -1)], _, 2, 1, 3, 0, 2, 0, _, rfl, rfl, passes_of (by decide), rfl, rfl, by decide, fun n h => by cases h⟩,
    ⟨small [(1, loc 0x3FFF8), (2, -1)], _, 2, 1, 0, 0, 0, _, rfl, rfl, passes_of (by decide), rfl, rfl, rfl, fun n h => by cases h⟩,
    ⟨later 1 (ran (.st 2 1 3 0 0 1) (small [(1, loc 0x100), (2, 5)])), 0, 0, _, _, rfl, by decide, by decide, by decide, by decide, by decide⟩,
    ⟨later 1 (ran (.st 2 1 3 0 0 0) (mapped (small [(1, 0x10000), (2, 5)]) page)), 0, 0, _, _, rfl, by decide, by decide⟩,
    ⟨drained (ran (.st 2 1 3 0 0 0) (mapped (small [(1, 0x10000), (2, 5)]) page)), 0, 0, 0, _,
      (fun a l z v h => by cases (show (Pend.none : Pend) = .devStore a l z v from h)), rfl, by decide, by decide, by decide, by decide, by decide, by decide⟩,
    ⟨waiting (small []) (.devStore 0x10000 ⟨0xF000000000004, .devReg, .device, false, false⟩ 4 7), 0, 0, _, _, _, _, rfl, rfl, by decide, by decide⟩⟩

theorem witness_FullEmptyLoadsTakeAFullWord :
    (∃ (s : State) (i : Instr) (d a : Reg) (sc : BitVec 3) (od : BitVec 2) (off : BitVec 11) (l : Loc), i = .ldc d a sc od off ∧ i.wf = true ∧
      PassesG s false [a] (some d) ∧ s.locate (ea s a off 8) 8 .atomic true true = .ok l ∧ localOrSync l = true ∧ l.rp = false ∧ s.me.buf = [] ∧
      s.ownStoresDone s.curCore s.curSlot l.key 8 = true ∧ s.reachable l = true ∧ s.wordFull l.key = true ∧ s.badWord l.key = false) ∧
    (∃ (s : State) (i : Instr) (d a : Reg) (sc : BitVec 3) (od : BitVec 2) (off : BitVec 11) (l : Loc), i = .ldx d a sc od off ∧ i.wf = true ∧
      PassesG s false [a] (some d) ∧ s.locate (ea s a off 8) 8 .load true false = .ok l ∧ localOrSync l = true ∧ s.me.buf = [] ∧
      s.ownStoresDone s.curCore s.curSlot l.key 8 = true ∧ s.reachable l = true ∧ s.wordFull l.key = false) :=
  ⟨⟨small [(1, loc 0x200)], _, 5, 1, 0, 0, 0, _, rfl, rfl, passes_of (by decide), rfl, rfl, rfl, by decide, by decide, by decide, by decide, by decide⟩,
    ⟨(small [(1, loc 0x200)]).setWordFull (key 0x200) false, _, 5, 1, 0, 0, 0, _, rfl, rfl, passes_of (by decide), rfl, rfl, by decide, by decide,
      by decide, by decide⟩⟩

theorem witness_AtomicsReadAndWriteAtTheirPoint :
    (∃ s i op d a sz sc od b e r l, atomOf i = some (op, d, a, sz, sc, od, b, e) ∧ memRow i = some r ∧ i.wf = true ∧ PassesG s false r.srcs (some d) ∧
      s.locate (s.src a) (atBytes sz) r.acc r.rd r.wr = .ok l ∧ plainLoc l = true ∧ scopeOkAt sc s l ∧ l.rp = false ∧ l.window = false ∧ s.me.buf = []) ∧
    (∃ (s : State) (c k : Nat) (op : AtOp) (d : Reg) (va : Word) (l : Loc) (sz : BitVec 1) (x e : Word), (s.slot c k).st = .parked ∧
      (s.slot c k).pend = .atomic op d va l (atBytes sz) x e ∧ canPerform s c k l (atBytes sz) va ∧ op ≠ .stcnd ∧ l.key % atBytes sz = 0 ∧
      s.badWord l.key = false) :=
  ⟨⟨small [(2, loc 0x40), (6, 7), (7, 1)], .cas 5 2 6 7 0 0 3, _, _, _, _, _, _, _, _, _, _, rfl, rfl, rfl, passes_of (by decide), rfl, rfl, Or.inl rfl, rfl,
      rfl, by decide⟩,
    ⟨ran (.amoAdd 5 2 6 1 1 0) (small [(2, loc 0x40), (6, 7)]), 0, 0, .add, 5, _, _, 1, _, _, by decide, rfl, ⟨by decide, by decide, by decide⟩, by decide,
      by decide, by decide⟩⟩

theorem witness_ReservationsAndFences :
    (∃ (s : State) (c k : Nat) (d : Reg) (va : Word) (l : Loc) (x e : Word) (r : Resv), (s.slot c k).st = .parked ∧
      (s.slot c k).pend = .atomic .stcnd d va l 8 x e ∧ canPerform s c k l 8 va ∧ l.key % 8 = 0 ∧ (s.slot c k).resv = some r ∧ r.blk = va.toNat / 64 ∧
      r.key = l.key / 64) ∧
    (∃ (s : State) (c k : Nat) (d : Reg) (va : Word) (l : Loc) (x e : Word), (s.slot c k).st = .parked ∧
      (s.slot c k).pend = .atomic .stcnd d va l 8 x e ∧ canPerform s c k l 8 va ∧ l.key % 8 = 0 ∧ (s.slot c k).resv = none) ∧
    (∃ s : State, PassesG s false [] none ∧ s.quietAt s.curCore s.curSlot 4 = true) ∧
    (∃ s : State, PassesG s false [] none ∧ s.quietAt s.curCore s.curSlot 4 = false) ∧
    (∃ (s : State) (a : Reg) (r : Resv), PassesG s false [a] none ∧ s.latch s.curCore s.curSlot = false ∧ s.me.resv = some r ∧ r.blk = un s a / 64) ∧
    (∃ (s : State) (c k : Nat) (r : Resv), (s.slot c k).resv = some r) :=
  let s0 := small [(2, loc 0x40), (6, 7)]
  let s1 := ran (.atomicPerform 0 0) (ran (.ldres 5 2 1 0 0) s0)
  let rv : Resv := ⟨(loc 0x40).toNat / 64, key 0x40 / 64, .lmem 0⟩
  ⟨⟨ran (.stcnd 4 2 6 1 0 0) s1, 0, 0, 4, loc 0x40, here 0x40, 7, 0, rv, by decide, by decide, ⟨by decide, by decide, by decide⟩, by decide, by decide,
      by decide, by decide⟩,
    ⟨ran (.stcnd 4 2 6 1 0 0) s0, 0, 0, 4, loc 0x40, here 0x40, 7, 0, by decide, by decide, ⟨by decide, by decide, by decide⟩, by decide, by decide⟩,
    ⟨small [], passes_of (by decide), by decide⟩,
    ⟨ran (.st 2 1 3 0 0 0) (mapped (small [(1, 0x10000), (2, 5)]) page), passes_of (by decide), by decide⟩,
    ⟨s1, 2, rv, passes_of (by decide), by decide, by decide, by decide⟩, ⟨s1, 0, 0, rv, by decide⟩⟩

/-- A capsule of tenant 1: one kernel of one granule and 64 bytes of scratchpad, with its entry at 0x10000. -/
def cap1 : Capsule :=
  { tenant := 1, st := .valid, version := 1, kernels := [⟨1, 64, 2⟩], body := ⟨0x10000, 0x20000, [], [⟨0, 0⟩], []⟩, oldMaps := [],
    refs := [⟨10, 10, 5, 6⟩], image := List.replicate 64 7, upcall := some 0, faults := 1, object := []
    parts := [⟨0, [1, 2], [0], [], [], none⟩], entryKernels := [0] }
/-- The capsule is installed under handle 1, and the slot whose turn it is runs its kernel; the cores have a pool of 4096 bytes. -/
def withCap (s : State) (cap : Capsule) : State :=
  let t : State := s.modPkg (fun p => { p with caps := Tab.put p.caps 1 cap })
  (t.modMe (fun x => { x with kern := some ⟨1, 0, 1⟩ })).modCore s.curCore (fun x => { x with poolBase := 0x1000, poolSize := 0x1000, vmap := 0xF })
/-- An arrival of that kernel at a link. -/
def guest (src : ArrSrc) (link at_ : Nat) : Arrival := ⟨src, link, at_, 0x10000, ⟨1, 0, 1⟩, 1, 0, [(1, 5, true)], false, ⟨none, none⟩, none, none, 0⟩

theorem witness_BarrierObjectsCountArrivals :
    (∃ (s : State) (d a b : Reg) (sc : BitVec 3) (l : Loc), (Instr.barm d a b sc).wf = true ∧ s.me.guardRec = none ∧ s.me.park ≠ 6 ∧
      PassesG s false [a, b] (some d) ∧ s.locate (s.src a) 8 .atomic true true = .ok l ∧ plainLoc l = true ∧ (∃ n, l.place = .home n) ∧ 1 ≤ sc.toNat ∧
      l.rp = false ∧ s.quiet s.curCore s.curSlot = true) ∧
    (∃ (s : State) (c k : Nat) (d : Reg) (va : Word) (l : Loc) (n : Nat), (s.slot c k).st = .parked ∧ (s.slot c k).pend = .barmSent d va l n ∧
      s.reachable l = true ∧ s.badWord l.key = false ∧ l.key % 8 = 0 ∧ n = (s.memLoad (s.cipherKey c) l.key 8).toNat % 2 ^ 32 + 1) ∧
    (∃ (s : State) (c k : Nat) (d : Reg) (va : Word) (l : Loc) (n : Nat), (s.slot c k).st = .parked ∧ (s.slot c k).pend = .barmSent d va l n ∧
      s.reachable l = true ∧ s.badWord l.key = false ∧ l.key % 8 = 0 ∧ n = (s.memLoad (s.cipherKey c) l.key 8).toNat % 2 ^ 32 + 2) ∧
    (∃ (s : State) (c k : Nat) (d : Reg) (key : Nat) (gen : BitVec 32), (s.slot c k).st = .parked ∧ (s.slot c k).pend = .barm d key gen ∧
      (s.memLoad (s.cipherKey c) key 8).toNat / 2 ^ 32 % 2 ^ 32 = gen.toNat) ∧
    (∃ (s : State) (d a : Reg) (l : Loc), s.me.park = 6 ∧ s.locate (s.me.reg a) 8 .atomic true true = .ok l ∧ s.me.badG.getLsbD d.toNat = false ∧
      s.me.badG.getLsbD a.toNat = false ∧ s.badWord l.key = false) :=
  let s (n : Word) : State := mapped (small [(2, 0x10000), (3, n)]) page
  let sent (n : Word) : State := ran (.barm 6 2 3 1) (s n)
  let l : Loc := ⟨0x20000, .home 4, .normal, false, false⟩
  ⟨⟨s 1, 6, 2, 3, 1, l, rfl, rfl, by decide, passes_of (by decide), loc_of (by decide), rfl, ⟨4, rfl⟩, by decide, rfl, by decide⟩,
    ⟨sent 1, 0, 0, 6, 0x10000, l, 1, by decide, by decide, by decide, by decide, by decide, by decide⟩,
    ⟨sent 2, 0, 0, 6, 0x10000, l, 2, by decide, by decide, by decide, by decide, by decide, by decide⟩,
    ⟨ran (.atomicPerform 0 0) (sent 2), 0, 0, 6, 0x20000, 0, by decide, by decide, by decide⟩,
    ⟨ran (.atomicPerform 0 0) (sent 2), 6, 2, l, by decide, loc_of (by decide), by decide, by decide, by decide⟩⟩

theorem witness_VectorMemoryMovesEnabledLanes :
    (∃ s i d idx srcs m addr, vecMemOf i = some (d, idx, srcs, m, false, addr) ∧ Passes s .user false [d] idx (srcs ++ maskSrc m) none ∧
      LanesGood s m (addr s) ∧ ∀ j < 32, en s m j = true → s.loadBad s.curCore s.curSlot (laneAddr s (addr s j)) 4 = false) ∧
    (∃ s i d idx srcs m addr, vecMemOf i = some (d, idx, srcs, m, true, addr) ∧ Passes s .user false [] (d :: idx) (srcs ++ maskSrc m) none ∧
      LanesGood s m (addr s) ∧ lanesOn s m ≠ []) ∧
    (∃ s i d idx srcs m addr, vecMemOf i = some (d, idx, srcs, m, true, addr) ∧ Passes s .user false [] (d :: idx) (srcs ++ maskSrc m) none ∧
      FirstBadLane s m (addr s) 1 5) ∧
    (∃ s i d idx srcs m addr, vecMemOf i = some (d, idx, srcs, m, false, addr) ∧ Passes s .user false [d] idx (srcs ++ maskSrc m) none ∧
      FirstBadLane s m (addr s) 0 6) ∧
    (∃ (s : State) (c k : Nat) (e : StoreEnt) (rest : List StoreEnt), (s.slot c k).buf = e :: rest ∧ s.mayLeave c k = true ∧ e.loc.place = .lmem c ∧
      (s.slot c k).drainCyc ≠ s.now + 1 ∧ ∃ key w ls, e.lanes = (key, w) :: ls ∧ ls ≠ [] ∧ key % 4 = 0) :=
  ⟨⟨small [(1, loc 0x3FFF8), (5, 3)], .vld 2 1 5, _, _, _, _, _, rfl, passes_of (by decide), by unfold LanesGood LaneOutside; decide, by decide⟩,
    ⟨small [(1, loc 0x3FFF8), (5, 3)], .vst 2 1 5, _, _, _, _, _, rfl, passes_of (by decide), by unfold LanesGood LaneOutside; decide, by decide⟩,
    ⟨small [(1, loc 0x3FFFC), (5, 3)], .vst 2 1 5, _, _, _, _, _, rfl, passes_of (by decide), by unfold FirstBadLane LaneOutside; decide⟩,
    ⟨small [(1, loc 2), (5, 3)], .vld 2 1 5, _, _, _, _, _, rfl, passes_of (by decide), by unfold FirstBadLane LaneOutside; decide⟩,
    ⟨later 12 (ran (.vst 2 1 5) (small [(1, loc 0x3FFF8), (5, 3)])), 0, 0, _, _, rfl, by decide, by decide, by decide, _, _, _, rfl, by decide, by decide⟩⟩

theorem witness_ArrivalsClaimFreshThreads :
    (∃ r : Room, r.slot < 16 ∧ r.vbase + r.vsize ≤ 16 ∧ ∀ o n, r.spad = some (o, n) → o + n ≤ 2 ^ 18) ∧
    (∃ (s : State) (c : Nat) (a : Arrival) (r : Room), s.accepts c = true ∧ earliestHead (s.claimingHeads c) = some (a, r)) ∧
    (∃ (s : State) (c : Nat) (k : KernRef) (r : Room), s.room c k false = some r) :=
  ⟨⟨⟨15, 12, 4, some (0x3FFC0, 64)⟩, by decide, by decide, fun o n h => by cases h; decide⟩,
    ⟨(withCap (small []) cap1).modCore 0 (fun x => { x with links := [guest .launch 1 5, guest .fire 2 3] }), 0, guest .fire 2 3,
      ⟨1, 4, 1, some (0x1040, 64)⟩, by decide, by decide⟩,
    ⟨withCap (small []) cap1, 0, ⟨1, 0, 1⟩, ⟨1, 4, 1, some (0x1040, 64)⟩, by decide⟩⟩

theorem witness_SpawnStartsAChildOrRunsItInline :
    let full : List (Reg × Word) := [(1, 0), (2, 0), (3, 0), (4, 0), (6, 0x10000), (7, 1), (8, 3072), (9, 4)]
    let s := withCap (small full) cap1
    (PassesG s false (spawnSrcs 1 6) none ∧ s.me.st = .ready ∧ s.entryKernel s.me (s.src 6) = some ⟨1, 0, 1⟩ ∧ s.me.buf = [] ∧ un s 1 = s.curCore ∧
      s.admits s.curCore ⟨1, 0, 1⟩ = some ⟨1, 4, 1, some (0x1040, 64)⟩) ∧
    (PassesG s false (spawnSrcs 7 6) none ∧ un s 7 ≤ 3071 ∧ (s.core (un s 7)).owner = (s.core s.curCore).owner ∧ un s 7 ≠ s.curCore) ∧
    (PassesG s false (spawnSrcs 8 6) none ∧ 3071 < un s 8) ∧ (PassesG s false (spawnSrcs 1 9) none ∧ s.entryKernel s.me (s.src 9) = none) ∧
    (let u := withCap (small full) { cap1 with kernels := [⟨1, 64, 1⟩] };
      PassesG u false (spawnSrcs 1 6) none ∧ u.entryKernel u.me (u.src 6) = some ⟨1, 0, 1⟩ ∧ u.admits u.curCore ⟨1, 0, 1⟩ = none) ∧
    (let t := ran (.spawn 7 6) s;
      (t.slot 0 0).st = .parked ∧ (t.slot 0 0).pend = .spawn 1 0x10000 0 [0, 0, 0, 0] none ∧ (t.slot 0 0).kern = some ⟨1, 0, 1⟩ ∧
      (t.core 1).claimCyc ≠ t.now + 1 ∧ t.admits 1 ⟨1, 0, 1⟩ = none) ∧
    (let t := ran (.spawnPacket 0 0) (ran (.spawn 7 6) s);
      (t.slot 0 0).st = .parked ∧ (t.slot 0 0).pend = .spawn 1 0x10000 0 [0, 0, 0, 0] (some false)) :=
  ⟨⟨passes_of (by decide), by decide, by decide, by decide, by decide, by decide⟩, ⟨passes_of (by decide), by decide, by decide, by decide⟩,
    ⟨passes_of (by decide), by decide⟩, ⟨passes_of (by decide), by decide⟩, ⟨passes_of (by decide), by decide, by decide⟩, by decide, by decide⟩

theorem whole_of {x : Slot} {n : Nat} (h : ∀ i < n + 1, x.badG.getLsbD i = false) : CarriesWhole x n := fun i _ b => h i (by omega)

/-- The thread has no window. -/
def bare (s : State) : State := s.modMe (fun x => { x with sw := 0, spad := none, kern := some ⟨1, 0, 1⟩ })

theorem witness_QuitAndMigrationFreeTheSlot :
    (∃ s : State, PassesG s false (if s.me.inline_ = true then [15] else []) none ∧ s.me.guardRec = none ∧ s.me.inline_ = false) ∧
    (∃ s : State, PassesG s false (if s.me.inline_ = true then [15] else []) none ∧ s.me.guardRec = none ∧ s.me.inline_ = true ∧ s.me.reg 15 = 0x2001) ∧
    (∃ s : State, PassesG s false (if s.me.inline_ = true then [15] else []) none ∧ s.me.guardRec = some ⟨0, 0x1000, 1⟩) ∧
    (∃ (s : State) (a : Reg), PassesG s false [a] none ∧ 0 < s.me.vsize) ∧
    (∃ (s : State) (a : Reg) (l : Loc), PassesG s false [a] none ∧ s.me.vsize = 0 ∧ s.me.spad = none ∧ s.me.chain = false ∧ s.me.inline_ = false ∧
      s.locate (s.src a) 1 .load true false = .ok l ∧ owningCore l = some 1 ∧ 1 ≠ s.curCore ∧ (s.core 1).owner = (s.core s.curCore).owner ∧
      CarriesWhole s.me 10) ∧
    (∃ (s : State) (a : Reg), PassesG s false [a] none ∧ FirstBadG s.me 10 10) ∧
    (∃ (s : State) (c k n : Nat) (kr : KernRef), (s.slot c k).st = .parked ∧ (s.slot c k).pend = .migr n ∧ (s.slot c k).kern = some kr ∧
      s.quiet c k = true ∧ CarriesWhole (s.slot c k) 10) :=
  let m := (bare (small [(1, BitVec.ofNat 64 (2 ^ 56 + 2 ^ 18))])).modCore 1 (fun x => { x with wten := 1 })
  ⟨⟨small [], passes_of (by decide), by decide, by decide⟩,
    ⟨(small [(15, 0x2001)]).modMe (fun x => { x with sw := x.sw ||| 1 }), passes_of (by decide), by decide, by decide, by decide⟩,
    ⟨(small []).modMe (fun x => { x with guardRec := some ⟨0, 0x1000, 1⟩ }), passes_of (by decide), by decide⟩,
    ⟨small [(1, loc 0)], 1, passes_of (by decide), by decide⟩,
    ⟨m, 1, ⟨2 ^ 56 + 2 ^ 18, .lmem 1, .normal, false, true⟩, passes_of (by decide), by decide, by decide, by decide, by decide, loc_of (by decide), by decide, by decide, by decide,
      whole_of (by decide)⟩,
    ⟨ran (.softError (.gReg 0 0 10) false) m, 1, passes_of (by decide), by decide, by decide, by decide, fun j a b => by interval_cases j <;> decide⟩,
    ⟨ran (.migr 1) m, 0, 0, 1, ⟨1, 0, 1⟩, by decide, by decide, by decide, by decide, whole_of (by decide)⟩⟩

theorem witness_TasksAndRegistersAreSent :
    (∃ (s : State) (a b c : Reg), PassesG s false [a, b, c] none ∧ s.entryKernel s.me (s.src a) = some ⟨1, 0, 1⟩ ∧ ControlWord (s.src b) ∧
      CarriesWhole s.me 8 ∧ s.quiet s.curCore s.curSlot = true) ∧
    (∃ (s : State) (a b c : Reg), PassesG s false [a, b, c] none ∧ s.entryKernel s.me (s.src a) = some ⟨1, 0, 1⟩ ∧ ¬ControlWord (s.src b)) ∧
    (∃ (s : State) (a b : Reg), PassesG s false [a, b] none ∧ isCompute s.curCore = true ∧
      (s.core (quadCore s.curCore (un s b / 16 % 4))).owner = (s.core s.curCore).owner) ∧
    (∃ (s : State) (a b : Reg), PassesG s false [a, b] none ∧ isCompute s.curCore = false) ∧
    (∃ (s : State) (c k : Nat) (r : RputFlight), s.pkg.rputs.find? (fun x => x.core = c && x.slot = k) = some r ∧ (s.core r.tcore).health ≠ .stopped ∧
      (s.slot r.tcore r.tslot).st = .ready ∧ (s.slot r.tcore r.tslot).claims = r.claim ∧ (s.slot r.tcore r.tslot).tenant = r.tenant ∧ r.d ≠ 0) :=
  let s := withCap (small [(1, 0x10000), (2, 7), (3, 0), (4, 8)]) cap1
  let w := (small [(1, 9), (2, 0x1F)]).setSlot 1 15 { Slot.reset with st := .ready, tenant := 1 }
  ⟨⟨s, 1, 2, 3, passes_of (by decide), by decide, by unfold ControlWord; decide, whole_of (by decide), by decide⟩,
    ⟨s, 1, 4, 3, passes_of (by decide), by decide, by unfold ControlWord; decide⟩,
    ⟨w, 1, 2, passes_of (by decide), by decide, by decide⟩, ⟨at_ 8192 [(1, 9), (2, 0)], 1, 2, passes_of (by decide), by decide⟩,
    ⟨ran (.rput 3 1 2) w, 0, 0, ⟨0, 0, 1, 15, 0, 1, 3, 9⟩, by decide, by decide, by decide, by decide, by decide, by decide⟩⟩

theorem witness_WaitsAndTheChainBit :
    (∃ s : State, PassesG s false [] none ∧ s.latch s.curCore s.curSlot = false) ∧
    (∃ s : State, PassesG s false [] none ∧ s.latch s.curCore s.curSlot = true ∧ s.curSlot < 16) ∧
    (∃ (s : State) (c k n : Nat), (s.slot c k).st = .parked ∧ (s.slot c k).pend = .yieldTill n ∧ n ≤ s.now) ∧
    (∃ (s : State) (c k n : Nat), (s.slot c k).st = .parked ∧ (s.slot c k).pend = .yieldTill n ∧ s.now < n) :=
  ⟨⟨small [], passes_of (by decide), by decide⟩,
    ⟨(small []).modCore 0 (fun x => { x with latch := 1 }), passes_of (by decide), by decide, by decide⟩,
    ⟨{ ran .yield (small []) with now := 256 }, 0, 0, 256, by decide, by decide, by decide⟩,
    ⟨{ ran .yield (small []) with now := 255 }, 0, 0, 256, by decide, by decide, by decide⟩⟩

theorem witness_HardwareBarriersCountAndRelease :
    (∃ (s : State) (id : BitVec 6) (lv : BitVec 3), (Instr.bar id lv).wf = true ∧ PassesG s false [] none ∧ s.me.park ≠ 6 ∧ s.me.guardRec = none ∧
      s.curSlot < 16 ∧ s.quiet s.curCore s.curSlot = true ∧ s.me.buf = [] ∧ lv = 3 ∧
      (s.bar 3 (barInst 3 s.curCore) id.toNat).count = (s.bar 3 (barInst 3 s.curCore) id.toNat).arr + 1) ∧
    (∃ (s : State) (id : BitVec 6) (lv : BitVec 3), (Instr.bar id lv).wf = true ∧ PassesG s false [] none ∧ s.me.park ≠ 6 ∧ s.me.guardRec = none ∧
      s.curSlot < 16 ∧ s.quiet s.curCore s.curSlot = true ∧ s.me.buf = [] ∧ lv = 3 ∧
      (s.bar 3 (barInst 3 s.curCore) id.toNat).arr + 1 < (s.bar 3 (barInst 3 s.curCore) id.toNat).count) ∧
    (∃ (s : State), (ran (.bar 3 3) s).me.park = 6) ∧
    (∃ (s : State) (c k id : Nat), (s.slot c k).st = .parked ∧ (s.slot c k).pend = .barSent id none ∧ (s.bar 5 0 id).count ≤ (s.bar 5 0 id).arr + 1) ∧
    (∃ (s : State) (id gen due r : Nat), s.pkg.rels.find? (fun x => x.1 = id && decide (x.2.2.1 ≤ s.now)) = some (id, gen, due, r)) :=
  let counted (lv n : Nat) : State := (small []).modPkg (fun p => { p with bars := Tab.put p.bars (barKey lv (barInst lv 0) 3) ⟨n, 0, 0, 0⟩ })
  ⟨⟨counted 3 1, 3, 3, rfl, passes_of (by decide), by decide, by decide, by decide, by decide, by decide, rfl, by decide⟩,
    ⟨counted 3 2, 3, 3, rfl, passes_of (by decide), by decide, by decide, by decide, by decide, by decide, rfl, by decide⟩,
    ⟨counted 3 2, by decide⟩, ⟨ran (.bar 3 5) (counted 5 1), 0, 0, 3, by decide, by decide, by decide⟩,
    ⟨{ ran (.pkgBarrierArrival 0 0) (ran (.bar 3 5) (counted 5 1)) with now := 120 }, 3, 0, 120, 0, by decide⟩⟩

/-- A stamped page, and clocks of its home die and of the slot's die that read E and L. -/
def stampedAt (regs : List (Reg × Word)) (e l : Nat) : State :=
  let s := mapped (small regs) { page with ty := .stamped }
  (s.modDie 4 (fun d => { d with clkE := e, clkL := l })).modDie 0 (fun d => { d with clkE := e, clkL := l })
/-- The location at the base of that page. -/
def stampedLoc : Loc := ⟨0x20000, .home 4, .stamped, false, false⟩

theorem witness_ClockReadsAndStampedAccesses :
    (∃ (s : State) (d a : Reg), (Instr.tnow d a).wf = true ∧ PassesG s false [] (if a = 14 then some a else some d)) ∧
    (∃ s i srcs d a acc wr p l, stampedOf i = some (srcs, d, a, acc, false, wr, p) ∧ PassesG s false srcs (some d) ∧ wr = true ∧
      s.quiet s.curCore s.curSlot = true ∧ s.locate (s.src a) 8 acc false wr = .ok l ∧ l.ty = .stamped ∧ ¬Widened s (dieOf s.curCore)) ∧
    (∃ s i srcs d a acc p l, stampedOf i = some (srcs, d, a, acc, true, false, p) ∧ PassesG s false srcs (some d) ∧
      s.locate (s.src a) 8 acc true false = .ok l ∧ l.ty = .stamped ∧ Widened s (dieOf s.curCore)) ∧
    (∃ s i srcs d a acc p l, stampedOf i = some (srcs, d, a, acc, true, false, p) ∧ PassesG s false srcs (some d) ∧
      s.locate (s.src a) 8 acc true false = .ok l ∧ l.ty ≠ .stamped) :=
  ⟨⟨small [], 3, 4, rfl, passes_of (by decide)⟩,
    ⟨stampedAt [(1, 0x10000), (2, 7), (3, 0)] 100 164, .scas 5 1 2 3, [1, 2, 3], 5, 1, .atomic, true, _, stampedLoc, rfl, passes_of (by decide), rfl, by decide,
      loc_of (by decide), rfl, by unfold Widened; decide⟩,
    ⟨stampedAt [(1, 0x10000), (2, 7)] 100 165, .ldas 5 1 2, [1, 2], 5, 1, .load, _, stampedLoc, rfl, passes_of (by decide), loc_of (by decide), rfl,
      by unfold Widened; decide⟩,
    ⟨small [(1, loc 0), (2, 7)], .ldas 5 1 2, [1, 2], 5, 1, .load, _, here 0, rfl, passes_of (by decide), loc_of (by decide), by decide⟩⟩

/-- A stamped store has been sent with stamp 164. -/
def stampSent (e l : Nat) : State :=
  let s := ran (.sts 5 1 2) (stampedAt [(1, 0x10000), (2, 7)] 100 164)
  s.modDie 4 (fun d => { d with clkE := e, clkL := l })

theorem witness_StampedStoresBecomeVersions :
    (let s := stampSent 1164 1200;
      (s.slot 0 0).st = .parked ∧ (s.slot 0 0).pend = .stamped false 5 0x10000 stampedLoc 164 7 0 .sent ∧ ¬Widened s 4 ∧
      ¬164 + (s.die 4).dlate < clkE s 4 ∧ s.heldBefore (stampedLoc.key / 64) s.pkg.stampSeq = false ∧
      roomFor (s.versions (stampedLoc.key / 64)) (clkE s 4) = true) ∧
    (let s := parkedAt ((stampSent 1164 1200).setBadWord stampedLoc.key true) 0 0 (.stamped true 5 0x10000 stampedLoc 164 7 0 .sent);
      (s.slot 0 0).st = .parked ∧ s.lostPlace stampedLoc 0x10000 = none ∧ ¬Widened s 4 ∧ ¬164 + (s.die 4).dlate < clkE s 4 ∧
      s.heldBefore (stampedLoc.key / 64) s.pkg.stampSeq = false ∧ s.badWord stampedLoc.key = true) ∧
    (let s := stampSent 1165 1200;
      ¬Widened s 4 ∧ 164 + (s.die 4).dlate < clkE s 4) ∧
    (Widened (stampSent 1000 1100) 4) ∧
    (let s := stampSent 1000 1010;
      let t := parkedAt s 0 1 (.stamped false 5 0x10000 stampedLoc 164 7 0 (.held 3));
      ∃ p, t.slots.find? (fun q => match heldOn (stampedLoc.key / 64) q.2 with
        | some m => !t.heldBefore (stampedLoc.key / 64) m
        | none => false) = some p ∧ heldOn (stampedLoc.key / 64) p.2 = some 3) ∧
    (let s := ran (.stampedStoreArrival 0 0) (stampSent 100 164);
      (s.slot 0 0).st = .parked ∧ (s.slot 0 0).pend = .stamped false 5 0x10000 stampedLoc 164 7 0 (.commit 164 164) ∧ clkE s 4 ≤ 164) ∧
    (let s := (ran (.stampedStoreArrival 0 0) (stampSent 100 164)).modDie 4 (fun d => { d with clkE := 165, clkL := 166 });
      164 < clkE s 4 ∧
      (let t := ran (.commitWaitEnd 0 0) s;
      (t.slot 0 0).st = .parked ∧ (t.slot 0 0).pend = .stamped false 5 0x10000 stampedLoc 164 7 0 (.answered 0 164))) :=
  ⟨⟨by decide, by decide, by unfold Widened; decide, by decide, by decide, by decide⟩,
    ⟨by decide, by decide, by unfold Widened; decide, by decide, by decide, by decide⟩, ⟨by unfold Widened; decide, by decide⟩, by unfold Widened; decide,
    ⟨(1, { Slot.reset with st := .parked, pend := .stamped false 5 0x10000 stampedLoc 164 7 0 (.held 3) }), by decide, by decide⟩,
    ⟨by decide, by decide, by decide⟩, ⟨by decide, by decide, by decide⟩⟩

theorem witness_AsOfLoadsAndStampedBarriers :
    (∃ (s : State) (c k stamp : Nat) (d : Reg) (va : Word) (l : Loc), (s.slot c k).st = .parked ∧ (s.slot c k).pend = .ldas d va l stamp false ∧
      s.lostPlace l va = none ∧ ¬Widened s (s.homeClockDie l)) ∧
    (∃ (s : State) (c k stamp : Nat) (d : Reg) (va : Word) (l : Loc), (s.slot c k).st = .parked ∧ (s.slot c k).pend = .ldas d va l stamp true ∧
      s.lostPlace l va = none ∧ stamp + (s.die (s.homeClockDie l)).dlate < clkE s (s.homeClockDie l) ∧ s.heldUpTo (l.key / 64) stamp = false ∧
      ((s.versions (l.key / 64)).filter (fun v => decide (v.stamp ≤ stamp))).length = 1 ∧ s.badWord l.key = false) ∧
    (∃ (s : State) (d : Reg), PassesG s false [] (some d) ∧ s.me.park ≠ 6 ∧ s.me.guardRec = none ∧ ¬Widened s (dieOf s.curCore) ∧
      s.quiet s.curCore s.curSlot = true) ∧
    (∃ (s : State) (c k r due : Nat) (d : Reg), (s.slot c k).st = .parked ∧ (s.slot c k).pend = .sbarRel d r due ∧ r < clkE s (dieOf c)) :=
  let s := ran (.ldas 5 1 2) (stampedAt [(1, 0x10000), (2, 7)] 100 164)
  ⟨⟨s, 0, 0, 7, 5, 0x10000, stampedLoc, by decide, by decide, by unfold Widened; decide⟩,
    ⟨(ran (.ldasArrival 0 0) s).modDie 4 (fun d => { d with clkE := 1008, clkL := 1010 }), 0, 0, 7, 5, 0x10000, stampedLoc, by decide, by decide, by decide,
      by decide, by decide, by decide, by decide⟩,
    ⟨small [], 3, passes_of (by decide), by decide, by decide, by unfold Widened; decide, by decide⟩,
    ⟨waiting (stampedAt [] 8 9) (.sbarRel 3 7 0), 0, 0, 7, 0, 3, by decide, by decide, by decide⟩⟩

/-- Eight bytes of memory hold a word. -/
def put8 (s : State) (k : Nat) (v : Word) : State := s.agentWrite none 0 k 8 v

/-- A descriptor that names cluster n stands in own local memory. -/
def naming (n : Nat) : State := put8 (small [(2, loc 0x200), (3, 0)]) (key 0x200) (BitVec.ofNat 64 (n * 2 ^ 23))

/-- The descriptor at 0x200 of own local memory, of these two lines and this cluster. -/
theorem descriptor_of {s : State} {va : Word} {l1 l2 : Loc} {n : Nat} (h1 : va.toNat % 64 = 0) (h2 : leads s va true false = .ok l1)
    (h3 : leads s va true true = .ok l1) (h4 : leads s (va + 64) true true = .ok l2) (h5 : plainLoc l1 && plainLoc l2 && !l1.window && !l2.window)
    (h6 : s.reachable l1 = true ∧ s.badWord l1.key = false) (h7 : n = bits (s.wordAs (s.cipherKey s.curCore) l1.key) 23 9) :
    DescriptorAt s va l1 l2 n := by
  simp only [Bool.and_eq_true, Bool.not_eq_true'] at h5
  obtain ⟨⟨⟨a, b⟩, c⟩, d⟩ := h5
  exact ⟨h1, ⟨l1, h2⟩, ⟨h3, a, fun n h => by rw [c] at h; cases h⟩, ⟨h4, b, fun n h => by rw [d] at h; cases h⟩, h6, h7⟩

theorem witness_JobsAreAcceptedOrRefused :
    (∃ s i copy fn d a b l1 l2 cluster, submitOf i = some (copy, fn, d, a, b) ∧ i.wf = true ∧ PassesG s false [a, b] (some d) ∧ s.me.buf = [] ∧
      s.quiet s.curCore s.curSlot = true ∧ DescriptorAt s (s.src a) l1 l2 cluster ∧ cluster = 383) ∧
    (∃ s i copy fn d a b l1 l2 cluster, submitOf i = some (copy, fn, d, a, b) ∧ i.wf = true ∧ PassesG s false [a, b] (some d) ∧ s.me.buf = [] ∧
      s.quiet s.curCore s.curSlot = true ∧ DescriptorAt s (s.src a) l1 l2 cluster ∧ cluster = 384) ∧
    (∃ s i copy fn d a b, submitOf i = some (copy, fn, d, a, b) ∧ i.wf = true ∧ PassesG s false [a, b] (some d) ∧ s.me.buf = [] ∧
      s.quiet s.curCore s.curSlot = true ∧ un s a % 8 = 0 ∧ (∃ l, leads s (s.src a) true false = .ok l) ∧ un s a % 64 ≠ 0) ∧
    (∃ s i copy fn d a b, submitOf i = some (copy, fn, d, a, b) ∧ i.wf = true ∧ PassesG s false [a, b] (some d) ∧ s.me.buf = [] ∧
      s.quiet s.curCore s.curSlot = true ∧ un s a % 8 = 0 ∧ leads s (s.src a) true false = .walk) ∧
    (∃ s i copy fn d a b, submitOf i = some (copy, fn, d, a, b) ∧ i.wf = true ∧ PassesG s false [a, b] (some d) ∧ s.me.buf = [] ∧
      s.quiet s.curCore s.curSlot = true ∧ un s a % 8 = 0 ∧ ∃ f, leads s (s.src a) true false = .fault f) ∧
    (∃ (s : State) (c k : Nat) (d : Reg) (va : Word) (rd wr : Bool) (p q r : Word), (s.slot c k).st = .parked ∧
      (s.slot c k).pend = .walk va (.desc d) rd wr p q r ∧ WalkEnds s c k va (.desc d) rd wr p q r .bad) ∧
    (∃ (s : State) (c k fn cluster : Nat) (copy : Bool) (d : Reg) (va : Word) (l1 l2 : Loc) (cap : Word), (s.slot c k).st = .parked ∧
      (s.slot c k).pend = .jobReq copy fn d va l1 l2 cap cluster ∧ (s.unit cluster copy).accCyc ≠ s.now + 1 ∧
      (s.cluster cluster).touchCyc ≠ s.now + 1 ∧ s.reachable l1 = true ∧ s.reachable l2 = true ∧ s.lostPlace l1 va = none ∧ s.lostPlace l2 va = none ∧
      (∀ i < 14, s.badWord (if i < 8 then l1.key + 8 * i else l2.key + 8 * (i - 8)) = false) ∧
      refusalCode s cluster copy fn d (descriptor s c l1 l2) cap (s.slot c k).tenant (s.core c).owner = some 2) ∧
    (∃ (s : State) (c k fn cluster : Nat) (copy : Bool) (d : Reg) (va : Word) (l1 l2 : Loc) (cap : Word),
      (s.slot c k).pend = .jobReq copy fn d va l1 l2 cap cluster ∧ s.lostPlace l1 va = none ∧ s.lostPlace l2 va = none ∧
      s.badWord (l2.key + 40) = true) ∧
    (∃ (s : State) (c k cluster : Nat) (copy : Bool) (d : Reg) (ans : JobAns), (s.slot c k).st = .parked ∧
      (s.slot c k).pend = .jobAns d copy cluster ans) :=
  let sent := ran (.mxq 5 2 3 1) (naming 383)
  let far := ran (.cpq 5 2 3 0) (small [(2, 0x10000), (3, 0)])
  ⟨⟨naming 383, .mxq 5 2 3 1, false, 1, 5, 2, 3, here 0x200, here 0x240, 383, rfl, rfl, passes_of (by decide), by decide, by decide,
      descriptor_of (by decide) rfl rfl rfl (by decide) (by decide) (by decide), rfl⟩,
    ⟨naming 384, .mxq 5 2 3 1, false, 1, 5, 2, 3, here 0x200, here 0x240, 384, rfl, rfl, passes_of (by decide), by decide, by decide,
      descriptor_of (by decide) rfl rfl rfl (by decide) (by decide) (by decide), rfl⟩,
    ⟨small [(2, loc 0x220), (3, 0)], .cpq 5 2 3 0, _, _, _, _, _, rfl, rfl, passes_of (by decide), by decide, by decide, by decide, ⟨_, rfl⟩, by decide⟩,
    ⟨small [(2, 0x10000), (3, 0)], .cpq 5 2 3 0, _, _, _, _, _, rfl, rfl, passes_of (by decide), by decide, by decide, by decide, by decide⟩,
    ⟨small [(2, loc 0x40000), (3, 0)], .cpq 5 2 3 0, _, _, _, _, _, rfl, rfl, passes_of (by decide), by decide, by decide, by decide, .addr, by decide⟩,
    ⟨put8 far 0 0x8000000000000001, 0, 0, 5, 0x10000, true, false, 0, 0, 0, by decide, by decide,
      ⟨(fun e h => by cases (show (none : Option TlbEnt) = some e from h)), fun _ => by decide⟩⟩,
    ⟨sent, 0, 0, 1, 383, false, 5, loc 0x200, here 0x200, here 0x240, 0, by decide, by decide, by decide, by decide, by decide, by decide, by decide,
      by decide, by decide, by decide⟩,
    ⟨ran (.softError (.memWord (key 0x268)) false) sent, 0, 0, 1, 383, false, 5, loc 0x200, here 0x200, here 0x240, 0, by decide, by decide, by decide,
      by decide⟩,
    ⟨ran (.jobRequest 0 0) sent, 0, 0, 383, false, 5, .refused 2, by decide, by decide⟩⟩

/-- A descriptor that every check of Table 14.2 lets pass, with a capability that names its cluster, is accepted: a FILL of four bytes. -/
def fillReady : State :=
  let s := put8 (put8 (put8 (small [(2, loc 0x200), (3, 0x700000000)]) (key 0x208) 0x10000) (key 0x210) 0x10000) (key 0x218) 4
  s.modCluster 0 (fun x => { x with caps := [(0, 0x80FF010000000007)] })

/-- A job of cluster 0. -/
def job (seq : Nat) (rmask : Nat) (stage : JobStage) : Job :=
  { seq := seq, fn := 0, dws := [0, 0, 0, 0, 0, BitVec.ofNat 64 (rmask * 2 ^ 44)], line1 := here 0x200, line2 := here 0x240, tenant := 1, owner := 0,
    ckey := 0, core := 0, slot := 0, claim := 0, creg := 0, tile := 0, scaleA := [], scaleB := [], mayPost := true, recWords := [], pos := 0, fl := 0,
    last := 0, stage := stage, pageWait := false, ring := [], bs := [] }
/-- The engine or the copy unit of cluster 0 has accepted it. -/
def holds (copy : Bool) (l : List Job) : State := (small [(1, 1)]).modUnit 0 copy (fun _ => ⟨l, 2, 0, [1, 1], 0⟩)

theorem witness_JobsArePolledAndAwaited :
    (∃ (s : State) (d a : Reg), PassesG s false [a] (some d)) ∧
    (∃ (s : State) (c k : Nat) (d : Reg) (id : Word), (s.slot c k).st = .parked ∧ (s.slot c k).pend = .asked (.jpoll d id)) ∧
    (∃ (s : State) (a : Reg), PassesG s false [a] none ∧ s.jobStatus s.me.tenant (s.src a) = 0) ∧
    (∃ (s : State) (a : Reg), PassesG s false [a] none ∧ s.jobStatus s.me.tenant (s.src a) = 2) ∧
    (∃ (s : State) (cluster n : Nat) (copy : Bool), cluster < 384 ∧ 1 ≤ n ∧ n ≤ (s.unit cluster copy).issued ∧ (s.unit cluster copy).issued < n + 2 ^ 21 ∧
      (s.unit cluster copy).through_ ≤ (s.unit cluster copy).issued) :=
  ⟨⟨small [(1, 1)], 2, 1, passes_of (by decide)⟩, ⟨ran (.jpoll 2 1) (small [(1, 1)]), 0, 0, 2, 1, by decide, by decide⟩,
    ⟨holds false [job 1 0 .queued, job 2 0 .queued], 1, passes_of (by decide), by decide⟩,
    ⟨small [(1, 0)], 1, passes_of (by decide), by decide⟩,
    ⟨holds false [job 1 0 .queued, job 2 0 .queued], 0, 1, false, by decide, by decide, by decide, by decide, by decide⟩⟩

theorem witness_JobsStartEndAndComplete :
    (∃ (s : State) (j : Job), s.openingJob 0 true = none ∧ s.nextJob 0 true = some j) ∧
    (∃ (s : State) (j : Job), s.openingJob 0 false = none ∧ s.nextJob 0 false = some j ∧ j.rmask ≠ 0 ∧ j.stage = .queued ∧
      (s.setJob 0 false { j with stage := .waiting s.now }).ringGroup 0 j = none) ∧
    (∃ (s : State) (j : Job) (l : List (Nat × Job)), s.openingJob 0 false = none ∧ s.nextJob 0 false = some j ∧ j.rmask ≠ 0 ∧ j.stage ≠ .queued ∧
      s.ringGroup 0 j = some l ∧ l.all (fun p => ringFits p.2 j) = true) ∧
    (∃ (s : State) (j : Job) (l : List (Nat × Job)), s.openingJob 0 false = none ∧ s.nextJob 0 false = some j ∧ j.rmask ≠ 0 ∧ j.stage ≠ .queued ∧
      s.ringGroup 0 j = some l ∧ l.all (fun p => ringFits p.2 j) = false) ∧
    (∃ (s : State) (j : Job), s.openingJob 0 true = some j ∧ j.pageWait = false) ∧
    (∃ (s : State) (since : Nat) (j : Job), s.nextJob 0 false = some j ∧ j.stage = .waiting since ∧ since + 1250000 = s.now) ∧
    (∃ (s : State) (j : Job), (s.unit 0 true).jobs.find? (fun x => decide (x.stage = .running) && x.seq = j.seq && !x.pageWait) = some j ∧
      j.pos + 1 = j.parts 0 true) ∧
    (∃ (s : State) (j : Job), s.runningJob 0 true = some j ∧ j.pageWait = false) ∧
    (∃ (s : State) (j : Job) (rest : List Job) (code detail : Nat) (fl : BitVec 8) (faddr : Word), (s.unit 0 true).jobs = j :: rest ∧
      j.stage = .ended code detail fl faddr ∧ s.unanswered 0 true j = false ∧ j.pageWait = false ∧ s.reachable j.line2 = true ∧
      j.line2.rp = false) ∧
    (∃ (s : State) (j : Job), s.runningJob 0 false = some j ∧ j.pageWait = false ∧ j.tile < 2) :=
  ⟨⟨holds true [job 1 0 .queued], job 1 0 .queued, by decide, by decide⟩,
    ⟨holds false [job 1 3 .queued], job 1 3 .queued, by decide, by decide, by decide, rfl, by decide⟩,
    ⟨holds false [job 1 1 (.waiting 0)], job 1 1 (.waiting 0), [(0, job 1 1 (.waiting 0))], by decide, by decide, by decide, by decide, by decide, by decide⟩,
    ⟨(holds false [job 1 3 (.waiting 0)]).modUnit 1 false (fun _ => ⟨[{ job 1 3 (.waiting 0) with fn := 1 }], 2, 0, [1, 1], 0⟩), job 1 3 (.waiting 0),
      [(0, job 1 3 (.waiting 0)), (1, { job 1 3 (.waiting 0) with fn := 1 })], by decide, by decide, by decide, by decide, by decide, by decide⟩,
    ⟨holds true [job 1 0 .opening], job 1 0 .opening, by decide, rfl⟩,
    ⟨{ holds false [job 1 3 (.waiting 5)] with now := 1250005 }, 5, job 1 3 (.waiting 5), by decide, rfl, rfl⟩,
    ⟨holds true [job 1 0 .running], job 1 0 .running, by decide, by decide⟩,
    ⟨holds true [job 1 0 .running], job 1 0 .running, by decide, rfl⟩,
    ⟨holds true [job 1 0 (.ended 0 0 0 0)], job 1 0 (.ended 0 0 0 0), [], 0, 0, 0, 0, by decide, rfl, by decide, rfl, by decide, rfl⟩,
    ⟨holds false [job 1 0 .running], job 1 0 .running, by decide, rfl, by decide⟩⟩

theorem witness_AJobIsAccepted :
    let t := ran (.jobRequest 0 0) (ran (.cpq 5 2 3 3) fillReady)
    (t.slot 0 0).pend = .jobAns 5 true 0 (.accepted (2 ^ 22 + 1) 0) ∧ (t.unit 0 true).issued = 1 := by decide

theorem witness_ScaleCodesReachTheEngines :
    (∃ (s : State) (a b : Reg) (o : Nat), PassesG s false [a, b] none ∧ LocalOffset s.curCore (s.src a) s.curCore o ∧ ScaleServer s (s.src b) ∧ o % 64 = 0 ∧
      (∀ n < 32, (s.core n).owner = (s.core s.curCore).owner) ∧
      ∀ i < 8, s.loadBad s.curCore s.curSlot (2 ^ 56 + s.curCore * 2 ^ 18 + o + 8 * i) 8 = false) ∧
    (∃ (s : State) (a b : Reg) (o : Nat), PassesG s false [a, b] none ∧ LocalOffset s.curCore (s.src a) s.curCore o ∧ ¬ScaleServer s (s.src b)) ∧
    (∃ (s : State) (a b : Reg) (o : Nat), PassesG s false [a, b] none ∧ LocalOffset s.curCore (s.src a) s.curCore o ∧ ScaleServer s (s.src b) ∧
      o % 64 ≠ 0) ∧
    (∃ (s : State) (c k mask block : Nat) (codes : List Byte), (s.slot c k).st = .parked ∧ (s.slot c k).pend = .scls mask block codes) :=
  ⟨⟨at_ 7 [(1, loc 0x3FFC0), (2, 0x3FF000F)], 1, 2, 0x3FFC0, passes_of (by decide), by unfold LocalOffset; decide, by unfold ScaleServer; decide, by decide,
      by decide, by decide⟩,
    ⟨at_ 6 [(1, loc 0), (2, 1)], 1, 2, 0, passes_of (by decide), by unfold LocalOffset; decide, by unfold ScaleServer; decide⟩,
    ⟨at_ 7 [(1, loc 8), (2, 1)], 1, 2, 8, passes_of (by decide), by unfold LocalOffset; decide, by unfold ScaleServer; decide, by decide⟩,
    ⟨parkedAt State.reset 7 0 (.scls 1 1023 (List.replicate 64 127)), 7, 0, 1, 1023, List.replicate 64 127, by decide, by decide⟩⟩

/-- Virtual addresses below 2^30 of every tenant are their own physical addresses. -/
def paged (s : State) : State := put8 (put8 (put8 s 0 0x1001) 0x1000 0x2001) 0x2000 0x3F

theorem translated_of {p : Word} (h : p.toNat < 2 ^ 56) : Translated p := by
  have z : ∀ i, 56 ≤ i → p.getLsbD i = false := fun i a => by
    simp only [BitVec.getLsbD]; exact Nat.testBit_lt_two_pow (Nat.lt_of_lt_of_le h (Nat.pow_le_pow_right (by decide) a))
  exact ⟨fun i a _ => by rw [z i (by omega), z 56 (by omega)], by omega, by omega⟩

/-- The pages of an image, as a computation. -/
theorem leads_of {s : State} {load : Bool} {pages : List Word}
    (h : pages.all (fun p => decide (p.toNat < 2 ^ 56) && (match leads s p load (!load) with
      | .ok l => plainLoc l && !l.rp
      | _ => false)) = true) : ∃ ls, ImageLeads s load pages ls ∧ ∀ l ∈ ls, l.rp = false := by
  induction pages with
  | nil => exact ⟨[], .nil, fun _ h => by cases h⟩
  | cons p ps ih =>
    simp only [List.all_cons, Bool.and_eq_true, decide_eq_true_eq] at h
    obtain ⟨⟨a, b⟩, c⟩ := h
    obtain ⟨ls, d, e⟩ := ih c
    split at b
    · rename_i l f
      simp only [Bool.and_eq_true, Bool.not_eq_true'] at b
      exact ⟨l :: ls, .cons ⟨translated_of a, f, b.1⟩ d, fun x y => by
        rcases List.mem_cons.mp y with rfl | y
        · exact b.2
        · exact e x y⟩
    · cases b

/-- An entry that maps the lowest 2^30 bytes of tenant 1 to themselves. -/
def wide : TlbEnt := { page with va := 0, size := 2 ^ 30, page := 2 ^ 30, pa := 0, gpa := 0 }

theorem witness_AccumulatorImagesMoveWhole :
    (∃ s i load a b tile, imageOf i = some (load, a, b, tile) ∧ PassesG s false [a, b] none ∧ s.me.buf = [] ∧ s.quiet s.curCore s.curSlot = true ∧
      (s.src a).toNat % 64 = 0 ∧ bits (s.src b) 23 9 = 0 ∧
      (∃ ls, ImageLeads s load (imagePages (s.src a) (8 * edgeOf 0 * edgeOf 0 + edgeOf 0 * edgeOf 0 / 8)) ls ∧ ∀ l ∈ ls, l.rp = false) ∧
      s.capCheck 0 (s.src b) (decide (bits (s.src b) 6 17 = 0)) s.me.tenant (s.core s.curCore).owner 2 = none ∧ s.tileLocked 0 tile = false) ∧
    (∃ s i load a b tile, imageOf i = some (load, a, b, tile) ∧ PassesG s false [a, b] none ∧ s.me.buf = [] ∧ s.quiet s.curCore s.curSlot = true ∧
      (s.src a).toNat % 64 ≠ 0) ∧
    (∃ s i load a b tile, imageOf i = some (load, a, b, tile) ∧ PassesG s false [a, b] none ∧ NoRegion (s.src a) ∧ (s.src a).toNat % 64 = 0) ∧
    (∃ s i load a b tile, imageOf i = some (load, a, b, tile) ∧ PassesG s false [a, b] none ∧ ¬NoRegion (s.src a) ∧ ¬Translated (s.src a)) ∧
    (∃ s i load a b tile l, imageOf i = some (load, a, b, tile) ∧ PassesG s false [a, b] none ∧ Translated (s.src a) ∧
      leads s (s.src a) load (!load) = .ok l ∧ plainLoc l = false) ∧
    (∃ s i load a b tile, imageOf i = some (load, a, b, tile) ∧ PassesG s false [a, b] none ∧ Translated (s.src a) ∧
      leads s (s.src a) load (!load) = .fault .perm) ∧
    (∃ s i load a b tile, imageOf i = some (load, a, b, tile) ∧ PassesG s false [a, b] none ∧ Translated (s.src a) ∧
      leads s (s.src a) load (!load) = .walk ∧ s.resolveVa (dieOf s.curCore) s.me.tenant (s.src a) s.me.priv load (!load) = .absent) ∧
    (∃ s i load a b tile, imageOf i = some (load, a, b, tile) ∧ PassesG s false [a, b] none ∧ Translated (s.src a) ∧
      leads s (s.src a) load (!load) = .walk ∧ s.resolveVa (dieOf s.curCore) s.me.tenant (s.src a) s.me.priv load (!load) ≠ .absent) ∧
    (∃ (s : State) (c k tile : Nat) (running : Bool) (va : Word) (pages : List Loc), (s.slot c k).st = .parked ∧
      (s.slot c k).pend = .acc false va pages 0 tile running ∧ (running = false → s.tileLocked 0 tile = false)) ∧
    (∃ (s : State) (c k tile : Nat) (running : Bool) (va : Word) (pages : List Loc), (s.slot c k).st = .parked ∧
      (s.slot c k).pend = .acc true va pages 0 tile running ∧ (running = false → s.tileLocked 0 tile = false) ∧
      s.badWord (imageAt va pages (8 * edgeOf 0 * edgeOf 0 + edgeOf 0 * edgeOf 0 / 8 - 8)).1 = false) :=
  let s := (mapped (small [(1, 0x100000), (2, 0x700000000)]) wide).modCluster 0 (fun x => { x with caps := [(0, 0x80FF010000000007)] })
  let ls : List Loc := (List.range 9).map (fun i => ⟨0x100000 + 0x10000 * i, .home 4, .normal, false, false⟩)
  ⟨⟨s, .accst 1 2 1, false, 1, 2, 1, rfl, passes_of (by decide), by decide, by decide, by decide, by decide, leads_of (by decide), by decide, by decide⟩,
    ⟨small [(1, 0x100020), (2, 0)], .accld 1 2 0, true, 1, 2, 0, rfl, passes_of (by decide), by decide, by decide, by decide⟩,
    ⟨small [(1, 0x100000030000000), (2, 0)], .accld 1 2 0, true, 1, 2, 0, rfl, passes_of (by decide), Or.inr (Or.inl (by decide)), by decide⟩,
    ⟨small [(1, loc 0), (2, 0)], .accld 1 2 0, true, 1, 2, 0, rfl, passes_of (by decide),
      fun h => by rcases h with h | h | ⟨h, -⟩ <;> revert h <;> decide, fun h => absurd h.2.1 (by decide)⟩,
    ⟨mapped (small [(1, 0x10000), (2, 0)]) { page with ty := .stamped }, .accld 1 2 0, true, 1, 2, 0, _, rfl, passes_of (by decide),
      translated_of (by decide), rfl, rfl⟩,
    ⟨mapped (small [(1, 0x10000), (2, 0)]) { page with w := false }, .accst 1 2 0, false, 1, 2, 0, rfl, passes_of (by decide), translated_of (by decide), by decide⟩,
    ⟨small [(1, 0x10000), (2, 0)], .accld 1 2 0, true, 1, 2, 0, rfl, passes_of (by decide), translated_of (by decide), by decide, by decide⟩,
    ⟨paged (small [(1, 0x10000), (2, 0)]), .accld 1 2 0, true, 1, 2, 0, rfl, passes_of (by decide), translated_of (by decide), by decide, by decide⟩,
    ⟨ran (.accst 1 2 1) s, 0, 0, 1, true, 0x100000, ls, by decide, by decide, by decide⟩,
    ⟨ran (.accld 1 2 1) s, 0, 0, 1, true, 0x100000, ls, by decide, by decide, by decide, by decide⟩⟩

/-- A window of two entries of two instances and rows of four lanes at 0x400 of core 0, its entries FREE and their status words empty; and a
queue 0 of die 0, enabled for tenant 1 and the capsule. -/
def moe (regs : List (Reg × Word)) : State :=
  let w : WinCfg := ⟨0x400, 2, 2, 4⟩
  let s := (withCap (small regs) cap1).modCore 0 (fun x => { x with win := some w, winTenant := 1 })
  let s := (s.setWordFull (w.key 0 0 0) false).setWordFull (w.key 0 1 0) false
  s.modXq 0 0 (fun q => { q with assigned := true, xten := 1, tenant := 1, handle := 1, cfg := [0x40000001, 0x200000001, 0x10000, 0, 0, 0, 0, 0] })

theorem witness_TokensAndResultsSetOut :
    (∃ (s : State) (a b : Reg) (key : Nat), PassesG s false [a, b] none ∧ Settled s ∧ (s.src a).toNat % 32 = 0 ∧ OwnBytes s (s.src a) 32 key ∧
      QueueOpen s (s.src b) (s.xq 0 0) ∧ (s.core 0).owner = (s.core s.curCore).owner ∧ TokenPlace s 0 (s.xq 0 0) (some true) ∧
      ∃ w, (s.core 0).win = some w ∧ EntryTakes s w 0 (ownBytes s key 32) ∧ WinFits w ∧ w.k ≤ 8) ∧
    (∃ (s : State) (a b : Reg), PassesG s false [a, b] none ∧ Settled s ∧ (s.src a).toNat % 32 ≠ 0 ∧
      ∃ o, LocalOffset s.curCore (s.src a) s.curCore o) ∧
    (∃ (s : State) (a b : Reg) (key : Nat) (win : WinCfg), PassesG s false [a, b] none ∧ Settled s ∧ bits (s.src b) 26 38 = 0 ∧ bits (s.src b) 0 12 = 0 ∧
      (s.core 0).winTenant = s.me.tenant ∧ (s.core 0).win = some win ∧ bits (s.src b) 12 10 < win.n ∧ bits (s.src b) 22 3 < win.k ∧
      bit (s.src b) 25 = false ∧ (s.src a).toNat % 4 = 0 ∧ 1 ≤ win.w ∧ OwnBytes s (s.src a) (4 * win.w) key) ∧
    (∃ (s : State) (a b : Reg) (win : WinCfg), PassesG s false [a, b] none ∧ Settled s ∧ bits (s.src b) 26 38 = 0 ∧ bits (s.src b) 0 12 = 0 ∧
      (s.core 0).win = some win ∧ win.n = bits (s.src b) 12 10) :=
  ⟨⟨moe [(1, loc 0x100), (2, 0)], 1, 2, key 0x100, passes_of (by decide), ⟨by decide, by decide⟩, by decide,
      ⟨0x100, by unfold LocalOffset; decide, by decide, by decide, by decide⟩, ⟨by decide, by decide, by decide, ⟨⟨1, 0, 1⟩, by decide, by decide⟩⟩, by decide,
      ⟨by decide, by decide⟩, ⟨⟨0x400, 2, 2, 4⟩, by decide, ⟨by decide, by decide, by decide, Or.inl ⟨by decide, by decide⟩⟩, ⟨by decide, by decide⟩, by decide⟩⟩,
    ⟨moe [(1, loc 0x110), (2, 0)], 1, 2, passes_of (by decide), ⟨by decide, by decide⟩, by decide, 0x110, by unfold LocalOffset; decide⟩,
    ⟨moe [(1, loc 0x3FFF0), (2, 0x401000)], 1, 2, key 0x3FFF0, ⟨0x400, 2, 2, 4⟩, passes_of (by decide), ⟨by decide, by decide⟩, by decide, by decide, by decide,
      by decide, by decide, by decide, by decide, by decide, by decide, ⟨0x3FFF0, by unfold LocalOffset; decide, by decide, by decide, by decide⟩⟩,
    ⟨moe [(1, loc 0), (2, 0x2000)], 1, 2, ⟨0x400, 2, 2, 4⟩, passes_of (by decide), ⟨by decide, by decide⟩, by decide, by decide, by decide, by decide⟩⟩

theorem witness_QueuesAndWindowsAreConfigured :
    (∃ (s : State) (a b : Reg) (key : Nat) (w : WinCfg), PassesG s false [a, b] none ∧ Settled s ∧ bit (s.src b) 63 = true ∧ (s.src a).toNat % 8 = 0 ∧
      OwnBytes s (s.src a) 8 key ∧ windowOf (s.wordAs (s.cipherKey s.curCore) key) = some w ∧ bits (s.src b) 0 63 = 0 ∧ isCompute s.curCore = true ∧
      s.winActive s.curCore = 0) ∧
    (∃ (s : State) (a b : Reg) (key : Nat), PassesG s false [a, b] none ∧ Settled s ∧ bit (s.src b) 63 = false ∧ (s.src a).toNat % 64 = 0 ∧
      OwnBytes s (s.src a) 64 key) ∧
    (∃ (s : State) (a b : Reg), PassesG s false [a, b] none ∧ Settled s ∧ (s.src a).toNat % 8 ≠ 0) ∧
    (∃ (s : State) (c k : Nat) (sel : Word) (l : List Word) (w : WinCfg), (s.slot c k).st = .parked ∧ (s.slot c k).pend = .asked (.xcfg sel l) ∧
      bit sel 63 = true ∧ bits sel 0 63 = 0 ∧ isCompute c = true ∧ k < 16 ∧ windowOf (l.getD 0 0) = some w ∧ s.winActive c = 0) ∧
    (∃ (s : State) (c k : Nat) (sel : Word) (l : List Word), (s.slot c k).st = .parked ∧ (s.slot c k).pend = .asked (.xcfg sel l) ∧
      bit sel 63 = false ∧ sel.toNat < 2 ^ 15 ∧ (s.xq (bits sel 12 3) (bits sel 0 12)).assigned = true ∧
      (s.xq (bits sel 12 3) (bits sel 0 12)).xten = (s.slot c k).tenant ∧ queueRecordOk l = true ∧ s.entryKernel (s.slot c k) (l.getD 2 0) ≠ none ∧
      s.areaPages c (s.slot c k) (l.getD 3 0) (32 * bits (l.getD 4 0) 0 25) ≠ none ∧
      s.areaPages c (s.slot c k) (l.getD 5 0) ((bits (l.getD 0 0) 47 4 + 1) * fireBytes (bits (l.getD 0 0) 16 12 + 1)) ≠ none) ∧
    (∃ (s : State) (d a : Reg), PassesG s false [a] (some d)) ∧
    (∃ (s : State) (c k : Nat) (d : Reg) (sel : Word), (s.slot c k).st = .parked ∧ (s.slot c k).pend = .asked (.xstat d sel)) :=
  let rec_ : List Word := [0x40000001, 0x200000001, 0x10000, 0x40000, 0, 0x50000, 0, 0]
  ⟨⟨put8 (small [(1, loc 0x100), (2, 0x8000000000000000)]) (key 0x100) 0x0003100100000400, 1, 2, key 0x100, ⟨0x400, 2, 2, 4⟩, passes_of (by decide),
      ⟨by decide, by decide⟩, by decide, by decide, ⟨0x100, by unfold LocalOffset; decide, by decide, by decide, by decide⟩, by decide, by decide, by decide,
      by decide⟩,
    ⟨small [(1, loc 0x3FFC0), (2, 0)], 1, 2, key 0x3FFC0, passes_of (by decide), ⟨by decide, by decide⟩, by decide, by decide,
      ⟨0x3FFC0, by unfold LocalOffset; decide, by decide, by decide, by decide⟩⟩,
    ⟨small [(1, loc 4), (2, 0)], 1, 2, passes_of (by decide), ⟨by decide, by decide⟩, by decide⟩,
    ⟨parkedAt (small []) 0 15 (.asked (.xcfg 0x8000000000000000 [0x0003100100000400])), 0, 15, _, _, ⟨0x400, 2, 2, 4⟩, by decide, rfl, by decide, by decide,
      by decide, by decide, by decide, by decide⟩,
    ⟨waiting (mapped (moe []) wide) (.asked (.xcfg 0 rec_)), 0, 0, 0, rec_, by decide, by decide, by decide, by decide, by decide, by decide, by decide, by decide,
      by decide, by decide⟩,
    ⟨small [(1, 0)], 2, 1, passes_of (by decide)⟩, ⟨ran (.xstat 2 1) (small [(1, 0)]), 0, 0, 2, 0, by decide, by decide⟩⟩

/-- A token of the window's entry 0 has been accepted. -/
def tokenIn : State := ran (.xenq 1 2) (moe [(1, loc 0x100), (2, 0), (3, loc 0x200), (4, 0)])

theorem witness_QueuesFireAndResultsReturn :
    (let s : State := { tokenIn with now := 20 };
      (s.xq 0 0).toks ≠ [] ∧ bits ((s.xq 0 0).dw 1) 0 32 ≤ (s.xq 0 0).headAge (s.now * 4 / 5) ∧ Tab.wf XQueue.reset (s.die 0).xq = true ∧
      (s.die 0).cfgCyc ≠ s.now + 1 ∧ (0, s.xq 0 0) ∈ (s.die 0).xq ∧ (s.xq 0 0).eligible s.now = true ∧
      ((s.die 0).xq.all (fun p => p == (0, s.xq 0 0))) = true ∧ 0 ∉ (s.xq 0 0).busy) ∧
    (let s := ran (.xret 3 4) tokenIn;
      ∃ r, s.pkg.results[0]? = some r ∧ (s.core r.origin).health = .ok ∧ r.issuer = some (0, 0) ∧ (s.slot 0 0).st = .parked ∧ (s.slot 0 0).pend = .xret 0 ∧
        (s.slot 0 0).resv = none ∧
        ∃ w, (s.core r.origin).win = some w ∧ r.rslot < w.n ∧ r.inst < w.k ∧ bits (s.winWord w 0 0 0x10) 0 2 = 1 ∧
          bit (s.winWord w 0 0 0x10) 8 = true ∧ bit (s.winWord w 0 0 0x10) 16 = false ∧ s.winBad w 0 0 = false ∧ WinFits w ∧ w.k ≤ 8 ∧ 1 ≤ w.n ∧
          (1 < w.k ∧ (1 : Nat) ≠ r.inst ∧ bit (s.winWord w 0 0 0x10) 17 = false)) ∧
    (∃ w : WinCfg, WinFits w ∧ 1023 < w.n ∧ w.k ≤ 8) :=
  ⟨by decide,
    ⟨⟨0, 0, 0, some [0, 0, 0, 0], some (0, 0)⟩, by decide, by decide, by decide, by decide, by decide, by decide, ⟨0x400, 2, 2, 4⟩, by decide, by decide,
      by decide, by decide, by decide, by decide, by decide, ⟨by decide, by decide⟩, by decide, by decide, by decide, by decide, by decide⟩,
    ⟨⟨0, 1024, 1, 1⟩, ⟨by decide, by decide⟩, by decide, by decide⟩⟩

/-- A routine of service core 8193 with these registers and this target. -/
def service (regs : List (Reg × Word)) (tgt : Word) : State := (at_ 8193 regs).modMe (fun x => { x with tgt := tgt })

theorem witness_SystemInstructionsAndCalls :
    (∃ s : State, PassesG s false [] none) ∧ (∃ s : State, PassesP s [] none ∧ s.me.notice = false) ∧
    (∃ s : State, PassesP s [] none ∧ ReachesCore s s.me.tgtCore ∧ s.other s.me.tgtCore s.me.tgtSlot ∧
      (s.slot s.me.tgtCore s.me.tgtSlot).st = .stopped) ∧
    (∃ s : State, PassesP s [] none ∧ ¬ReachesCore s s.me.tgtCore) ∧
    (∃ (s : State) (a b : Reg), PassesP s [a, b] none ∧ s.quiet s.curCore s.curSlot = true ∧
      ∃ e ∈ (s.core 40).dtlb, Covered (s.src b) (s.src a) (BitVec.ofNat 8 s.me.tgtIndex) e) ∧
    (∃ s : State, isCompute s.curCore = false) ∧ (∃ (s : State) (a : Reg), isCompute s.curCore = true ∧ PassesG s false [a] none ∧ CarriesWhole s.me 15) ∧
    (∃ (s : State) (a : Reg), isCompute s.curCore = true ∧ PassesG s false [a] none ∧ FirstBadG s.me 15 15) ∧
    (∃ (s : State) (c k : Nat) (n : Word), isCompute c = true ∧ (s.slot c k).st = .parked ∧ (s.slot c k).pend = .sysc n none ∧ s.quiet c k = true) ∧
    (∃ (s : State) (c k : Nat) (n v1 v2 v3 : Word), (s.slot c k).st = .parked ∧ (s.slot c k).pend = .sysc n (some (v1, v2, v3))) ∧
    (∃ (s : State) (r : KernRef) (n : Nat), PassesG s false [] none ∧ s.me.kern = some r ∧ s.anchorAt s.me s.me.pc = some n ∧
      n ∈ (Tab.get Ctx.reset s.pkg.ctxs s.me.ctx).bkpts) :=
  ⟨⟨small [], passes_of (by decide)⟩, ⟨service [] 0, passes_of (by decide), by decide⟩,
    ⟨(service [] 0x30028).setSlot 40 3 { Slot.reset with st := .stopped, epc := 0x2001 }, passes_of (by decide), by unfold ReachesCore; decide,
      by unfold State.other; decide, by decide⟩,
    ⟨service [] 3071, passes_of (by decide), by unfold ReachesCore; decide⟩,
    ⟨(service [(1, 0x1FFFF), (2, 0)] 0x100000000).modCore 40 (fun x => { x with dtlb := [page] }), 1, 2, passes_of (by decide), by decide, page, by decide,
      Or.inl ⟨by decide, by decide, by decide⟩⟩,
    ⟨at_ 8192 [], by decide⟩, ⟨small [(1, 5)], 1, by decide, passes_of (by decide), whole_of (by decide)⟩,
    ⟨ran (.softError (.gReg 0 0 15) false) (small [(1, 5)]), 1, by decide, passes_of (by decide), by decide, by decide, by decide,
      fun j a b => by interval_cases j <;> decide⟩,
    ⟨ran (.sysc 1) (small [(1, 5)]), 0, 0, 5, by decide, by decide, by decide, by decide⟩,
    ⟨parkedAt State.reset 3 2 (.sysc 5 (some (0, 1, 2))), 3, 2, 5, 0, 1, 2, by decide, by decide⟩,
    ⟨(withCap (small []) { cap1 with body := ⟨0x1000, 0x20000, [], [⟨0, 0⟩], [⟨7, 0, some 0, []⟩]⟩ }).modPkg
      (fun p => { p with ctxs := [(0, { Ctx.reset with bkpts := [7] })] }), ⟨1, 0, 1⟩, 7, passes_of (by decide), by decide, by decide, by decide⟩⟩

theorem witness_KernelRegistersAreReadAndWritten :
    (∃ (s : State) (d : Reg) (k : BitVec 9), k.toNat ≤ 13 ∧ PassesG s false [] (some d)) ∧
    (∃ (s : State) (d : Reg) (k : BitVec 9), 14 ≤ k.toNat ∧ k.toNat ≤ 41 ∧ PassesP s [] (some d) ∧ ReachesTarget s k.toNat) ∧
    (∃ (s : State) (d : Reg) (k : BitVec 9), 14 ≤ k.toNat ∧ k.toNat ≤ 41 ∧ PassesP s [] (some d) ∧ k.toNat ≠ 14 ∧ ¬ReachesTarget s k.toNat) ∧
    (∃ k : BitVec 9, k.toNat = 5) ∧ (∃ (s : State) (a : Reg), PassesG s false [a] none ∧ SwWritable s (s.src a)) ∧
    (∃ (s : State) (a : Reg), PassesG s false [a] none ∧ ¬SwWritable s (s.src a)) ∧
    (∃ (s : State) (a : Reg), PassesP s [a] none ∧ bits (s.src a) 12 4 ≠ 0) ∧
    (∃ (s : State) (a : Reg), Passes s .security false [] [] [a] none) ∧
    (∃ (s : State) (a : Reg) (k : BitVec 9), k.toNat = 16 ∧ PassesP s [a] none ∧ ReachesTarget s k.toNat ∧
      (s.slot s.me.tgtCore s.me.tgtSlot).st = .stopped ∧ bit (s.core s.me.tgtCore).owner 39 = false ∧ s.other s.me.tgtCore s.me.tgtSlot) ∧
    (∃ (s : State) (a : Reg) (k : BitVec 9) (r : Word), k.toNat = 31 ∧ PassesP s [a] none ∧ ReachesTarget s k.toNat ∧ Keeps s k.toNat (s.src a) r ∧
      r ≠ s.src a) :=
  let s := (service [(1, 0x123FFF)] 0x30028).setSlot 40 3 { Slot.reset with st := .stopped, epc := 0x2001 }
  ⟨⟨small [], 3, 13, by decide, passes_of (by decide)⟩, ⟨service [] 0x28, 3, 41, by decide, by decide, passes_of (by decide), by unfold ReachesTarget ReachesCore ReachesDie; decide⟩,
    ⟨service [] 3071, 3, 15, by decide, by decide, passes_of (by decide), by decide, by unfold ReachesTarget ReachesCore ReachesDie; decide⟩, ⟨5, by decide⟩,
    ⟨small [(1, 0x4000000002)], 1, passes_of (by decide), by unfold SwWritable; decide⟩,
    ⟨small [(1, 0x4000000004)], 1, passes_of (by decide), by unfold SwWritable; decide⟩,
    ⟨service [(1, 0x1000)] 0, 1, passes_of (by decide), by decide⟩, ⟨at_ securityCore [(1, 5)], 1, passes_of (by decide)⟩,
    ⟨s, 1, 16, by decide, passes_of (by decide), by unfold ReachesTarget ReachesCore ReachesDie; decide, by decide, by decide, by unfold State.other; decide⟩,
    ⟨s, 1, 31, 0x123001, by decide, passes_of (by decide), by unfold ReachesTarget ReachesCore ReachesDie; decide,
      by show (0x123001 : Word) = BitVec.ofNat 64 (bits (s.src 1) 12 40 * 4096 + bits (s.src 1) 0 1); decide, by decide⟩⟩

theorem witness_ControlsStopResumeAndNotify :
    (∃ (s : State) (c k : Nat), (s.slot c k).st = .stopped) ∧
    (∃ (s : State) (c k : Nat), (s.slot c k).st = .stopped ∧ (s.core c).pre ≠ .off ∧ s.quiescent (s.core c).preGroup = true ∧ c ∈ (s.core c).preGroup) ∧
    (∃ (s : State) (c k : Nat), k < 16 ∧ s.now % 16 = k ∧ (s.slot c k).stopReq = .now_ ∧ (s.slot c k).st = .ready) ∧
    (∃ (s : State) (core n : Nat), (s.core core).pre = .drain n ∧ n = s.now) ∧
    (∃ (s : State) (core : Nat), (s.core core).pre ≠ .off ∧ (s.core core).quiesced = false ∧ (s.core core).preGroup.head? = some core ∧
      s.quiescent (s.core core).preGroup = true) ∧
    (∃ (s : State) (tile : Nat) (n : Notice),
      s.pkg.notices.find? (fun m => match m with
        | .fault x _ => x = tile
        | _ => false) = some n) :=
  let stopped := ran (.preemptStop 0 0) (ran (.preImmediate 0 false) (small []))
  ⟨⟨ran .trap (small []), 0, 0, by decide⟩, ⟨stopped, 0, 0, by decide, by decide, by decide, by decide⟩,
    ⟨ran (.preImmediate 0 false) (small []), 0, 0, by decide, by decide, by decide, by decide⟩,
    ⟨ran (.preAnchorDrain 0 false 0) (small []), 0, 0, by decide, by decide⟩, ⟨stopped, 0, by decide, by decide, by decide, by decide⟩,
    ⟨ran .trap (small []), 0, .fault 0 (faultNotice 0x1000 0 0 28 1), by decide⟩⟩

theorem no_entry {s : State} {c k : Nat} {va : Word} {acc : Acc} {rd wr : Bool} {p q r : Word} {x : WalkRes}
    (h : (if isCompute c = true then tlbFind (s.cluster (clusterOf c)).tlb2 (s.slot c k).tenant va else none) = none)
    (e : s.walk (s.slot c k).tenant p q r va rd wr (decide (acc = .fetch)) = x) : WalkEnds s c k va acc rd wr p q r x :=
  ⟨fun a b => absurd (h.symm.trans b) (by simp), fun _ => e.symm⟩

theorem witness_TranslationWaitsEnd :
    (∃ (s : State) (c k : Nat) (va : Word) (acc : Acc) (rd wr : Bool) (ptab s2b s2l : Word) (e : TlbEnt), (s.slot c k).st = .parked ∧
      (s.slot c k).pend = .walk va acc rd wr ptab s2b s2l ∧ WalkEnds s c k va acc rd wr ptab s2b s2l (.entry e)) ∧
    (∃ (s : State) (c k : Nat) (va : Word) (acc : Acc) (rd wr : Bool) (ptab s2b s2l : Word), (s.slot c k).st = .parked ∧
      (s.slot c k).pend = .walk va acc rd wr ptab s2b s2l ∧ WalkEnds s c k va acc rd wr ptab s2b s2l .absent ∧ ∀ d, acc ≠ .image d) ∧
    (∃ (s : State) (c k : Nat) (va : Word) (rd wr d : Bool) (ptab s2b s2l : Word), (s.slot c k).st = .parked ∧
      (s.slot c k).pend = .walk va (.image d) rd wr ptab s2b s2l ∧ WalkEnds s c k va (.image d) rd wr ptab s2b s2l .absent) ∧
    (∃ (s : State) (c k : Nat) (va : Word) (acc : Acc) (rd wr : Bool) (ptab s2b s2l : Word), (s.slot c k).st = .parked ∧
      (s.slot c k).pend = .walk va acc rd wr ptab s2b s2l ∧ WalkEnds s c k va acc rd wr ptab s2b s2l .bad) ∧
    (∃ (s : State) (c k : Nat) (va : Word) (acc : Acc) (rd wr : Bool) (ptab s2b s2l : Word), (s.slot c k).st = .parked ∧
      (s.slot c k).pend = .walk va acc rd wr ptab s2b s2l ∧ WalkEnds s c k va acc rd wr ptab s2b s2l .data) ∧
    (∃ (s : State) (c k : Nat) (va : Word) (acc : Acc) (rd wr : Bool) (ptab s2b s2l : Word), (s.slot c k).st = .parked ∧
      (s.slot c k).pend = .walk va acc rd wr ptab s2b s2l ∧ WalkEnds s c k va acc rd wr ptab s2b s2l .stage2) ∧
    (∃ (s : State) (kr : KernRef) (cap : Capsule) (area : FaultArea) (pc : Word) (kernel i : Nat), UpcallAt s (s.slot 0 0) kr cap area pc kernel i ∧
      (s.slot 0 0).pend = .walk 0x10000 .load true false 0 0 0 ∧ (s.slot 0 0).resv = none ∧ (s.slot 0 0).park ≠ 6) ∧
    (∃ (s : State) (c k tk : Nat), k < 16 ∧ (s.slot c k).st = .parked ∧ (s.slot c k).pend = .page tk) ∧
    (∃ (s : State) (c k : Nat) (va : Word) (acc : Acc), (s.slot c k).st = .parked ∧ (s.slot c k).pend = .stage2 va acc) :=
  let s := ran (.ld 3 1 3 0 0 0) (small [(1, 0x10000)])
  let u := (ran (.ld 3 1 3 0 0 0) (withCap (small [(1, 0x10000)]) cap1)).modPkg (fun p => { p with areas := [⟨0, 1, 1, 0x50000, 0x50000, 1, []⟩] })
  ⟨⟨paged s, 0, 0, 0x10000, .load, true, false, 0, 0, 0, wide, by decide, by decide, no_entry rfl (by decide)⟩,
    ⟨s, 0, 0, 0x10000, .load, true, false, 0, 0, 0, by decide, by decide, no_entry rfl (by decide), fun d h => by cases h⟩,
    ⟨waiting (small []) (.walk 0x10000 (.image false) true false 0 0 0), 0, 0, 0x10000, true, false, false, 0, 0, 0, by decide, by decide, no_entry rfl (by decide)⟩,
    ⟨put8 s 0 0x8000000000000001, 0, 0, 0x10000, .load, true, false, 0, 0, 0, by decide, by decide, no_entry rfl (by decide)⟩,
    ⟨ran (.softError (.memWord 0) false) s, 0, 0, 0x10000, .load, true, false, 0, 0, 0, by decide, by decide, no_entry rfl (by decide)⟩,
    ⟨waiting (small []) (.walk 0x10000 .load true false 1 0 0), 0, 0, 0x10000, .load, true, false, 1, 0, 0, by decide, by decide, no_entry rfl (by decide)⟩,
    ⟨u, ⟨1, 0, 1⟩, cap1, ⟨0, 1, 1, 0x50000, 0x50000, 1, []⟩, 0x10000, 0, 0,
      ⟨by decide, by decide, by decide, by decide, ⟨0, by decide, by decide⟩, by decide, by decide, fun j h => absurd h (by omega)⟩, by decide, by decide,
      by decide⟩,
    ⟨waiting (small []) (.page 7), 0, 0, 7, by decide, by decide, by decide⟩, ⟨waiting (small []) (.stage2 0x10000 .fetch), 0, 0, 0x10000, .fetch, by decide, by decide⟩⟩

theorem witness_PagesMoveAndReleasesMiss :
    (∃ (s : State) (page own c k : Nat), k < 16 ∧ (s.slot c k).st = .parked ∧ (s.slot c k).pend = .collapse own ∧ OfPages s page (own * 2 ^ 16) 1) ∧
    (∃ (s : State) (g d : Nat), s.hasHome g = true ∧ d < 8 ∧ d ≠ s.homeDie (g * 2 ^ 21) ∧ s.pkg.moving = [] ∧ s.rpMappings = []) ∧
    (∃ s : State, s.pkg.moving ≠ []) ∧ (∃ (s : State) (g : Nat), (∃ p ∈ s.pkg.moving, p.1 = g) ∧ ∀ p ∈ s.slots, p.2.rehome s = p.2) ∧
    (∃ (s : State) (c k : Nat) (e : StoreEnt), (s.slot c k).out[0]? = some e ∧ missesScope c e = true ∧ e.loose = true) ∧
    (∃ (s : State) (c k : Nat) (e : StoreEnt), (s.slot c k).out[0]? = some e ∧ missesScope c e = true ∧ e.loose = false ∧ s.armedEntry c e = none) ∧
    (∃ (s : State) (c k : Nat) (e : StoreEnt), (s.slot c k).out[0]? = some e ∧ missesScope c e = true ∧ e.loose = false ∧
      s.armedEntry c e = some (0x10000, ⟨1, 0, 1⟩)) :=
  let s := drained (ran (.st 2 1 3 1 2 0) (withCap (mapped (small [(1, 0x10000), (2, 5)]) page) cap1))
  let e : StoreEnt := ⟨0x10000, ⟨0x20000, .home 4, .normal, false, false⟩, 8, 5, false, true, false, 1, 1, 0, 0, some ⟨1, 0, 1⟩, 1, 0, []⟩
  let g := (small []).modPkg (fun p => { p with moving := [(0, 4)] })
  ⟨⟨ran (.st 2 1 3 0 0 0) (mapped (small [(1, 0x10000), (2, 5)]) { page with rp := true }), 2, 2, 0, 0, by decide, by decide, by decide, Or.inl (by decide)⟩,
    ⟨small [], 0x9000000000 / 2 ^ 21 - 1, 0, by decide, by decide, by decide, by decide, by decide⟩, ⟨g, by decide⟩,
    ⟨g, 0, by decide, by decide⟩,
    ⟨s.modSlot 0 0 (fun x => { x with out := [{ e with loose := true }] }), 0, 0, { e with loose := true }, by decide, by decide, rfl⟩,
    ⟨s, 0, 0, e, by decide, by decide, rfl, by decide⟩,
    ⟨s.modDie 0 (fun d => { d with ten := [(1, { TenantDie.reset with scm := 0x10000 })] }), 0, 0, e, by decide, by decide, rfl, by decide⟩⟩

/-- A task record of tenant 1 for the capsule, with budget and quota on die 0. -/
def task1 : TaskRec := ⟨0x10000, 1, 0, 1, 0, 0, [0, 0, 0, 0, 0, 0, 0, 0], 0, ⟨0, 0, 0⟩, 0, 0, none⟩
/-- A die on which tenant 1 has a balance and a quota, with these records. -/
def funded (l : List TaskRec) : State :=
  (withCap (small []) cap1).modDie 0 (fun d => { d with ten := [(1, { TenantDie.reset with bal := 5, rf := 3, cap := 100, quota := 1 })], recs := l })

theorem witness_RecordsArriveAndAreDispatched :
    (∃ (s : State) (f : RecFlight), s.pkg.recs[0]? = some f ∧ f.resend = false ∧
      (s.queueOf f.die f.task.tenant.toNat).length < (s.tenantDie f.die f.task.tenant.toNat).quota ∧ (s.die f.die).recs.length < 16384) ∧
    (∃ (s : State) (f : RecFlight), s.pkg.recs[0]? = some f ∧ f.resend = false ∧
      (s.queueOf f.die f.task.tenant.toNat).length = (s.tenantDie f.die f.task.tenant.toNat).quota) ∧
    (∃ l, InOrder l ∧ l ≠ []) ∧ (∃ (s : State) (d : Nat), (s.die d).dispCyc = s.now + 1) ∧
    (let s := funded [task1];
      (s.die 0).dispCyc ≠ s.now + 1 ∧ ((s.die 0).last + 2) % 256 = 1 ∧ s.queueOf 0 0 = [] ∧ (s.tenantDie 0 1).cap ≠ 0 ∧ 0 < (s.tenantDie 0 1).bal ∧
      s.queueOf 0 1 = [] ++ task1 :: [] ∧ s.expired 0 task1 = false ∧ Ready s task1 ∧ 0 ∈ coresOfDie 0 ∧ Admits s task1 0) :=
  let f : RecFlight := ⟨0, task1, none, none, false, false⟩
  ⟨⟨(funded []).modPkg (fun p => { p with recs := [f] }), f, by decide, by decide, by decide, by decide⟩,
    ⟨(funded [task1]).modPkg (fun p => { p with recs := [f] }), f, by decide, by decide, by decide⟩, ⟨[task1], by unfold InOrder; simp, by simp⟩,
    ⟨(funded []).modDie 0 (fun d => { d with dispCyc := 1 }), 0, by decide⟩,
    ⟨by decide, by decide, by decide, by decide, by decide, by decide, by decide, ⟨cap1, by decide, by decide⟩, by decide,
      ⟨by decide, by decide, ⟨1, 64, 2⟩, by decide, by decide, by decide, Or.inr (by decide)⟩⟩⟩

theorem witness_BudgetsRefillAndDiesSteal :
    (∃ (s : State) (d : Nat), Tab.wf TenantDie.reset (s.die d).ten = true ∧ s.now ≠ 0 ∧ s.now % 12500 = 0 ∧ (s.die d).refillCyc ≠ s.now + 1 ∧
      (s.die d).loans = []) ∧
    (∃ (s : State) (d : Nat) (l : Loan), Tab.wf TenantDie.reset (s.die d).ten = true ∧ s.now ≠ 0 ∧ s.now % 12500 = 0 ∧ (s.die d).refillCyc ≠ s.now + 1 ∧
      (s.die d).loans = [l] ∧ l.x ≠ l.y ∧ l.amt = (s.tenantDie d l.x).rf) ∧
    (∃ (s : State) (d v : Nat) (quota : List (Nat × Nat)), (s.die d).steal = .asked v quota ∧ v ≠ d) ∧
    (∃ (s : State) (d : Nat), (s.die d).steal = .reply []) ∧
    (∃ (s : State) (d : Nat) (l : List TaskRec), (s.die d).steal = .reply l ∧ l ≠ [] ∧ (∀ r ∈ l, s.expired d r = false) ∧
      (s.die d).recs.length + l.length ≤ 16384) ∧
    (∃ (s : State) (d n : Nat), (s.die d).steal = .pause n ∧ n = s.now) :=
  ⟨⟨{ funded [] with now := 12500 }, 0, by decide, by decide, by decide, by decide, by decide⟩,
    ⟨{ (funded []).modDie 0 (fun d => { d with loans := [⟨1, 2, 3⟩] }) with now := 12500 }, 0, ⟨1, 2, 3⟩, by decide, by decide, by decide, by decide,
      by decide, by decide, by decide⟩,
    ⟨(funded []).modDie 0 (fun d => { d with steal := .asked 1 [(1, 1)] }), 0, 1, [(1, 1)], by decide, by decide⟩,
    ⟨(funded []).modDie 0 (fun d => { d with steal := .reply [] }), 0, by decide⟩,
    ⟨(funded []).modDie 0 (fun d => { d with steal := .reply [task1] }), 0, [task1], by decide, by decide, by decide, by decide⟩,
    ⟨(funded []).modDie 0 (fun d => { d with steal := .pause 0 }), 0, 0, by decide, by decide⟩⟩

/-- A command with these argument bytes. -/
def cmd (code : Byte) (l : List (Nat × Byte)) : Cmd := ⟨(List.range 64).map (fun i => if i = 0 then code else Tab.get 0 l i), 0⟩
/-- Interface 0 of a tenant runs and has fetched it. -/
def askedAs (tn : BitVec 8) (s : State) (c : Cmd) : State :=
  s.modPkg (fun p => { p with qifs := [(0, { QIf.reset with tstate := .run, cmds := [c] })], lds := [(0, { LDev.reset with tenants := [tn] })] })
/-- The same of tenant 1. -/
def asked (s : State) (c : Cmd) : State := askedAs 1 s c

theorem next_of {s : State} {q code : Nat} {c : Cmd} {x : BitVec 8} (h : s.findCmd q code = some c) (t : s.qifTenant q = some x)
    (b : s.pkg.boot ≠ .recovery) : NextCommand s q code c x := ⟨h, .inl t, fun e => absurd e b⟩

theorem witness_CapsulesAreInstalledBoundAndRebuilt :
    (∃ (s : State) (q : Nat) (c : Cmd) (tn : BitVec 8), NextCommand s q 1 c tn) ∧
    (∃ x : Capsule, EdgesAnchored x ∧ MapFits x ∧ OfThisGeneration x) ∧ (∃ x : Capsule, EdgesAnchored x ∧ MapFits x ∧ ¬OfThisGeneration x) ∧
    (∃ x : Capsule, ¬EdgesAnchored x) ∧ (∃ x : Capsule, EdgesAnchored x ∧ ¬MapFits x) ∧
    (∃ (s : State) (q : Nat) (c : Cmd) (tn : BitVec 8) (cap : Capsule) (e : RefEnt), NextCommand s q 2 c tn ∧ Owned s (c.arg 8 4) tn cap ∧
      cap.refs[c.arg 12 2]? = some e ∧ e.decl = c.arg 14 1) ∧
    (∃ (s : State) (d a : Reg), PassesG s false [a] (some d)) ∧
    (∃ (s : State) (c k : Nat) (shape : Bool) (d ty : Reg) (i : Word) (e : RefEnt), (s.slot c k).st = .parked ∧
      (s.slot c k).pend = .asked (.refld shape d ty i) ∧
      ((s.slot c k).kern.bind (fun r => s.capsule? r.handle)).bind (fun cap => cap.refs[i.toNat]?) = some e ∧ e.ty = ty.toNat) ∧
    (∃ (s : State) (c k : Nat) (shape : Bool) (d ty : Reg) (i : Word), (s.slot c k).st = .parked ∧
      (s.slot c k).pend = .asked (.refld shape d ty i) ∧
      ((s.slot c k).kern.bind (fun r => s.capsule? r.handle)).bind (fun cap => cap.refs[i.toNat]?) = none) ∧
    (∃ (s : State) (a : Reg) (cap : Capsule), PassesG s false [a] none ∧ Owned s (s.src a).toNat s.me.tenant cap ∧ cap.st ≠ .valid ∧
      Tab.wf Slot.reset s.slots = true ∧ s.curSlot < 16) ∧
    (∃ (s : State) (q : Nat) (c : Cmd) (tn : BitVec 8), NextCommand s q 9 c tn) ∧
    (∃ (s : State) (h : Nat) (cap : Capsule), s.capsule? h = some cap ∧ cap.st = .rebuilding ∧ Tab.wf Slot.reset s.slots = true) :=
  let c2 := cmd 2 [(8, 1), (14, 10)]
  let r := ran (.refldBase 3 1 10) (withCap (small [(1, 0)]) cap1)
  ⟨⟨asked (small []) (cmd 1 []), 0, cmd 1 [], 1, next_of (by decide) rfl (by decide)⟩,
    ⟨cap1, by unfold EdgesAnchored; decide, ⟨by decide, fun p h => by cases List.mem_singleton.mp h; exact ⟨by decide, fun i e => by cases e⟩⟩,
      by intro p h i e; revert i; revert p; decide⟩,
    ⟨{ cap1 with parts := [⟨0, [], [0], [], [], some ⟨5, [], [], []⟩⟩] }, by unfold EdgesAnchored; decide,
      ⟨by decide, fun p h => by cases List.mem_singleton.mp h; exact ⟨by decide, fun i e => by cases e; exact fun a h => by cases h⟩⟩,
      fun h => absurd (h _ (List.mem_singleton.mpr rfl) _ rfl) (by decide)⟩,
    ⟨{ cap1 with parts := [⟨0, [], [0], [], [none], none⟩] }, by unfold EdgesAnchored; rintro h; simpa using h _ (List.mem_singleton.mpr rfl)⟩,
    ⟨{ cap1 with parts := [⟨0, [], [0], [[1, 1]], [], none⟩] }, by unfold EdgesAnchored; decide, fun h =>
      absurd ((h.2 _ (List.mem_singleton.mpr rfl)).1 [1, 1] (List.mem_singleton.mpr rfl)).2 (by decide)⟩,
    ⟨asked (withCap (small []) cap1) c2, 0, c2, 1, cap1, ⟨10, 10, 5, 6⟩, next_of (by decide) rfl (by decide), ⟨by decide, by decide, by decide⟩, by decide,
      by decide⟩,
    ⟨withCap (small [(1, 0)]) cap1, 3, 1, passes_of (by decide)⟩,
    ⟨r, 0, 0, false, 3, 10, 0, ⟨10, 10, 5, 6⟩, by decide, by decide, by decide, by decide⟩,
    ⟨ran (.refldShape 3 1 10) (withCap (small [(1, 1)]) cap1), 0, 0, true, 3, 10, 1, by decide, by decide, by decide⟩,
    ⟨withCap (small [(1, 1)]) { cap1 with st := .void }, 1, { cap1 with st := .void }, passes_of (by decide), ⟨by decide, by decide, by decide⟩, by decide,
      by decide, by decide⟩,
    ⟨asked (small []) (cmd 9 []), 0, cmd 9 [], 1, next_of (by decide) rfl (by decide)⟩,
    ⟨withCap (small []) { cap1 with st := .rebuilding }, 1, { cap1 with st := .rebuilding }, by decide, by decide, by decide⟩⟩

set_option maxRecDepth 50000 in
theorem witness_ContextsLaunchSuspendAndResume :
    (∃ (s : State) (q : Nat) (c : Cmd) (tn : BitVec 8) (cap : Capsule), NextCommand s q 3 c tn ∧ Owned s (c.arg 8 4) tn cap ∧
      cap.entryKernels[c.arg 12 2]? = some 0 ∧ ControlWord (BitVec.ofNat 64 (c.arg 16 8)) ∧ c.arg 40 4 = 0) ∧
    (∃ (s : State) (q : Nat) (c : Cmd) (tn : BitVec 8), NextCommand s q 4 c tn ∧ c.stage = 0 ∧ c.arg 12 1 ≠ 1 ∧ c.arg 12 1 ≠ 2) ∧
    (∃ (s : State) (q : Nat) (c : Cmd) (tn : BitVec 8), NextCommand s q 4 c tn ∧ c.stage = 0 ∧ c.arg 12 1 = 2 ∧ c.arg 8 4 = 5 ∧ s.coresOf 5 = [7] ∧
      Config.ctxTenant 5 = tn) ∧
    (∃ (s : State) (q : Nat) (c : Cmd) (tn : BitVec 8), NextCommand s q 4 c tn ∧ c.stage ≠ 0 ∧ s.coresOf (c.arg 8 4) ≠ [] ∧
      s.quiescent (s.coresOf (c.arg 8 4)) = true ∧ ∀ n ∈ s.coresOf (c.arg 8 4), (s.core n).quiesced = true) ∧
    (∃ (s : State) (q : Nat) (c : Cmd) (tn : BitVec 8), NextCommand s q 4 c tn ∧ c.stage ≠ 0 ∧ s.coresOf (c.arg 8 4) = []) ∧
    (∃ (s : State) (q : Nat) (c : Cmd) (tn : BitVec 8), NextCommand s q 5 c tn ∧ (Tab.get Ctx.reset s.pkg.ctxs (c.arg 8 4)).saved = none) ∧
    (∃ (s : State) (q : Nat) (c : Cmd) (tn : BitVec 8) (v : Saved), NextCommand s q 5 c tn ∧ (Tab.get Ctx.reset s.pkg.ctxs (c.arg 8 4)).saved = some v ∧
      Config.ctxTenant (c.arg 8 4) = tn ∧ s.placeFree v = true ∧ (∀ p ∈ v.cores, bit p.2.owner 39 = false)) ∧
    (∃ (s : State) (q : Nat) (c : Cmd) (tn : BitVec 8) (v : Saved), NextCommand s q 5 c tn ∧ (Tab.get Ctx.reset s.pkg.ctxs (c.arg 8 4)).saved = some v ∧
      Config.ctxTenant (c.arg 8 4) = tn ∧ s.placeFree v = true ∧ (∃ p ∈ v.cores, bit p.2.owner 39 = true) ∧ ∃ n, s.findKey (c.arg 8 4) = some (s, n)) ∧
    (∃ (s : State) (q : Nat) (c : Cmd) (tn : BitVec 8), NextCommand s q 10 c tn ∧ (Tab.get Ctx.reset s.pkg.ctxs (c.arg 8 4)).saved ≠ none ∧
      Config.ctxTenant (c.arg 8 4) = tn) :=
  let kept (o : Word) (s : State) : State := s.modPkg (fun p =>
    { p with ctxs := [(5, { Ctx.reset with saved := some ⟨[], [(7, { Core.reset with owner := o })], [], [], [], [], [], []⟩ })] })
  let v (o : Word) : Saved := ⟨[], [(7, { Core.reset with owner := o })], [], [], [], [], [], []⟩
  let tn := Config.ctxTenant 5
  let own : State := (small []).modCore 7 (fun x => { x with owner := 5, quiesced := true })
  let ask (s : State) (n : Byte) (l : List (Nat × Byte)) : State := askedAs tn s (cmd n l)
  ⟨⟨asked (withCap (small []) cap1) (cmd 3 [(8, 1)]), 0, cmd 3 [(8, 1)], 1, cap1, next_of (by decide) rfl (by decide), ⟨by decide, by decide, by decide⟩,
      by decide, by unfold ControlWord; decide, by decide⟩,
    ⟨asked (small []) (cmd 4 [(12, 3)]), 0, cmd 4 [(12, 3)], 1, next_of (by decide) rfl (by decide), by decide, by decide, by decide⟩,
    ⟨ask own 4 [(8, 5), (12, 2)], 0, cmd 4 [(8, 5), (12, 2)], tn, next_of (by decide) rfl (by decide), by decide, by decide, by decide, by decide, rfl⟩,
    ⟨askedAs tn own { cmd 4 [(8, 5), (12, 2)] with stage := 1 }, 0, { cmd 4 [(8, 5), (12, 2)] with stage := 1 }, tn, next_of (by decide) rfl (by decide),
      by decide, by decide, by decide, by decide⟩,
    ⟨asked (small []) { cmd 4 [(8, 5)] with stage := 1 }, 0, { cmd 4 [(8, 5)] with stage := 1 }, 1, next_of (by decide) rfl (by decide), by decide, by decide⟩,
    ⟨asked (small []) (cmd 5 [(8, 5)]), 0, cmd 5 [(8, 5)], 1, next_of (by decide) rfl (by decide), by decide⟩,
    ⟨ask (kept 5 (small [])) 5 [(8, 5)], 0, cmd 5 [(8, 5)], tn, v 5, next_of (by decide) rfl (by decide), by decide, rfl, by decide, by decide⟩,
    ⟨(ask (kept 0x8000000005 (small [])) 5 [(8, 5)]).modKey 0 (fun k => { k with st := .active, ctx := 5 }), 0, cmd 5 [(8, 5)], tn, v 0x8000000005,
      next_of (by decide) rfl (by decide), by decide, rfl, by decide, ⟨_, List.mem_singleton.mpr rfl, by decide⟩, 0, rfl⟩,
    ⟨ask (kept 5 (small [])) 10 [(8, 5)], 0, cmd 10 [(8, 5)], tn, next_of (by decide) rfl (by decide), by decide, rfl⟩⟩

/-- A service core routine with a request for a segment of a protected core of its tile at 0x100 of its own local memory. -/
def sealing : State :=
  let s := mapped (service [(1, loc 0x100), (2, 0x10000), (3, 40)] 0) page
  let k := 2 ^ 56 + 8193 * 2 ^ 18 + 0x100
  let s := put8 (put8 (put8 s (k + 8) 0x4000000000000000) (k + 16) 0x280000) (k + 24) 0x10000000000
  s.modCore 40 (fun x => { x with owner := 0x8100000005, pre := .immediate, quiesced := true, preGroup := [40] })

theorem witness_SegmentsAreSealedAndOpened :
    (∃ (s : State) (d a b : Reg) (key : Nat) (l : Loc), PassesP s [a, b] (some d) ∧ s.onChain = false ∧ s.me.st = .ready ∧
      s.quiet s.curCore s.curSlot = true ∧ (s.src a).toNat % 8 = 0 ∧ OwnBytes s (s.src a) 32 key ∧ s.locate (s.src b) 64 .store false true = .ok l ∧
      l.ty = .normal ∧ l.rp = false ∧ (∀ c, l.place ≠ .lmem c) ∧ (SegHdr.ofBytes (ownBytes s key 32)).len = 256 ∧
      (s.src b).toNat % 2 ^ 16 + 304 ≤ 2 ^ 16 ∧ SealAllowed s (SegHdr.ofBytes (ownBytes s key 32))) ∧
    (∃ (s : State) (d a b : Reg) (key : Nat), PassesP s [a, b] (some d) ∧ s.onChain = false ∧ s.me.st = .ready ∧ s.quiet s.curCore s.curSlot = true ∧
      (s.src a).toNat % 8 = 0 ∧ OwnBytes s (s.src a) 32 key ∧ (SegHdr.ofBytes (ownBytes s key 32)).lenOk = true ∧
      OwnBytes s (s.src a) (48 + (SegHdr.ofBytes (ownBytes s key 32)).len) key ∧ (SegHdr.ofBytes (ownBytes s key 32)).slot < 16) :=
  let k := 2 ^ 56 + 8193 * 2 ^ 18 + 0x100
  ⟨⟨sealing, 5, 1, 2, k, ⟨0x20000, .home 4, .normal, false, false⟩, passes_of (by decide), by decide, by decide, by decide, by decide,
      ⟨0x100, by unfold LocalOffset; decide, by decide, by decide, by decide⟩, loc_of (by decide), rfl, rfl, (fun c h => by cases h), by decide, by decide,
      ⟨by decide, by decide, by decide, by decide, by decide, by decide, by decide, by decide, Or.inl (by decide)⟩⟩,
    ⟨sealing, 5, 1, 3, k, passes_of (by decide), by decide, by decide, by decide, by decide,
      ⟨0x100, by unfold LocalOffset; decide, by decide, by decide, by decide⟩, by decide,
      ⟨0x100, by unfold LocalOffset; decide, by decide, by decide, fun i _ => ⟨rfl, rfl⟩⟩, by decide⟩⟩

theorem witness_KeysAndOwnersAreSet :
    (∃ (s : State) (a b : Reg), Passes s .security false [] [] [a, b] none ∧ bit (s.src a) 7 = false ∧ bits (s.src a) 9 55 = 0 ∧ bit (s.src a) 8 = false ∧
      bits (s.src b) 32 32 = 0 ∧ (s.keySlot (bits (s.src a) 0 7)).st = .empty) ∧
    (∃ (s : State) (a : Reg), Passes s .security false [] [] [a] none ∧ s.me.st = .ready ∧ bit (s.src a) 7 = false ∧ bits (s.src a) 8 56 = 0 ∧
      s.slots.all (fun p => p.2.st = .free || !bit (s.core (p.1 / 16)).owner 39) = true) ∧
    (∃ (s : State) (a b : Reg), Passes s .security false [] [] [a, b] none ∧ s.me.st = .ready ∧ (s.src a).toNat < 3072 ∧ bits (s.src b) 40 24 = 0 ∧
      bit (s.src b) 39 = true ∧ ∀ k < 16, (s.slot (s.src a).toNat k).st = .free) :=
  let s := at_ securityCore [(1, 127), (2, 0xFFFFFFFF), (3, 3071), (4, 0xFF00000005)]
  ⟨⟨s, 1, 2, passes_of (by decide), by decide, by decide, by decide, by decide, by decide⟩,
    ⟨s, 1, passes_of (by decide), by decide, by decide, by decide, by decide⟩, ⟨s, 3, 4, passes_of (by decide), by decide, by decide, by decide, by decide, by decide⟩⟩

set_option maxRecDepth 50000 in
theorem witness_FirmwareCommandsAnswer :
    (∃ (s : State) (i : Instr) (q code : Nat) (c : Cmd), commandOf i = some (q, code) ∧ s.findCmd q code = some c ∧ s.pkg.boot = .recovery ∧ code ≠ 7 ∧
      code ≠ 8 ∧ code ≠ 11) ∧
    (∃ (s : State) (i : Instr) (q code : Nat) (c : Cmd), commandOf i = some (q, code) ∧ s.findCmd q code = some c ∧ s.pkg.boot ≠ .recovery ∧
      s.qifTenant q = none) ∧
    (∃ (s : State) (q : Nat) (c : Cmd) (tn : BitVec 8) (cap : Capsule), NextCommand s q 11 c tn ∧ c.arg 8 4 ≠ 0 ∧ Owned s (c.arg 8 4) tn cap) ∧
    (∃ (s : State) (q : Nat) (c : Cmd) (tn : BitVec 8) (cap : Capsule), NextCommand s q 6 c tn ∧ Owned s (c.arg 8 4) tn cap ∧ cap.st ≠ .rebuilding) ∧
    (∃ (s : State) (q : Nat) (c : Cmd) (tn : BitVec 8) (cap : Capsule), NextCommand s q 13 c tn ∧ Owned s (c.arg 8 4) tn cap ∧ c.arg 12 1 = 1 ∧
      c.arg 24 4 % 64 = 0 ∧ c.arg 28 4 = 0 ∧ c.arg 24 4 ≤ cap.image.length ∧ bits (s.core (c.arg 14 2)).owner 0 32 = 5 ∧ Config.ctxTenant 5 = tn ∧
      bit (s.core (c.arg 14 2)).owner 39 = false ∧ (s.core (c.arg 14 2)).health = .ok) ∧
    (∃ (s : State) (q : Nat) (c : Cmd) (tn : BitVec 8), NextCommand s q 12 c tn ∧ 5 < c.arg 12 1) ∧
    (∃ (s : State) (q : Nat) (c : Cmd) (tn : BitVec 8), NextCommand s q 12 c tn ∧ c.arg 12 1 = 3 ∧ c.arg 8 4 = 5 ∧ Config.ctxTenant 5 = tn ∧
      (∀ n ∈ s.coresOf 5, bit (s.core n).owner 39 = false) ∧ (Tab.get Ctx.reset s.pkg.ctxs 5).saved = none ∧
      bits (s.core (c.arg 14 2)).owner 0 32 = 5 ∧ (s.slot (c.arg 14 2) (c.arg 13 1)).st = .stopped) ∧
    (∃ (s : State) (q : Nat) (c : Cmd) (tn : BitVec 8), NextCommand s q 12 c tn ∧ c.arg 12 1 = 5 ∧ c.arg 8 4 = 5 ∧ Config.ctxTenant 5 = tn) ∧
    (∃ (s : State) (q : Nat) (c : Cmd) (tn : BitVec 8), NextCommand s q 7 c tn ∧ s.pkg.boot = .running ∧ c.stage = 0 ∧
      ∃ p ∈ s.slots, isCompute (p.1 / 16) = true ∧ p.2.st ≠ .free) ∧
    (∃ (s : State) (q : Nat) (c : Cmd) (tn : BitVec 8), NextCommand s q 7 c tn ∧ s.pkg.boot = .recovery ∧ c.stage = 0) ∧
    (∃ (s : State) (q : Nat) (c : Cmd) (tn : BitVec 8), NextCommand s q 8 c tn ∧ reqOf (s.hostRead q (c.arg 8 8) (c.arg 16 4)) = none) :=
  let w (c : Cmd) : State := asked (withCap (small []) cap1) c
  let tn := Config.ctxTenant 5
  let has : State := (withCap (small []) { cap1 with tenant := tn }).modCore 0 (fun x => { x with owner := 5 })
  let own : State := ran .trap has
  ⟨⟨(w (cmd 1 [])).modPkg (fun p => { p with boot := .recovery }), .installCapsule 0, 0, 1, cmd 1 [], rfl, by decide, by decide, by decide, by decide, by decide⟩,
    ⟨(w (cmd 1 [])).modPkg (fun p => { p with lds := [] }), .installCapsule 0, 0, 1, cmd 1 [], rfl, by decide, by decide, rfl⟩,
    ⟨w (cmd 11 [(8, 1)]), 0, cmd 11 [(8, 1)], 1, cap1, next_of (by decide) rfl (by decide), by decide, ⟨by decide, by decide, by decide⟩⟩,
    ⟨w (cmd 6 [(8, 1)]), 0, cmd 6 [(8, 1)], 1, cap1, next_of (by decide) rfl (by decide), ⟨by decide, by decide, by decide⟩, by decide⟩,
    ⟨askedAs tn has (cmd 13 [(8, 1), (12, 1), (24, 64)]), 0, cmd 13 [(8, 1), (12, 1), (24, 64)], tn, { cap1 with tenant := tn },
      next_of (by decide) rfl (by decide), ⟨rfl, rfl, by decide⟩, by decide, by decide, by decide, by decide, by decide, rfl, by decide, by decide⟩,
    ⟨w (cmd 12 [(12, 6)]), 0, cmd 12 [(12, 6)], 1, next_of (by decide) rfl (by decide), by decide⟩,
    ⟨askedAs tn own (cmd 12 [(8, 5), (12, 3)]), 0, cmd 12 [(8, 5), (12, 3)], tn, next_of (by decide) rfl (by decide), by decide, by decide, rfl, by decide,
      by decide, by decide, by decide⟩,
    ⟨askedAs tn own (cmd 12 [(8, 5), (12, 5)]), 0, cmd 12 [(8, 5), (12, 5)], tn, next_of (by decide) rfl (by decide), by decide, by decide, rfl⟩,
    ⟨w (cmd 7 []), 0, cmd 7 [], 1, next_of (by decide) rfl (by decide), by decide, by decide, by decide⟩,
    ⟨(w (cmd 7 [])).modPkg (fun p => { p with boot := .recovery }), 0, cmd 7 [], 1, ⟨by decide, .inl rfl, fun _ => Or.inl rfl⟩, by decide, by decide⟩,
    ⟨w (cmd 8 []), 0, cmd 8 [], 1, next_of (by decide) rfl (by decide), rfl⟩⟩

theorem witness_InterfacesFetchCompleteAndReset :
    (∃ (s : State) (q tail : Nat), s.listening q = true ∧ (s.qif q).tstate = .run ∧ (s.qif q).stopping = false ∧ tail < 2 ^ (s.qif q).s ∧
      tail = ((s.qif q).head + 1) % 2 ^ (s.qif q).s ∧ (s.qif q).due = [] ∧ (s.qif q).badTail = false ∧ (s.qif q).atHead = false) ∧
    (∃ (s : State) (q tail : Nat), s.listening q = true ∧ (s.qif q).tstate = .run ∧ (s.qif q).stopping = false ∧ tail = 2 ^ (s.qif q).s ∧
      (s.qif q).due = [] ∧ (s.qif q).tail = (s.qif q).head) ∧
    (∃ (s : State) (q tail : Nat), s.listening q = true ∧ (s.qif q).tstate = .run ∧ (s.qif q).stopping = false ∧ tail = 2 ^ (s.qif q).s ∧
      (s.qif q).atHead = true) ∧
    (∃ (s : State) (q v : Nat), s.listening q = true ∧ v < 2 ^ (s.qif q).s ∧
      (v + 2 ^ (s.qif q).s - (s.qif q).cqhead) % 2 ^ (s.qif q).s ≤ ((s.qif q).ctail + 2 ^ (s.qif q).s - (s.qif q).cqhead) % 2 ^ (s.qif q).s) ∧
    (∃ (s : State) (q : Nat) (c : Completion) (rest : List Completion), (s.qif q).due = c :: rest ∧ ((s.qif q).ctail + 1) % 2 ^ (s.qif q).s ≠ (s.qif q).cqhead ∧
      (s.qif q).tstate = .run) ∧
    (∃ (s : State) (q : Nat) (c : Completion) (rest : List Completion), (s.qif q).due = c :: rest ∧ ((s.qif q).ctail + 1) % 2 ^ (s.qif q).s = (s.qif q).cqhead) ∧
    (∃ (s : State) (q : Nat), s.pkg.boot = .running ∧ q < 4096 ∧ (s.qif q).tstate = .unlocked) ∧
    (∃ (s : State) (q : Nat), s.listening q = true ∧ (s.qif q).tstate = .run) ∧
    (∃ (s : State) (ld : Nat), s.pkg.boot = .running ∧ s.pkg.switched = true ∧ ld = 15 ∧ Presented s ld) ∧
    (∃ (s : State) (ld : Nat), s.pkg.boot = .running ∧ s.pkg.switched = false ∧ ld = 2 ∧ ¬Presented s ld) ∧
    (∃ (s : State) (ld : Nat), s.pkg.boot = .running ∧ Presented s ld ∧ Tab.wf Slot.reset s.slots = true) :=
  let s (h : Nat) : State := (asked (small []) (cmd 11 [])).modPkg (fun p =>
    { p with qifs := [(0, { QIf.reset with tstate := .run, cqhead := h, due := [⟨5, 0, 0⟩] })] })
  let sw (b : Bool) : State := (small []).modPkg (fun p => { p with switched := b })
  ⟨⟨asked (small []) (cmd 11 []), 0, 1, by decide, by decide, by decide, by decide, by decide, by decide, by decide, by decide⟩,
    ⟨asked (small []) (cmd 11 []), 0, 16, by decide, by decide, by decide, by decide, by decide, by decide⟩,
    ⟨(asked (small []) (cmd 3 [])).modQif 0 (fun x => { x with atHead := true }), 0, 16, by decide, by decide, by decide, by decide, by decide⟩,
    ⟨s 0, 0, 0, by decide, by decide, by decide⟩,
    ⟨s 0, 0, ⟨5, 0, 0⟩, [], by decide, by decide, by decide⟩, ⟨s 1, 0, ⟨5, 0, 0⟩, [], by decide, by decide⟩,
    ⟨small [], 4095, by decide, by decide, by decide⟩, ⟨s 0, 0, by decide, by decide⟩, ⟨sw true, 15, by decide, rfl, rfl, by unfold Presented; decide⟩,
    ⟨sw false, 2, by decide, rfl, rfl, by unfold Presented; decide⟩, ⟨sw true, 15, by decide, by unfold Presented; decide, by decide⟩⟩

theorem witness_RequestsAreAnsweredInOrder :
    (∃ (s : State) (i : Instr) (x : SpdmReq) (chan : Nat) (msg : List Byte), spdmOf i = some (some x, chan, msg) ∧ s.pkg.boot = .running ∧ chan ≤ 1 ∧
      reqOf msg = some x ∧ InTurn x s.pkg.spdm.phase s.pkg.spdm.session) ∧
    (∃ (s : State) (i : Instr) (x : SpdmReq) (chan : Nat) (msg : List Byte), spdmOf i = some (some x, chan, msg) ∧ s.pkg.boot = .running ∧ chan ≤ 1 ∧
      reqOf msg = some x ∧ ¬InTurn x s.pkg.spdm.phase s.pkg.spdm.session) ∧
    (∃ (s : State) (i : Instr) (chan : Nat) (msg : List Byte), spdmOf i = some (none, chan, msg) ∧ s.pkg.boot = .running ∧ chan ≤ 1 ∧ reqOf msg = none) :=
  ⟨⟨small [], .getVersion 1 [0x13, 0x84], .getVersion, 1, [0x13, 0x84], rfl, by decide, by decide, by decide, trivial⟩,
    ⟨small [], .getCapabilities 0 [0x13, 0xE1], .getCapabilities, 0, [0x13, 0xE1], rfl, by decide, by decide, by decide, by unfold InTurn; decide⟩,
    ⟨small [], .unsupportedRequest 0 [0x13, 1], 0, [0x13, 1], rfl, by decide, by decide, by decide⟩⟩

theorem witness_PowerPodsErrorsAndRepair :
    (∃ (s : State) (tj : BitVec 8), s.pkg.boot ≠ .off ∧ s.pkg.thermal = .normal ∧ tj.toNat = 95) ∧
    (∃ (s : State) (tj : BitVec 8), s.pkg.thermal = .throttle ∧ tj.toNat = 90) ∧
    (∃ (s : State) (tj : BitVec 8), s.pkg.boot ≠ .off ∧ tj.toNat = 105) ∧
    (∃ (s : State) (n : Nat), s.pkg.boot = .running ∧ s.pkg.accepted = false ∧ s.pkg.podNo = none ∧ n < 256 ∧ ∀ p ∈ s.slots, p.2.claims = 0) ∧
    (∃ (s : State) (d : Nat), d < 8 ∧ clkL s d ≤ s.trueTime + s.clockBound) ∧
    (∃ (s : State) (c k r : Nat), 1 ≤ r ∧ r < 16 ∧ k < slotsOf c ∧ r < 4 * (s.slot c k).vsize) ∧
    (∃ (s : State) (c : Nat), isCompute c = true ∧ (s.core c).health = .ok) ∧
    (∃ (s : State) (c : Nat), isCompute c = true ∧ (s.core c).health = .stopped ∧ (s.cluster (clusterOf c)).spareUsed = false) ∧
    (∃ (s : State) (c : Nat), isCompute c = true ∧ (s.core c).health = .stopped ∧ (s.cluster (clusterOf c)).spareUsed = true) :=
  let f := ran (.coreCheckFailure 0) (small [])
  ⟨⟨small [], 95, by decide, by decide, by decide⟩, ⟨ran (.throttleEntry 95 false) (small []), 90, by decide, by decide⟩,
    ⟨small [], 105, by decide, by decide⟩, ⟨small [], 255, by decide, by decide, by decide, by decide, by decide⟩,
    ⟨small [], 7, by decide, by decide⟩,
    ⟨small [], 0, 0, 15, by decide, by decide, by decide, by decide⟩, ⟨small [], 3071, by decide, by decide⟩, ⟨f, 0, by decide, by decide, by decide⟩,
    ⟨f.modCluster 0 (fun x => { x with spareUsed := true }), 0, by decide, by decide, by decide⟩⟩

/-- The word w stands at the program counter of slot 0 of core 0, whose turn is next. -/
def fetching (w : Word) : State :=
  let s := (mapped (put8 (small [(1, 1), (9, 2)]) 0x20000 w) page).modMe (fun x => { x with pc := 0x10000 })
  { s with todo := [.turn 0 0] }

theorem canonical_low : Translated 0x10000 := ⟨fun i h h' => by
    have : ∀ j < 7, (0x10000 : Word).getLsbD (57 + j) = (0x10000 : Word).getLsbD 56 := by decide
    have := this (i - 57) (by omega)
    rwa [show 57 + (i - 57) = i by omega] at this, by decide, by decide⟩

/-- The slot that fetches issues the word: it is of no frame, so it is fetched. -/
theorem fetching_issues {w : Word} {v : BitVec 32} (hf : FetchesWord { fetching w with todo := [] } 0x10000 v) (h : (fetching w).me.frame = false)
    (p : (fetching w).me.pc = 0x10000) (e : ((fetching w).me.holdWord 0 v).word = v) :
    Issues { fetching w with todo := [] } v (({ fetching w with todo := [] } : State).modMe (fun x => x.holdWord 0 v)) := by
  have m : missingWords ({ fetching w with todo := [] } : State).me = [(0, 0x10000)] := by
    show missingWords (fetching w).me = _
    simp [missingWords, h, p]
  refine .inr ⟨fun h' => absurd h' (by rw [show ({ fetching w with todo := [] } : State).me.frame = (fetching w).me.frame from rfl, h]; decide), ?_, ?_⟩
  · rw [m]; exact ⟨v, hf, rfl⟩
  · rw [State.me_modMe]; exact e

theorem witness_StepRunsTheDecodedInstruction :
    (∃ (s : State) (c k : Nat) (rest : List Happening) (w : BitVec 32) (i : Instr) (u : State), s.todo = .turn c k :: rest ∧ s.now % 16 = k ∧
      let t : State := { s with todo := rest, curCore := c, curSlot := k }
      MayIssue t ∧ t.me.st = .ready ∧ Issues t w u ∧ decode w = .ok i ∧ (u.me.stopReq ≠ .anchor ∨ i ≠ .anchor) ∧ u.me.park ≠ 6) ∧
    (∃ (s : State) (c k : Nat) (rest : List Happening) (w : BitVec 32) (i : Instr) (u : State), s.todo = .turn c k :: rest ∧ s.now % 16 = k ∧
      let t : State := { s with todo := rest, curCore := c, curSlot := k }
      MayIssue t ∧ t.me.st = .ready ∧ t.me.frame = true ∧ Issues t w u ∧ decode w = .ok i ∧ u.me.stopReq = .anchor ∧ i ≠ .anchor ∧ u.me.park = 6 ∧
        ¬CountedWord i) ∧
    (∃ (s : State) (c k : Nat) (rest : List Happening) (w : BitVec 32) (u : State), s.todo = .turn c k :: rest ∧ s.now % 16 = k ∧
      let t : State := { s with todo := rest, curCore := c, curSlot := k }
      MayIssue t ∧ t.me.st = .ready ∧ Issues t w u ∧ decode w = .ok .anchor ∧ u.me.stopReq = .anchor ∧ u.me.park ≠ 6) ∧
    (∃ (s : State) (c k : Nat) (rest : List Happening) (w : BitVec 32) (r : Reject) (u : State), s.todo = .turn c k :: rest ∧ s.now % 16 = k ∧
      let t : State := { s with todo := rest, curCore := c, curSlot := k }
      MayIssue t ∧ t.me.st = .ready ∧ Issues t w u ∧ decode w = .error r ∧ u.me.park ≠ 6) ∧
    (∃ (s : State) (c k : Nat) (rest : List Happening), s.todo = .turn c k :: rest ∧ s.now % 16 ≠ k) ∧
    (∃ (s : State) (c k : Nat) (rest : List Happening), s.todo = .turn c k :: rest ∧ s.now % 16 = k ∧ s.pkg.boot = .running ∧
      (s.core c).health = .ok ∧ (s.slot c k).st = .ready ∧ (s.slot c k).unwind = none ∧ (s.slot c k).stopReq = .now_) ∧
    (∃ (s : State) (c k : Nat) (rest : List Happening) (n : Nat), s.todo = .turn c k :: rest ∧ s.now % 16 = k ∧ s.pkg.boot = .running ∧
      (s.core c).health = .ok ∧ (s.slot c k).st = .parked ∧ (s.slot c k).unwind = some n) ∧
    (∃ (s : State) (i : Instr) (rest : List Happening), s.todo = .event i :: rest ∧ isEvent i = true) ∧ (∃ s : State, s.todo = []) :=
  let held (w : BitVec 32) (pk : Nat) : State :=
    (fetching 0).modMe (fun x => { (x.setPark pk) with sw := (x.setPark pk).sw ||| 8, frameBuf := [(0, w)], stopReq := .anchor })
  let told (f : Slot → Slot) : State := (fetching 0).modMe f
  ⟨⟨fetching 0x05464000, 0, 0, [], 0x05464000, .add 5 1 9, _, rfl, rfl, ⟨by decide, by decide, by decide, by decide, by decide⟩, by decide,
      fetching_issues ⟨canonical_low, page, by decide, Or.inr (by decide), by decide, by decide, ⟨.home 4, by decide⟩, by decide, by decide⟩ (by decide) (by decide) (by decide),
      rfl, by decide, by decide⟩,
    ⟨held 0x05464000 6, 0, 0, [], 0x05464000, .add 5 1 9, _, rfl, rfl, ⟨by decide, by decide, by decide, by decide, by decide⟩, by decide, by decide,
      .inl ⟨⟨by decide, by decide⟩, rfl⟩, rfl, by decide, by decide, by decide, by rintro (⟨_, _, h⟩ | ⟨_, _, h⟩ | ⟨_, _, _, _, h⟩) <;> cases h⟩,
    ⟨held (encode .anchor) 0, 0, 0, [], encode .anchor, _, rfl, rfl, ⟨by decide, by decide, by decide, by decide, by decide⟩, by decide,
      .inl ⟨⟨by decide, by decide⟩, rfl⟩, by decide, by decide, by decide⟩,
    ⟨fetching 0, 0, 0, [], 0, _, _, rfl, rfl, ⟨by decide, by decide, by decide, by decide, by decide⟩, by decide,
      fetching_issues ⟨canonical_low, page, by decide, Or.inr (by decide), by decide, by decide, ⟨.home 4, by decide⟩, by decide, by decide⟩ (by decide) (by decide) (by decide),
      rfl, by decide⟩,
    ⟨{ fetching 0 with todo := [.turn 0 1] }, 0, 1, [], rfl, by decide⟩,
    ⟨told (fun x => { x with stopReq := .now_ }), 0, 0, [], rfl, rfl, by decide, by decide, by decide, by decide, by decide⟩,
    ⟨told (fun x => { x with st := .parked, unwind := some 9 }), 0, 0, [], 9, rfl, rfl, by decide, by decide, by decide, by decide⟩,
    ⟨{ small [] with todo := [.event .powerLoss] }, .powerLoss, [], rfl, rfl⟩, ⟨State.reset, rfl⟩⟩

theorem witness_DecodeAndEncodeAgree : (∃ i : Instr, IsWord i ∧ i.wf = true) ∧ ∃ (w : BitVec 32) (i : Instr), decode w = .ok i :=
  ⟨⟨.add 5 1 9, ⟨rfl, fun w => by exact Instr.noConfusion⟩, rfl⟩, ⟨0x05464000, .add 5 1 9, rfl⟩⟩
theorem witness_EveryStepKeepsMemoryWellFormed : ∃ s : State, MemInv s ∧ s.mem ≠ [] := ⟨fetching 5, by unfold MemInv; decide, by decide⟩
theorem witness_UserWordsChangeNoOwnerKeyOrTable :
    ∃ (s t : State) (i : Instr), IsWord i ∧ isCompute s.curCore = true ∧ s.me.priv = false ∧ exec i s = .next t :=
  ⟨small [(1, 1), (9, 2)], _, .add 5 1 9, ⟨rfl, fun w => by exact Instr.noConfusion⟩, by decide, by decide, rfl⟩
theorem witness_EveryInstructionGoesOn : ∃ s : State, MemInv s ∧ s.mem ≠ [] := ⟨fetching 5, by unfold MemInv; decide, by decide⟩
theorem witness_ResetLeavesWhatTheSpecSays : ∃ c o n : Nat, c < 3072 ∧ o < 2 ^ 18 ∧ 15 ≤ n ∧ n ≤ 41 := ⟨3071, 0x3FFFF, 41, by decide, by decide, by decide, by decide⟩

/-! ## Clauses of statements that have hypotheses of their own -/

theorem witness_NumberFormats :
    (∃ (m : Nat) (e : Int) (n big : Nat) (d : Int), 0 < m ∧ fmtF32.decode fmtF32.max = .fin false big d ∧
      RoundsTo false m e (max (e + Nat.log2 m) (-126) - 23) n ∧ ¬AtMost n (max (e + Nat.log2 m) (-126) - 23) big d) ∧
    (∃ (m : Nat) (e : Int) (n big : Nat) (d : Int), 0 < m ∧ fmtF32.decode fmtF32.max = .fin false big d ∧
      RoundsTo false m e (max (e + Nat.log2 m) (-126) - 23) n ∧ AtMost n (max (e + Nat.log2 m) (-126) - 23) big d ∧
      ¬SameValue m e n (max (e + Nat.log2 m) (-126) - 23) ∧ n % 2 = 0) ∧
    (∃ (m : Nat) (e d : Int) (a b : Bool), fmtF32.decode 0xBF800000 = .fin a m e ∧ fmtF32.decode 0x80000001 = .fin b 1 d) ∧
    (fmtF32.decode 0x7F800001 = .nan true ∧ fmtF32.decode 0x7F800000 = .inf false ∧ fmtF32.decode 0xFF800000 = .inf true ∧
      ∃ e, fmtF32.decode 0 = .fin false 0 e) ∧
    (∃ (m : Nat) (g e : Int) (fr : Nat), ETy.f32.decode 0x3FC00000 = .fin false m g ∧ 0 < m ∧ fr < 2 ^ 23 ∧ SameValue m g (2 ^ 23 + fr) (e - 23) ∧ e < 7) ∧
    (∃ (m : Nat) (g e : Int) (fr : Nat), ETy.f32.decode 0x43000000 = .fin false m g ∧ 0 < m ∧ fr < 2 ^ 23 ∧ SameValue m g (2 ^ 23 + fr) (e - 23) ∧ 7 ≤ e) ∧
    (∃ (m : Nat) (g e : Int) (fr : Nat), ETy.f32.decode 0xC3160001 = .fin true m g ∧ 0 < m ∧ fr < 2 ^ 23 ∧ SameValue m g (2 ^ 23 + fr) (e - 23) ∧
      ¬AtMost m g 150 0) ∧
    (∃ (x : Nat) (e : Int), 0 < x ∧ (¬AtMost x e 118986 (-13) ∨ SameValue x e 118986 (-13))) ∧
    (∃ (x : Nat) (e : Int), 0 < x ∧ ¬(¬AtMost x e 118986 (-13) ∨ SameValue x e 118986 (-13))) ∧
    (∃ (m : Nat) (e : Int) (n : Nat), RoundsTo false m e 0 n ∧ (127 : Int) < withSign false n) ∧
    (∃ (m : Nat) (e : Int) (n : Nat), RoundsTo false m e 0 n ∧ withSign true n = (-128 : Int)) :=
  ⟨⟨1, 128, 2 ^ 23, _, _, by decide, rfl, by unfold RoundsTo; decide, by decide⟩,
    ⟨2 ^ 24 + 1, 0, 2 ^ 23, _, _, by decide, rfl, by unfold RoundsTo; decide, by decide, by decide, by decide⟩,
    ⟨_, _, _, _, _, rfl, rfl⟩, ⟨rfl, rfl, rfl, _, rfl⟩,
    ⟨_, _, 0, 2 ^ 22, rfl, by decide, by decide, by decide, by decide⟩, ⟨_, _, 7, 0, rfl, by decide, by decide, by decide, by decide⟩,
    ⟨_, _, 7, 0x160001, rfl, by decide, by decide, by decide, by decide⟩,
    ⟨118986, -13, by decide, by decide⟩, ⟨118985, -13, by decide, by decide⟩,
    ⟨255, -1, 128, by unfold RoundsTo; decide, by decide⟩, ⟨257, -1, 128, by unfold RoundsTo; decide, by decide⟩⟩

theorem witness_FrameWordsStep :
    (∃ (x : Slot) (i : Instr), IsWord i ∧ i.wf = true ∧ frameMajor (majorOf (encode i)) = true ∧ FieldsInWindow x (encode i) ∧ x.frame = true ∧
      0x20 ≤ majorOf (encode i)) ∧
    (∃ (x : Slot) (i : Instr), IsWord i ∧ i.wf = true ∧ frameMajor (majorOf (encode i)) = true ∧ FieldsInWindow x (encode i) ∧ x.frame = false) :=
  ⟨⟨(framed []).me, .vceqI 2 6 15 14 5, ⟨rfl, fun w => by exact Instr.noConfusion⟩, by decide, by decide, by unfold FieldsInWindow; decide, by decide, by decide⟩,
    ⟨(small []).me, .addi 1 2 3, ⟨rfl, fun w => by exact Instr.noConfusion⟩, by decide, by decide, by unfold FieldsInWindow; decide, by decide⟩⟩

theorem witness_OperandsStop :
    (∃ (s : State) (i : Instr) (vd vs : List VReg) (srcs : List Reg) (dst : Option Reg), operandsOf i = some (vd, vs, srcs, dst) ∧ i.wf = true ∧
      ¬illegalHere s i ∧ s.me.park ≠ 6 ∧ levelOf i = .user ∧ s.me.frame = false ∧ (∀ v ∈ vd ++ vs, v.toNat < 4 * s.me.vsize) ∧
      ∃ r ∈ srcs, s.me.isFull r = false ∧ r ≠ 14) ∧
    (∃ (s : State) (i : Instr) (vd vs : List VReg) (srcs : List Reg) (dst : Option Reg), operandsOf i = some (vd, vs, srcs, dst) ∧ i.wf = true ∧
      ¬illegalHere s i ∧ s.me.park ≠ 6 ∧ levelOf i = .user ∧ s.me.frame = false ∧ (∀ v ∈ vd ++ vs, v.toNat < 4 * s.me.vsize) ∧
      (∀ r ∈ srcs, s.me.isFull r = true ∨ (r = 14 ∧ s.onChain = true)) ∧ s.pops srcs = true ∧ s.chainHead s.curCore s.curSlot = none) ∧
    (∃ (s : State) (i : Instr) (vd vs : List VReg) (srcs : List Reg) (dst : Option Reg), operandsOf i = some (vd, vs, srcs, dst) ∧ i.wf = true ∧
      ¬illegalHere s i ∧ s.me.park ≠ 6 ∧ levelOf i = .user ∧ s.me.frame = false ∧ (∀ v ∈ vd ++ vs, v.toNat < 4 * s.me.vsize) ∧
      (∀ r ∈ srcs, s.me.isFull r = true) ∧ s.onChain = false ∧ ∃ r ∈ srcs, s.me.badG.getLsbD r.toNat = true) ∧
    (∃ (s : State) (i : Instr) (vd vs : List VReg) (srcs : List Reg) (dst : Option Reg), operandsOf i = some (vd, vs, srcs, dst) ∧ i.wf = true ∧
      ¬illegalHere s i ∧ s.me.park ≠ 6 ∧ levelOf i = .user ∧ s.me.frame = false ∧ (∀ v ∈ vd ++ vs, v.toNat < 4 * s.me.vsize) ∧
      (∀ r ∈ srcs, s.me.isFull r = true ∧ s.me.badG.getLsbD r.toNat = false) ∧ s.onChain = false ∧
      ∃ v ∈ vs, 4 * s.me.vbase + v.toNat ∈ (s.core s.curCore).badV) :=
  ⟨⟨small [(1, 1)], .add 3 1 2, _, _, _, _, rfl, rfl, by unfold illegalHere; exact not_false, by decide, rfl, by decide, by decide, 2, by decide, by decide, by decide⟩,
    ⟨(small [(1, 1)]).modMe (fun x => { x with sw := x.sw ||| 2 }), .sel 3 1 14 1, _, _, _, _, rfl, rfl, by unfold illegalHere; exact not_false, by decide, rfl,
      by decide, by decide, by decide, by decide, by decide⟩,
    ⟨ran (.softError (.gReg 0 0 2) false) (small [(1, 1), (2, 2)]), .st 2 1 3 0 0 0, _, _, _, _, rfl, rfl, by unfold illegalHere; exact not_false, by decide, rfl,
      by decide, by decide, by decide, by decide, 2, by decide, by decide⟩,
    ⟨ran (.softError (.vReg 0 0 15) false) (small []), .vaddI 2 0 15 1 0, _, _, _, _, rfl, rfl, by unfold illegalHere; exact not_false, by decide, rfl,
      by decide, by decide, by decide, by decide, 15, by decide, by decide⟩⟩

/-- The slot whose turn it is has a pending guard record. -/
def guarded (s : State) : State := s.modMe (fun x => { x with guardRec := some ⟨0, 0x1000, 1⟩ })

theorem witness_GuardRecordsStop :
    (∃ (s : State) (d a b : Reg) (r : GuardRec), s.me.park ≠ 6 ∧ PassesG s false [a, b] (some d) ∧ s.me.guardRec = some r) ∧
    (∃ (s : State) (id : BitVec 6) (lv : BitVec 3) (r : GuardRec), (Instr.bar id lv).wf = true ∧ PassesG s false [] none ∧ s.me.park ≠ 6 ∧
      s.me.guardRec = some r) ∧
    (∃ (s : State) (d : Reg) (r : GuardRec), PassesG s false [] (some d) ∧ s.me.park ≠ 6 ∧ s.me.guardRec = some r) :=
  ⟨⟨guarded (small [(1, 1), (2, 2)]), 3, 1, 2, ⟨0, 0x1000, 1⟩, by decide, passes_of (by decide), rfl⟩,
    ⟨guarded (small []), 3, 5, ⟨0, 0x1000, 1⟩, rfl, passes_of (by decide), by decide, rfl⟩,
    ⟨guarded (small []), 3, ⟨0, 0x1000, 1⟩, passes_of (by decide), by decide, rfl⟩⟩

/-- A page of device registers at 0x10000. -/
def device : TlbEnt := { page with ty := .device, pa := 0xF000000000000, gpa := 0xF000000000000 }

theorem witness_DeviceAccesses :
    (∃ (s : State) (i : Instr) (d a : Reg) (l : Loc), i = .st d a 3 0 2 0 ∧ PassesG s false [a, d] none ∧
      s.locate (ea s a 0 8) 8 .store false true = .ok l ∧ l.rp = false ∧ l.ty = .device ∧ s.me.buf = [] ∧ s.quiet s.curCore s.curSlot = true) ∧
    (∃ (s : State) (i : Instr) (d a : Reg) (l : Loc), i = .st d a 3 4 2 0 ∧ PassesG s false [a, d] none ∧
      s.locate (ea s a 0 8) 8 .store false true = .ok l ∧ l.rp = false ∧ l.ty = .device ∧ s.me.buf = [] ∧ s.quiet s.curCore s.curSlot = false) ∧
    (∃ (s : State) (i : Instr) (d a : Reg) (l : Loc), i = .st d a 3 0 0 0 ∧ PassesG s false [a, d] none ∧
      s.locate (ea s a 0 8) 8 .store false true = .ok l ∧ l.rp = false ∧ l.ty = .device ∧ s.me.buf ≠ []) ∧
    (∃ (s : State) (i : Instr) (d a : Reg) (l : Loc), i = .st d a 3 0 0 0 ∧ PassesG s false [a, d] none ∧
      s.locate (ea s a 0 8) 8 .store false true = .ok l ∧ l.rp = false ∧ l.ty ≠ .device ∧ 4 ≤ s.me.buf.length) ∧
    (∃ (s : State) (c k : Nat) (d : Reg) (va : Word) (l : Loc), (s.slot c k).st = .parked ∧ (s.slot c k).pend = .load d va l 8 false ∧
      s.lostPlace l va = none ∧ s.reachable l = true ∧ badRead s c k l 8 = false ∧ l.place = .devReg ∧ (l.key - 0xF000000000000) / 8 = 0x10) ∧
    (∃ (s : State) (c k : Nat) (d : Reg) (va : Word) (l : Loc) (p : Nat), (s.slot c k).st = .parked ∧ (s.slot c k).pend = .load d va l 8 false ∧
      l.place = .pkg p ∧ p ∉ s.pkg.podMembers) ∧
    (∃ (s : State) (i n : Nat), (∀ m ∈ s.capIds, m < 2 ^ 16) ∧ i < 2 ^ 20 ∧ ([1, 2, 3].filter s.hasFeature ++ s.pkg.capList)[i]? = some n) ∧
    (∃ s : State, s.pkg.thermal = .throttle) ∧ (∃ s : State, s.pkg.thermal = .critical) :=
  let s := mapped (small [(1, 0x10000), (2, 5), (3, loc 0x100)]) device
  let b := ran (.st 2 3 3 0 0 0) s
  ⟨⟨s, _, 2, 1, ⟨0xF000000000000, .devReg, .device, false, false⟩, rfl, passes_of (by decide), loc_of (by decide), rfl, rfl, by decide, by decide⟩,
    ⟨s.modMe (fun x => { x with out := [entryOf s 0x30000 ⟨0x40000, .home 4, .normal, false, false⟩ 8 5 false false 0] }), _, 2, 1,
      ⟨0xF000000000000, .devReg, .device, false, false⟩, rfl, passes_of (by decide), loc_of (by decide), rfl, rfl, by decide, by decide⟩,
    ⟨b, _, 2, 1, ⟨0xF000000000000, .devReg, .device, false, false⟩, rfl, passes_of (by decide), loc_of (by decide), rfl, rfl, by decide⟩,
    ⟨ran (.st 2 3 3 0 0 3) (ran (.st 2 3 3 0 0 2) (ran (.st 2 3 3 0 0 1) b)), _, 2, 3, here 0x100, rfl, passes_of (by decide), loc_of (by decide), rfl,
      by decide, by decide⟩,
    ⟨waiting (small []) (.load 3 0x10080 ⟨0xF000000000080, .devReg, .device, false, false⟩ 8 false), 0, 0, _, _, _, rfl, rfl, by decide, by decide, by decide, rfl,
      by decide⟩,
    ⟨waiting (small []) (.load 3 0x10000 ⟨2 ^ 51, .pkg 7, .normal, false, false⟩ 8 false), 0, 0, _, _, _, 7, rfl, rfl, rfl, by decide⟩,
    ⟨(small []).modPkg (fun p => { p with capList := [5], cxlBytes := 1 }), 1, 5, by decide, by decide, by decide⟩,
    ⟨ran (.throttleEntry 95 false) (small []), by decide⟩, ⟨ran (.criticalShutdown 105) (small []), by decide⟩⟩

theorem witness_BarriersResumeAndStop :
    (∃ (s : State) (id : BitVec 6), (Instr.bar id 0).wf = true ∧ PassesG s false [] none ∧ s.me.park ≠ 6 ∧ s.me.guardRec = none ∧ s.curSlot < 16 ∧
      s.me.buf = [] ∧ s.quiet s.curCore s.curSlot = true ∧ s.me.st ≠ .free ∧
      s.busySlots s.curCore ≤ (s.core s.curCore).barArr + 1) ∧
    (∃ (s : State) (id : BitVec 6), (Instr.bar id 0).wf = true ∧ PassesG s false [] none ∧ s.me.park ≠ 6 ∧ s.me.guardRec = none ∧ s.curSlot < 16 ∧
      s.me.buf = [] ∧ s.quiet s.curCore s.curSlot = true ∧ s.me.st ≠ .free ∧
      (s.core s.curCore).barArr + 1 < s.busySlots s.curCore) ∧
    (∃ (s : State) (lv : Nat) (id : BitVec 6), s.me.park = 6 ∧ s.me.bgen ≠ decide (s.currentGen lv (barInst lv s.curCore) id.toNat % 2 = 1)) ∧
    (∃ (s : State) (c k id gen due r inst : Nat) (d : Reg), s.pkg.rels.find? (fun x => x.1 = id && decide (x.2.2.1 ≤ s.now)) = some (id, gen, due, r) ∧
      k < 16 ∧ (s.slot c k).st = .stopped ∧ (s.slot c k).pend = .barrier 5 inst id gen (some d) ∧ r < clkE s (dieOf c)) ∧
    (∃ (s : State) (id : BitVec 6), s.me.park = 6 ∧ s.me.bgen ≠ decide (s.currentGen 5 0 id.toNat % 2 = 1) ∧ s.me.stampIn = true) ∧
    (∃ (s : State) (id : BitVec 6), s.me.park = 6 ∧ s.me.bgen ≠ decide (s.currentGen 5 0 id.toNat % 2 = 1) ∧ s.me.stampIn = false ∧
      (s.bar 5 0 id.toNat).stamp < clkE s (dieOf s.curCore)) ∧
    (∃ (s : State) (c k r due : Nat) (d : Reg), (s.slot c k).st = .stopped ∧ (s.slot c k).pend = .sbarRel d r due ∧ r < clkE s (dieOf c)) :=
  let two := (small []).setSlot 0 1 { Slot.reset with st := .ready, tenant := 1 }
  let gone (n : Nat) (b : Bool) : State :=
    ((stampedAt [] 8 9).modPkg (fun p => { p with bars := Tab.put p.bars (barKey 5 0 3) ⟨2, 1, 0, n⟩ })).modMe (fun x => { (x.setPark 6) with stampIn := b })
  ⟨⟨small [], 0, rfl, passes_of (by decide), by decide, by decide, by decide, by decide, by decide, by decide, by decide⟩,
    ⟨two, 0, rfl, passes_of (by decide), by decide, by decide, by decide, by decide, by decide, by decide, by decide⟩,
    ⟨gone 7 false, 5, 3, by decide, by decide⟩,
    ⟨((stampedAt [] 8 9).modPkg (fun p => { p with rels := [(3, 0, 0, 7)] })).modMe (fun x => { x with st := .stopped, pend := .barrier 5 0 3 0 (some 4) }),
      0, 0, 3, 0, 0, 7, 0, 4, by decide, by decide, by decide, by decide, by decide⟩,
    ⟨gone 7 true, 3, by decide, by decide, by decide⟩, ⟨gone 7 false, 3, by decide, by decide, by decide, by decide⟩,
    ⟨(stampedAt [] 8 9).modMe (fun x => { x with st := .stopped, pend := .sbarRel 3 7 0 }), 0, 0, 7, 0, 3, by decide, by decide, by decide⟩⟩

theorem witness_HeldStoresTakeTheirTurn :
    (∃ (s : State) (c k : Nat) (cas : Bool) (d : Reg) (va v e : Word) (l : Loc) (stamp n : Nat), k < 16 ∧ Tab.wf Slot.reset s.slots = true ∧
      (s.slot c k).st = .parked ∧ (s.slot c k).pend = .stamped cas d va l stamp v e (.held n) ∧ n = 3 ∧
      s.slots.all (fun p => decide (p.1 = 16 * c + k) || match heldOn (l.key / 64) p.2 with
        | some m => decide (n < m)
        | none => true) = true) ∧
    (∃ (s : State) (line : Nat), s.slots ≠ [] ∧ ∀ p ∈ s.slots, heldOn line p.2 = none) ∧
    (∃ (s t : State) (l : Loc) (stamp n : Nat) (d : Reg) (va v e : Word), s.todo = [] ∧ step s = .next t ∧ (t.slot 0 0).st = .parked ∧
      (t.slot 0 0).pend = .stamped false d va l stamp v e (.held n) ∧ roomFor (t.versions (l.key / 64)) (homeSees t l) = true) ∧
    (∃ (s : State) (c k p : Nat) (cas : Bool) (d : Reg) (va v e : Word) (l : Loc) (stamp : Nat), (s.slot c k).st = .parked ∧
      (s.slot c k).pend = .stamped cas d va l stamp v e .sent ∧ l.place = .pkg p ∧ p ∉ s.pkg.podMembers) ∧
    (∃ (s : State) (c k code : Nat) (cas : Bool) (d : Reg) (va v e w : Word) (l : Loc) (stamp : Nat), (s.slot c k).st = .parked ∧
      (s.slot c k).pend = .stamped cas d va l stamp v e (.answered code w) ∧ code = 24) :=
  let held (n : Nat) : Pend := .stamped false 5 0x10000 stampedLoc 164 7 0 (.held n)
  let away : Loc := ⟨2 ^ 51, .pkg 7, .stamped, false, false⟩
  ⟨⟨parkedAt (parkedAt (small []) 0 0 (held 3)) 0 1 (held 4), 0, 0, false, 5, 0x10000, 7, 0, stampedLoc, 164, 3, by decide, by decide, by decide, by decide, rfl, by decide⟩,
    ⟨small [], 0, by decide, by decide⟩,
    ⟨parkedAt (small []) 0 0 (held 3), _, stampedLoc, 164, 3, 5, 0x10000, 7, 0, by decide, rfl, by decide, by decide, by decide⟩,
    ⟨waiting (small []) (.stamped false 5 0x10000 away 164 7 0 .sent), 0, 0, 7, _, _, _, _, _, _, _, rfl, rfl, rfl, by decide⟩,
    ⟨waiting (small []) (.stamped false 5 0x10000 stampedLoc 164 7 0 (.answered 24 0)), 0, 0, 24, _, _, _, _, _, _, _, _, rfl, rfl, rfl⟩⟩

theorem witness_EnginesFailAndReport :
    (∃ (s : State) (cluster detail : Nat) (j : Job), s.runningJob cluster false = some j ∧ j.pageWait = false ∧ detail = 3) ∧
    (∃ (s : State) (cluster detail : Nat) (j : Job), s.runningJob cluster true = some j ∧ j.pageWait = false ∧ detail = 4) ∧
    (∃ (w : Work) (d : Nat), w.cut = some (0, d)) ∧ (∃ (w : Work) (m d : Nat), w.cut = some (m + 1, d)) ∧
    (∃ (s : State) (j : Job) (rest : List Job) (code detail : Nat) (fl : BitVec 8) (faddr : Word), (s.unit 0 true).jobs = j :: rest ∧
      j.stage = .ended code detail fl faddr ∧ s.unanswered 0 true j = false ∧ j.pageWait = false ∧ s.reachable j.line2 = true ∧ j.line2.rp = true) ∧
    (∃ (s : State) (q : Nat) (tenant : BitVec 8), q < 256 ∧ (s.evq tenant.toNat q).valid = true ∧
      s.wordFull ((s.evq tenant.toNat q).base + 16 * ((s.evq tenant.toNat q).tail % 2 ^ (s.evq tenant.toNat q).s)) = false ∧
      ((s.evq tenant.toNat q).base + 16 * ((s.evq tenant.toNat q).tail % 2 ^ (s.evq tenant.toNat q).s)) % 16 = 0) ∧
    (∃ (s : State) (q : Nat) (tenant : BitVec 8), q < 256 ∧ (s.evq tenant.toNat q).valid = true ∧
      s.wordFull ((s.evq tenant.toNat q).base + 16 * ((s.evq tenant.toNat q).tail % 2 ^ (s.evq tenant.toNat q).s)) = true) :=
  let run (copy : Bool) : State := holds copy [job 1 0 .running]
  let w (n : Nat) : Work := ⟨small [], 0, 0, fun _ => true, some (n, 3), []⟩
  let away : Job := { job 1 0 (.ended 0 0 0 0) with line2 := { here 0x240 with rp := true } }
  let evq : State := ran (.evqEnable 1 255 0x20000) (small [])
  ⟨⟨run false, 0, 3, job 1 0 .running, by decide, rfl, rfl⟩, ⟨run true, 0, 4, job 1 0 .running, by decide, rfl, rfl⟩, ⟨w 0, 3, rfl⟩, ⟨w 1, 0, 3, rfl⟩,
    ⟨holds true [away], away, [], 0, 0, 0, 0, by decide, rfl, by decide, rfl, by decide, rfl⟩,
    ⟨evq, 255, 1, by decide, by decide, by decide, by decide⟩,
    ⟨evq.setWordFull 0x20000 true, 255, 1, by decide, by decide, by decide⟩⟩

theorem witness_ImagesLieApart :
    (∃ (s : State) (c k tile : Nat) (va : Word) (pages : List Loc), (s.slot c k).st = .parked ∧ (s.slot c k).pend = .acc false va pages 0 tile true ∧
      va.toNat % 64 = 0 ∧ (∀ l ∈ pages, l.key % 8 = 0) ∧ (∀ p ∈ (imagePages va 532480).zip pages, s.lostPlace p.2 p.1 = none) ∧
      ∀ m n, m < 8 * edgeOf 0 * edgeOf 0 + edgeOf 0 * edgeOf 0 / 8 → n < 8 * edgeOf 0 * edgeOf 0 + edgeOf 0 * edgeOf 0 / 8 →
        (imageAt va pages m).1 = (imageAt va pages n).1 → m = n) ∧
    (∃ (s : State) (c k tile : Nat) (va : Word) (pages : List Loc) (pre post : List (Word × Loc)) (p : Word × Loc) (f : FaultCode × Word × Word),
      (s.slot c k).pend = .acc false va pages 0 tile true ∧ (imagePages va 532480).zip pages = pre ++ p :: post ∧ pre ≠ [] ∧
      (∀ q ∈ pre, s.lostPlace q.2 q.1 = none) ∧ s.lostPlace p.2 p.1 = some f) :=
  let ls : List Loc := (List.range 9).map (fun i => ⟨0x100000 + 0x10000 * i, .home 4, .normal, false, false⟩)
  ⟨⟨waiting (small []) (.acc false 0x100000 ls 0 1 true), 0, 0, 1, 0x100000, ls, rfl, rfl, by decide, by decide, by decide, by
      have at_ : ∀ n < 532480, (imageAt 0x100000 ls n).1 = 0x100000 + n := by
        intro n h
        have e : (0x100000 : Word).toNat = 0x100000 := rfl
        have q : n / 65536 < 9 := by omega
        have g : ∀ i < 9, (ls.getD i ⟨0, .devReg, .device, false, false⟩).key = 0x100000 + 0x10000 * i := by decide
        unfold imageAt
        rw [e]
        have d : (0x100000 + n) / 2 ^ 16 - 0x100000 / 2 ^ 16 = n / 65536 := by omega
        simp only [d, g _ q]
        split <;> omega
      intro m n hm hn h
      rw [at_ m (by simpa [edgeOf] using hm), at_ n (by simpa [edgeOf] using hn)] at h
      omega⟩,
    ⟨waiting (small []) (.acc false 0x100000 [⟨0x100000, .home 4, .normal, false, false⟩, ⟨2 ^ 51, .pkg 7, .normal, false, false⟩] 0 1 true), 0, 0, 1, 0x100000, _,
      [(0x100000, ⟨0x100000, .home 4, .normal, false, false⟩)], [], (0x110000, ⟨2 ^ 51, .pkg 7, .normal, false, false⟩), (.addr, 0x110000, 0), rfl, by decide, by decide, by decide, by decide⟩⟩

/-- The table of level 0 stands at address 0, and stage 2 is off. -/
theorem spot_of {s : State} {va : Word} {n tab : Nat} (h : s.populated tab (levelBytes n) = true) :
    EntrySpot s 0 0 0 va n tab (tab + 8 * (va.toNat / 2 ^ levelLow n % (if n = 4 then 32 else 512))) :=
  ⟨tab, 31, fun h => absurd h.1 (by decide), Or.inl ⟨by decide, rfl, rfl⟩, by decide, h, rfl⟩

set_option maxRecDepth 20000 in
theorem witness_WalksAnswer :
    (∃ (s : State) (va : Word) (tab pa : Nat), ComesTo s 0 0 0 va 2 tab ∧ EntrySpot s 0 0 0 va 2 tab pa ∧ s.badWord pa = false ∧
      bit (s.wordAs 0 pa) 0 = true ∧ ¬MalformedEntry 2 (s.wordAs 0 pa) ∧ bit (s.wordAs 0 pa) 1 = true ∧
      s.placeOf (bits (s.wordAs 0 pa) 8 44 * 256) = some (.home 4) ∧ s.populated (bits (s.wordAs 0 pa) 8 44 * 256) (2 ^ 30) = true ∧ TypeLies 0 (.home 4)) ∧
    (∃ (s : State) (va : Word) (tab pa : Nat), ComesTo s 0 0 0 va 0 tab ∧ EntrySpot s 0 0 0 va 0 tab pa ∧ s.badWord pa = false ∧
      bit (s.wordAs 0 pa) 0 = false) ∧
    (∃ (s : State) (va : Word) (tab pa : Nat), ComesTo s 0 0 0 va 0 tab ∧ EntrySpot s 0 0 0 va 0 tab pa ∧ s.badWord pa = false ∧
      bit (s.wordAs 0 pa) 0 = true ∧ MalformedEntry 0 (s.wordAs 0 pa)) ∧
    (∃ (s : State) (va : Word) (tab pa : Nat), ComesTo s 0 0 0 va 0 tab ∧ EntrySpot s 0 0 0 va 0 tab pa ∧ s.badWord pa = true) ∧
    (∃ (s : State) (va : Word) (tab : Nat), ComesTo s 1 0 0 va 0 tab ∧ ¬FrameInError s 1 0 0 tab ∧ ∀ f w, ¬(Framed s 1 0 0 tab f w ∧ bit w 1 = true)) ∧
    (∃ (s : State) (va : Word) (tab : Nat), ComesTo s 1 0x40000 1 va 0 tab ∧ FrameInError s 1 0x40000 1 tab) ∧
    (∃ (s : State) (va : Word) (tab f : Nat) (w : Word), ComesTo s 1 0x40000 1 va 0 tab ∧ ¬FrameInError s 1 0x40000 1 tab ∧
      Framed s 1 0x40000 1 tab f w ∧ bit w 1 = true ∧ f ≠ tab) :=
  let s := small []
  let p := paged s
  ⟨⟨p, 0x10000, 0x2000, 0x2000,
      ⟨0x1000, 0x1000, 0x2001, ⟨0, 0, 0x1001, rfl, spot_of (by decide), by decide, by decide, by decide, by decide, by unfold MalformedEntry; decide, by decide⟩,
        spot_of (by decide), by decide, by decide, by decide, by decide, by unfold MalformedEntry; decide, by decide⟩,
      spot_of (by decide), by decide, by decide, by unfold MalformedEntry; decide, by decide, by decide, by decide,
      ⟨fun _ => by decide, fun h => absurd h (by decide), fun h => absurd h (by decide)⟩⟩,
    ⟨s, 0x10000, 0, 0, rfl, spot_of (by decide), by decide, by decide⟩,
    ⟨put8 s 0 0x8000000000000001, 0x10000, 0, 0, rfl, spot_of (by decide), by decide, by decide, Or.inl (by decide)⟩,
    ⟨ran (.softError (.memWord 0) false) s, 0x10000, 0, 0, rfl, spot_of (by decide), by decide⟩,
    ⟨s, 0x10000, 0, rfl, fun h => absurd h.2.1 (by decide), fun f w h => by
      rcases h.1 with ⟨h, -⟩ | ⟨-, h, -⟩ <;> exact absurd h (by decide)⟩,
    ⟨ran (.softError (.memWord 0x40000) false) s, 0x10000, 0, rfl, by decide, by decide, by decide⟩,
    ⟨put8 s 0x40000 0x20001F, 0x10000, 0, 0x200000, 0x20001F, rfl, fun h => absurd h.2.2 (by decide),
      Or.inr ⟨by decide, by decide, by decide, by decide, by decide, by decide, by decide⟩, by decide, by decide⟩⟩

/-- A slot is parked at `add g5, g1, g9` (R62) in a machine in which a cycle is to begin. -/
def empty9 (regs : List (Reg × Word)) : State :=
  (small regs).modMe (fun x => { (x.setPark 1) with st := .parked, pend := .retry, word := 0x05464000 })

theorem witness_ParkedSlotsWake :
    (∃ s : State, s.todo = [] ∧ ((cycleBegun s).slot 0 0).st = .parked ∧ ((cycleBegun s).slot 0 0).pend = .retry ∧
      (∃ i, decode ((cycleBegun s).slot 0 0).word = .ok i) ∧ CauseStands (cycleBegun s) 0 0) ∧
    (∃ s : State, s.todo = [] ∧ ((cycleBegun s).slot 0 0).st = .parked ∧ ((cycleBegun s).slot 0 0).pend = .retry ∧
      (∃ i, decode ((cycleBegun s).slot 0 0).word = .ok i) ∧ ¬CauseStands (cycleBegun s) 0 0) ∧
    (∃ s : State, s.todo = [] ∧ ((cycleBegun s).slot 0 0).st = .ready ∧ (cycleBegun s).pkg.boot = .running) :=
  ⟨⟨empty9 [(1, 1)], by decide, by decide, by decide, ⟨.add 5 1 9, by decide⟩, ⟨.add 5 1 9, _, by decide, rfl, by decide, by decide, by decide⟩⟩,
    ⟨empty9 [(1, 1), (9, 2)], by decide, by decide, by decide, ⟨.add 5 1 9, by decide⟩, by
      rintro ⟨i, u, h, e, p, -⟩
      have : i = .add 5 1 9 := Except.ok.inj (h.symm.trans (by decide))
      subst this
      cases e
      exact absurd p (by decide)⟩,
    ⟨small [], by decide, by decide, by decide⟩⟩

theorem witness_SealsAreRefused :
    (∃ (s : State) (c k : Nat) (d : Reg) (req : List Byte) (dst : Word) (l : Loc) (f : FaultCode × Word × Word), (s.slot c k).st = .parked ∧
      (s.slot c k).pend = .asked (.seal d req dst [(dst, l)]) ∧ s.lostPlace l dst = some f) ∧
    (∃ (s : State) (key : Nat) (l : Loc), s.lostPlace l 0x10000 = none ∧ ¬SealAllowed s (SegHdr.ofBytes (ownBytes s key 32))) ∧
    (∃ (s : State) (key : Nat), SealAllowed s (SegHdr.ofBytes (ownBytes s key 32)) ∧ BadState s (SegHdr.ofBytes (ownBytes s key 32))) :=
  let k := 2 ^ 56 + 8193 * 2 ^ 18 + 0x100
  ⟨⟨waiting (small []) (.asked (.seal 5 [] 0x10000 [(0x10000, ⟨0xC000000000000 + 7 * 2 ^ 40, .pkg 7, .normal, false, false⟩)])), 0, 0, _, _, _, _,
      (.addr, 0x10000, 0), rfl, rfl, by decide⟩,
    ⟨sealing.modCore 40 (fun x => { x with quiesced := false }), k, ⟨0x20000, .home 4, .normal, false, false⟩, by decide,
      fun h => absurd h.2.2.2.2.2.2.1 (by decide)⟩,
    ⟨ran (.softError (.gReg 40 0 3) false) sealing, k,
      ⟨by decide, by decide, by decide, by decide, by decide, by decide, by decide, by decide, Or.inl (by decide)⟩,
      Or.inl ⟨by decide, by decide⟩⟩⟩

theorem plain_of {r : Resolved} (h : (match r with
    | .ok x => plainLoc x && !x.rp
    | _ => false) = true) : ∃ x, r = .ok x ∧ plainLoc x = true ∧ x.rp = false := by
  split at h
  · simp only [Bool.and_eq_true, Bool.not_eq_true'] at h; exact ⟨_, rfl, h⟩
  · cases h

set_option maxRecDepth 50000 in
theorem witness_CommandsWaitAndMove :
    (∃ (s : State) (i : Instr) (q code : Nat), commandOf i = some (q, code) ∧ s.pkg.updating = true ∧ (s.qif q).cmds ≠ [] ∧
      ∀ c ∈ (s.qif q).cmds, c.code = code → c.stage = 0) ∧
    (∃ (s : State) (q : Nat) (c : Cmd) (tn : BitVec 8), NextCommand s q 12 c tn ∧ c.arg 12 1 = 3 ∧ 15 < c.arg 13 1 ∧ c.arg 8 4 = 5 ∧
      Config.ctxTenant 5 = tn) ∧
    (∃ (s : State) (q : Nat) (c : Cmd) (tn : BitVec 8) (v : Saved) (y : Slot) (e : AnchorEnt), NextCommand s q 12 c tn ∧ c.arg 12 1 = 2 ∧ c.arg 8 4 = 5 ∧
      Config.ctxTenant 5 = tn ∧ (Tab.get Ctx.reset s.pkg.ctxs 5).saved = some v ∧ Tab.find? v.slots (16 * c.arg 14 2 + c.arg 13 1) = some y ∧
      s.debugAnchor y (Tab.get none v.anchors (16 * c.arg 14 2 + c.arg 13 1)) = some e ∧ e.live ≠ []) ∧
    (∃ (s : State) (q : Nat) (c : Cmd) (tn : BitVec 8), NextCommand s q 7 c tn ∧ s.pkg.boot = .recovery ∧ c.stage ≠ 0 ∧ (s.qif q).due = []) ∧
    (∃ (s : State) (q : Nat) (c : Cmd) (tn : BitVec 8), NextCommand s q 7 c tn ∧ s.pkg.boot = .recovery ∧ c.stage ≠ 0 ∧ (s.qif q).due ≠ []) ∧
    (∃ (s : State) (q : Nat) (c : Cmd) (tn : BitVec 8), NextCommand s q 7 c tn ∧ s.pkg.boot = .running ∧ c.stage ≠ 0) ∧
    (∃ (s : State) (q : Nat) (c : Cmd) (tn : BitVec 8), NextCommand s q 8 c tn ∧ s.pkg.boot = .running ∧ s.hasFeature 5 = false) ∧
    (∃ (s : State) (q : Nat) (c : Cmd) (tn : BitVec 8) (cap : Capsule), NextCommand s q 13 c tn ∧ Owned s (c.arg 8 4) tn cap ∧ c.arg 12 1 = 0 ∧
      c.arg 14 2 = 0 ∧ cap.image.length = 64 ∧
      ∀ i < 64, Translated (BitVec.ofNat 64 (c.arg 16 8) + BitVec.ofNat 64 i) ∧ ∃ x,
        s.resolveVa 4 tn (BitVec.ofNat 64 (c.arg 16 8) + BitVec.ofNat 64 i) true false true = .ok x ∧ plainLoc x = true ∧ x.rp = false) ∧
    (∃ (s : State) (q : Nat) (c : Cmd) (tn : BitVec 8) (cap : Capsule), NextCommand s q 13 c tn ∧ Owned s (c.arg 8 4) tn cap ∧ c.arg 12 1 = 0 ∧
      c.arg 14 2 = 0 ∧ cap.image.length = 64 ∧ s.resolveVa 4 tn (BitVec.ofNat 64 (c.arg 16 8)) true false true = .absent) :=
  let tn := Config.ctxTenant 5
  let w (c : Cmd) : State := asked (withCap (small []) cap1) c
  let rec_ (d : List Completion) : State := (w { cmd 7 [] with stage := 1 }).modPkg (fun p =>
    { p with boot := .recovery, qifs := p.qifs.map (fun e => (e.1, { e.2 with due := d })) })
  let y : Slot := { Slot.reset with st := .stopped, kern := some ⟨1, 0, 1⟩, ctx := 5 }
  let v : Saved := ⟨[(16, y)], [(1, Core.reset)], [], [], [], [], [(16, some 7)], []⟩
  let held : State := (withCap (small []) { cap1 with
    body := ⟨0x1000, 0x20000, [], [⟨0, 0⟩], [⟨7, 0, some 0, [(0, .g 3)]⟩]⟩ }).modPkg (fun p => { p with ctxs := [(5, { Ctx.reset with saved := some v })] })
  let put : Cmd := cmd 13 [(8, 1), (18, 1)]
  ⟨⟨(w (cmd 1 [])).modPkg (fun p => { p with updating := true }), .installCapsule 0, 0, 1, rfl, rfl, by decide, by decide⟩,
    ⟨askedAs tn (small []) (cmd 12 [(8, 5), (12, 3), (13, 16)]), 0, cmd 12 [(8, 5), (12, 3), (13, 16)], tn, next_of (by decide) rfl (by decide), by decide,
      by decide, by decide, rfl⟩,
    ⟨askedAs tn held (cmd 12 [(8, 5), (12, 2), (14, 1)]), 0, cmd 12 [(8, 5), (12, 2), (14, 1)], tn, v, y, ⟨7, 0, some 0, [(0, .g 3)]⟩,
      next_of (by decide) rfl (by decide), by decide, by decide, rfl, rfl, by decide, by decide, by decide⟩,
    ⟨rec_ [], 0, { cmd 7 [] with stage := 1 }, 1, ⟨by decide, .inl rfl, fun _ => Or.inl rfl⟩, by decide, by decide, by decide⟩,
    ⟨rec_ [⟨5, 0, 0⟩], 0, { cmd 7 [] with stage := 1 }, 1, ⟨by decide, .inl rfl, fun _ => Or.inl rfl⟩, by decide, by decide, by decide⟩,
    ⟨w { cmd 7 [] with stage := 1 }, 0, { cmd 7 [] with stage := 1 }, 1, next_of (by decide) rfl (by decide), by decide, by decide⟩,
    ⟨w (cmd 8 []), 0, cmd 8 [], 1, next_of (by decide) rfl (by decide), by decide, by decide⟩,
    ⟨asked (paged (withCap (small []) cap1)) put, 0, put, 1, cap1, next_of (by decide) rfl (by decide), ⟨by decide, by decide, by decide⟩, by decide, by decide,
      by decide, fun i h => ⟨translated_of (by
        have : (BitVec.ofNat 64 (put.arg 16 8) + BitVec.ofNat 64 i).toNat = 0x10000 + i := by
          rw [show BitVec.ofNat 64 (put.arg 16 8) = 0x10000 from by decide]; simp; omega
        omega), plain_of (by revert i; decide)⟩⟩,
    ⟨w put, 0, put, 1, cap1, next_of (by decide) rfl (by decide), ⟨by decide, by decide, by decide⟩, by decide, by decide, by decide, by decide⟩⟩

theorem witness_SessionsAndFeatures :
    (∃ (s : State) (q : Nat), s.pkg.boot = .running ∧ q < 4096 ∧ s.hasFeature 4 = true ∧ s.pkg.spdm.session = 2 ∧ (s.qif q).tstate = .unlocked) ∧
    (∃ (s : State) (q : Nat), s.pkg.boot = .running ∧ q < 4096 ∧ s.hasFeature 4 = true ∧ s.pkg.spdm.session ≠ 2) ∧
    (∃ (s : State) (q : Nat), s.pkg.boot = .running ∧ q < 4096 ∧ s.hasFeature 4 = false) ∧
    (∃ s : State, s.pkg.updating = true ∧ ∃ e ∈ s.pkg.qifs, e.2.ld = 0 ∧ ∃ c ∈ e.2.cmds, c.code = 7 ∧ 0 < c.stage) ∧
    (∃ (s : State) (r : TaskRec), (s.die 0).steal = .reply [r]) ∧
    (∃ (s : State) (n : Nat), n < 3072 ∧ bits (s.core n).owner 0 32 ≠ 0) :=
  let f (n : Nat) : State := (small []).modPkg (fun p => { p with capList := [4], spdm := { p.spdm with session := n } })
  ⟨⟨f 2, 0, by decide, by decide, by decide, by decide, by decide⟩, ⟨f 1, 0, by decide, by decide, by decide, by decide⟩,
    ⟨small [], 0, by decide, by decide, by decide⟩,
    ⟨(asked (small []) { cmd 7 [] with stage := 1 }).modPkg (fun p => { p with updating := true }), by decide, by decide⟩,
    ⟨(funded []).modDie 0 (fun d => { d with steal := .reply [task1] }), task1, by decide⟩,
    ⟨(small []).modCore 3071 (fun x => { x with owner := 5 }), 3071, by decide, by decide⟩⟩
/-! ## Clauses on counted arrivals, held tiles, errors in state, and recovery -/

theorem witness_CountedArrivals :
    (∃ (s : State) (c k : Nat) (d : Reg) (key : Nat) (gen : BitVec 32), (s.slot c k).st = .parked ∧ (s.slot c k).pend = .barm d key gen ∧
      s.badWord key = false ∧ (s.memLoad (s.cipherKey c) key 8).toNat / 2 ^ 32 % 2 ^ 32 ≠ gen.toNat) ∧
    (∃ (s : State) (c k : Nat) (d : Reg) (key : Nat) (gen : BitVec 32), (s.slot c k).st = .parked ∧ (s.slot c k).pend = .barm d key gen ∧
      s.badWord key = true) ∧
    (∃ (s : State) (d a : Reg) (l : Loc), s.me.park = 6 ∧ s.locate (s.me.reg a) 8 .atomic true true = .ok l ∧ s.me.badG.getLsbD d.toNat = false ∧
      s.me.badG.getLsbD a.toNat = false ∧ s.badWord l.key = false ∧
      (BitVec.ofNat 32 ((s.memLoad (s.cipherKey s.curCore) l.key 8).toNat / 2 ^ 32)).zeroExtend 64 ≠ s.me.reg d) ∧
    (∃ (s : State) (id : BitVec 6), (Instr.bar id 0).wf = true ∧ PassesG s false [] none ∧ s.me.park ≠ 6 ∧ s.me.guardRec = none ∧ s.curSlot < 16 ∧
      s.quiet s.curCore s.curSlot = true ∧ s.me.st ≠ .free ∧ s.busySlots s.curCore ≤ (s.core s.curCore).barArr + 1 ∧ s.other 0 1 ∧
      (s.slot 0 1).st = .parked ∧ (s.slot 0 1).pend = .barrier 0 s.curCore 0 (s.core s.curCore).barGen none) ∧
    (∃ (s : State) (c k : Nat) (p : Pend), k < 16 ∧ s.now % 16 = k ∧ (s.slot c k).stopReq = .now_ ∧ (s.slot c k).st = .ready ∧ (s.slot c k).pend = .none ∧
      (s.slot c k).park = 6 ∧ (s.slot c k).owed = p ∧ p ≠ .none) ∧
    (∃ (s : State) (c k : Nat) (rest : List Happening) (w : BitVec 32) (i : Instr) (u : State), s.todo = .turn c k :: rest ∧ s.now % 16 = k ∧
      let t : State := { s with todo := rest, curCore := c, curSlot := k }
      MayIssue t ∧ t.me.st = .ready ∧ Issues t w u ∧ decode w = .ok i ∧ u.me.stopReq ≠ .anchor ∧ u.me.park = 6 ∧ CountedWord i ∧ u.me.owed ≠ .none) ∧
    (∃ (s : State) (c k n p : Nat) (cas : Bool) (d : Reg) (va v e : Word) (l : Loc) (stamp : Nat), (s.slot c k).st = .parked ∧
      (s.slot c k).pend = .stamped cas d va l stamp v e (.held n) ∧ l.place = .pkg p ∧ p ∉ s.pkg.podMembers ∧ Tab.wf Slot.reset s.slots = true ∧
      s.slots.all (fun p => decide (p.1 = 16 * c + k) || (heldOn (l.key / 64) p.2).isNone) = true) ∧
    (∃ (s : State) (c k : Nat), k < 16 ∧ (s.slot c k).st = .parked ∧ (s.slot c k).pend = .latch) ∧
    (∃ (s : State) (c k : Nat) (r : RputFlight), s.pkg.rputs.find? (fun x => x.core = c && x.slot = k) = some r ∧ (s.core r.tcore).health ≠ .stopped ∧
      r.d ≠ 0 ∧ r.tslot < 16 ∧ (s.slot r.tcore r.tslot).st = .parked ∧ (s.slot r.tcore r.tslot).claims = r.claim ∧
      (s.slot r.tcore r.tslot).tenant = r.tenant ∧ (s.slot r.tcore r.tslot).pend = .latch) :=
  let at2 (p : Pend) : State := waiting (mapped (small [(2, 0x10000), (6, 1)]) page) p
  let l : Loc := ⟨0x20000, .home 4, .normal, false, false⟩
  let six : State := (mapped (small [(2, 0x10000), (6, 1)]) page).modMe (fun x => x.setPark 6)
  let owes : Pend := .barrier 3 0 3 0 none
  let due : State := (small []).modMe (fun x => { (x.setPark 6) with owed := owes, stopReq := .now_ })
  let two : State := ((small []).setSlot 0 1 { Slot.reset with st := .parked, tenant := 1, pend := .barrier 0 0 0 0 none }).modCore 0 (fun x => { x with barArr := 1 })
  let back : State := (fetching 0).modMe (fun x => { (x.setPark 6) with sw := (x.setPark 6).sw ||| 8, frameBuf := [(0, encode (.bar 3 3))], owed := owes })
  let away : Loc := ⟨2 ^ 51, .pkg 7, .stamped, false, false⟩
  let w := (small [(1, 9), (2, 0x1F)]).setSlot 1 15 { Slot.reset with st := .parked, pend := .latch, tenant := 1 }
  ⟨⟨at2 (.barm 6 0x20000 1), 0, 0, 6, 0x20000, 1, rfl, rfl, by decide, by decide⟩,
    ⟨(at2 (.barm 6 0x20000 0)).setBadWord 0x20000 true, 0, 0, 6, 0x20000, 0, by decide, by decide, by decide⟩,
    ⟨six, 6, 2, l, by decide, loc_of (by decide), by decide, by decide, by decide, by decide⟩,
    ⟨two, 0, rfl, passes_of (by decide), by decide, by decide, by decide, by decide, by decide, by decide, by unfold State.other; decide, by decide, by decide⟩,
    ⟨due, 0, 0, owes, by decide, by decide, by decide, by decide, by decide, by decide, by decide, by decide⟩,
    ⟨back, 0, 0, [], encode (.bar 3 3), .bar 3 3, _, rfl, rfl, ⟨by decide, by decide, by decide, by decide, by decide⟩, by decide,
      .inl ⟨⟨by decide, by decide⟩, rfl⟩, by decide, by decide, by decide, .inl ⟨3, 3, rfl⟩, by decide⟩,
    ⟨waiting (small []) (.stamped false 5 0x10000 away 164 7 0 (.held 3)), 0, 0, 3, 7, _, _, _, _, _, _, _, rfl, rfl, rfl, by decide, by decide, by decide⟩,
    ⟨ran .wait (small []), 0, 0, by decide, by decide, by decide⟩,
    ⟨ran (.rput 3 1 2) w, 0, 0, ⟨0, 0, 1, 15, 0, 1, 3, 9⟩, by decide, by decide, by decide, by decide, by decide, by decide, by decide, by decide⟩⟩

theorem witness_TilesHoldJobs :
    (∃ (s : State) (j : Job), s.openingJob 0 false = none ∧ s.nextJob 0 false = some j ∧ j.rmask = 0 ∧ j.tile ∈ (s.cluster 0).accLock.map (·.1)) ∧
    (∃ (s : State) (j : Job), s.openingJob 0 false = none ∧ s.nextJob 0 false = some j ∧ j.rmask = 0 ∧ j.tile ∉ (s.cluster 0).accLock.map (·.1)) ∧
    (∃ (s : State) (j : Job) (l : List (Nat × Job)), s.openingJob 0 false = none ∧ s.nextJob 0 false = some j ∧ j.rmask ≠ 0 ∧ j.stage ≠ .queued ∧
      s.ringGroup 0 j = some l ∧ l.all (fun p => ringFits p.2 j) = true ∧ ∃ p ∈ l, p.2.tile ∈ (s.cluster p.1).accLock.map (·.1)) ∧
    (∃ (s : State) (since : Nat) (j : Job), s.nextJob 0 false = some j ∧ j.stage = .waiting since ∧ since + 1250000 ≤ s.now ∧ s.ringGroup 0 j = none) ∧
    (∃ (s : State) (since : Nat) (j : Job), s.nextJob 0 false = some j ∧ j.stage = .waiting since ∧ since + 1250000 ≤ s.now ∧ s.ringGroup 0 j ≠ none) ∧
    (∃ (s : State) (j : Job), s.runningJob 0 true = some j ∧ j.pageWait = false ∧ j.fn = 5 ∧ bits j.kindWord 52 2 ≠ 0) ∧
    (∃ (s : State) (j : Job) (w : Work) (i : Nat), s.runningJob 0 true = some j ∧
      runParts j 0 true (j.parts 0 true - j.pos) j.pos (workOf s j (some (0, 4))) = .at_ w i) :=
  let lock (s : State) : State := s.modCluster 0 (fun x => { x with accLock := [(0, 0, 0)] })
  let ring (n : Nat) : Job := job 1 1 (.waiting n)
  let conv : Job := { job 1 0 .running with fn := 5, dws := [0, 0, 0, 0, 0, BitVec.ofNat 64 (2 ^ 52)] }
  ⟨⟨lock (holds false [job 1 0 .queued]), job 1 0 .queued, by decide, by decide, by decide, by decide⟩,
    ⟨holds false [job 1 0 .queued], job 1 0 .queued, by decide, by decide, by decide, by decide⟩,
    ⟨lock (holds false [ring 0]), ring 0, [(0, ring 0)], by decide, by decide, by decide, by decide, by decide, by decide, _, List.mem_singleton.mpr rfl, by decide⟩,
    ⟨{ holds false [job 1 3 (.waiting 5)] with now := 1250005 }, 5, job 1 3 (.waiting 5), by decide, rfl, by decide, by decide⟩,
    ⟨{ lock (holds false [ring 5]) with now := 1250005 }, 5, ring 5, by decide, rfl, by decide, by decide⟩,
    ⟨holds true [conv], conv, by decide, rfl, rfl, by decide⟩,
    ⟨holds true [{ job 1 0 .running with pos := 1 }], { job 1 0 .running with pos := 1 }, _, _, by decide, rfl⟩⟩

set_option maxRecDepth 50000 in
theorem witness_ErrorsInState :
    (∃ (s : State) (c : Nat) (sel : Word) (w : WinCfg) (e : Nat), BadEntry s c sel w e) ∧
    (∃ (s : State) (c k : Nat) (sel : Word) (l : List Word) (w : WinCfg) (e : Nat), (s.slot c k).st = .parked ∧ (s.slot c k).pend = .asked (.xcfg sel l) ∧
      windowOf (l.getD 0 0) ≠ none ∧ BadEntry s c sel w e) ∧
    (∃ (s : State) (q : Nat) (c : Cmd) (tn : BitVec 8), NextCommand s q 4 c tn ∧ c.stage ≠ 0 ∧ s.coresOf (c.arg 8 4) ≠ [] ∧
      s.quiescent (s.coresOf (c.arg 8 4)) = true ∧ (∀ n ∈ s.coresOf (c.arg 8 4), (s.core n).quiesced = true) ∧
      (∃ n ∈ s.coresOf (c.arg 8 4), bit (s.core n).owner 39 = true) ∧ ∃ h ∈ s.saveHeaders (c.arg 8 4) (s.coresOf (c.arg 8 4)), BadState s h) ∧
    (∃ (s : State) (a b : Reg) (i : Nat), Passes s .security false [] [] [a, b] none ∧ bit (s.src a) 7 = false ∧ bits (s.src a) 9 55 = 0 ∧
      bit (s.src a) 8 = true ∧ (s.keySlot (bits (s.src a) 0 7)).st = .empty ∧ i < 80 ∧
      s.badWord (2 ^ 56 + securityCore * 2 ^ 18 + bits (s.src b) 0 18 + i) = true ∧
      ∀ j < i, s.badWord (2 ^ 56 + securityCore * 2 ^ 18 + bits (s.src b) 0 18 + j) = false) ∧
    (∃ (s : State) (q : Nat) (c : Cmd) (tn : BitVec 8), NextCommand s q 12 c tn ∧ c.arg 12 1 = 3 ∧ c.arg 8 4 = 5 ∧ Config.ctxTenant 5 = tn ∧
      bits (s.core (c.arg 14 2)).owner 0 32 = 5 ∧ (s.slot (c.arg 14 2) (c.arg 13 1)).st = .stopped ∧ (s.slot (c.arg 14 2) (c.arg 13 1)).badG ≠ 0) ∧
    (∃ (s : State) (q : Nat) (c : Cmd) (tn : BitVec 8) (v : Saved) (y : Slot) (e : AnchorEnt), NextCommand s q 12 c tn ∧ c.arg 12 1 = 1 ∧ c.arg 8 4 = 5 ∧
      Config.ctxTenant 5 = tn ∧ (Tab.get Ctx.reset s.pkg.ctxs 5).saved = some v ∧ Tab.find? v.slots (16 * c.arg 14 2 + c.arg 13 1) = some y ∧
      s.debugAnchor y (Tab.get none v.anchors (16 * c.arg 14 2 + c.arg 13 1)) = some e ∧ ∃ p ∈ e.live, ∃ n, p.2 = .g n ∧ y.badG.getLsbD n.toNat = true) ∧
    (∃ (s : State) (h : Nat), InUse s h) :=
  let win : WinCfg := ⟨0x400, 2, 2, 4⟩
  let bad : State := (moe []).setBadWord (win.key 0 1 0x10) true
  let entry {s : State} (h : bit (0x8000000000000000 : Word) 63 = true ∧ bits (0x8000000000000000 : Word) 0 63 = 0 ∧ isCompute 0 = true ∧ (s.core 0).win = some win ∧
      (1 : Nat) < win.n ∧ s.badWord (win.key 0 1 0x10) = true ∧ ∀ i < 1, s.badWord (win.key 0 i 0x10) = false) : BadEntry s 0 0x8000000000000000 win 1 := h
  let tn := Config.ctxTenant 5
  let own : State := ((small []).modCore 7 (fun x => { x with owner := 0x8000000005, quiesced := true })).setBadWord (2 ^ 56 + 7 * 2 ^ 18 + 0x100) true
  let ask : Cmd := { cmd 4 [(8, 5), (12, 2)] with stage := 1 }
  let sec : State := at_ securityCore [(1, 0x17F), (2, 0x105)]
  let has : State := (ran .trap ((withCap (small []) { cap1 with tenant := tn }).modCore 0 (fun x => { x with owner := 5 }))).modMe (fun x => { x with badG := 4 })
  let y : Slot := { Slot.reset with st := .stopped, kern := some ⟨1, 0, 1⟩, ctx := 5, badG := 8 }
  let v : Saved := ⟨[(16, y)], [(1, Core.reset)], [], [], [], [], [(16, some 7)], []⟩
  let held : State := (withCap (small []) { cap1 with
    body := ⟨0x1000, 0x20000, [], [⟨0, 0⟩], [⟨7, 0, some 0, [(0, .g 3)]⟩]⟩ }).modPkg (fun p => { p with ctxs := [(5, { Ctx.reset with saved := some v })] })
  ⟨⟨bad, 0, 0x8000000000000000, win, 1, entry (by decide)⟩,
    ⟨waiting bad (.asked (.xcfg 0x8000000000000000 [0x0003100100000400])), 0, 0, _, _, win, 1, rfl, rfl, by decide, entry (by decide)⟩,
    ⟨askedAs tn own ask, 0, ask, tn, next_of (by decide) rfl (by decide), by decide, by decide, by decide, by decide, ⟨7, by decide, by decide⟩,
      ⟨0, 5, 0, 2, 7, 0, 0, 0, 2 ^ 18⟩, by decide, .inr (.inr ⟨rfl, 0x20, by decide, by decide⟩)⟩,
    ⟨sec.setBadWord (2 ^ 56 + securityCore * 2 ^ 18 + 0x108) true, 1, 2, 3, passes_of (by decide), by decide, by decide, by decide, by decide, by decide, by decide,
      by decide⟩,
    ⟨askedAs tn has (cmd 12 [(8, 5), (12, 3)]), 0, cmd 12 [(8, 5), (12, 3)], tn, next_of (by decide) rfl (by decide), by decide, by decide, rfl, by decide,
      by decide, by decide⟩,
    ⟨askedAs tn held (cmd 12 [(8, 5), (12, 1), (14, 1)]), 0, cmd 12 [(8, 5), (12, 1), (14, 1)], tn, v, y, ⟨7, 0, some 0, [(0, .g 3)]⟩,
      next_of (by decide) rfl (by decide), by decide, by decide, rfl, rfl, by decide, by decide, (0, .g 3), by decide, 3, rfl, by decide⟩,
    ⟨(small []).modKey 0 (fun k => { k with l := true, kept := [(0, y)] }), 1, .inr (.inr (.inl
      ⟨(0, { KeySlot.reset with l := true, kept := [(0, y)] }), by decide, rfl, (0, y), by decide, by decide, ⟨1, 0, 1⟩, rfl, rfl⟩))⟩⟩

theorem witness_SlotRegistersAreWritten :
    (∀ k : BitVec 9, k = 18 ∨ k = 19 ∨ k = 24 ∨ k = 27 ∨ k = 41 → ∃ (s : State) (a : Reg), PassesP s [a] none ∧ ReachesTarget s k.toNat ∧
      s.other s.me.tgtCore s.me.tgtSlot ∧ (s.slot s.me.tgtCore s.me.tgtSlot).st = .stopped ∧ bit (s.core s.me.tgtCore).owner 39 = false ∧
      s.slots.all (fun p => decide (p.1 / 16 ≠ s.me.tgtCore) || decide (p.2.st ≠ .ready ∧ p.2.st ≠ .parked)) = true ∧ s.pops [a] = false) ∧
    (∃ (s : State) (q word : Nat), s.listening q = true ∧ word ≤ 2 ∧ s.pkg.boot = .recovery) ∧
    (∃ (s : State) (q : Nat), s.pkg.boot = .running ∧ (s.qif q).stopping = true) ∧
    (∃ (s : State) (k : KeySlot) (c j : Nat), k.restoring = true ∧ (s.slot c j).st = .stopped ∧ (16 * c + j, (s.slot c j).claims) ∈ k.back) ∧
    (∃ f : Fmt, (∃ s, f.decode 0x7FC00000 = .nan s) ∧ (∃ s, f.decode 0xFF800000 = .inf s) ∧ ∃ m e n d, f.decode 0x80000000 = .fin true m e ∧
      f.decode 0 = .fin false n d ∧ withSign true m * 2 ^ (e - min e d).toNat = withSign false n * 2 ^ (d - min e d).toNat) :=
  let s := (service [(1, 1)] 0x30028).setSlot 40 3 { Slot.reset with st := .stopped, epc := 0x2001 }
  ⟨fun k h => ⟨s, 1, passes_of (by decide), by rcases h with rfl | rfl | rfl | rfl | rfl <;> (unfold ReachesTarget ReachesCore ReachesDie; decide),
      by unfold State.other; decide, by decide, by decide, by decide, by decide⟩,
    ⟨(small []).modPkg (fun p => { p with boot := .recovery }), 0, 2, by decide, by decide, rfl⟩,
    ⟨(small []).modPkg (fun p => { p with qifs := [(0, { QIf.reset with stopping := true })] }), 0, by decide, by decide⟩,
    ⟨s, { KeySlot.reset with restoring := true, back := [(643, 0)] }, 40, 3, rfl, by decide, by decide⟩,
    ⟨fmtF32, ⟨_, rfl⟩, ⟨_, rfl⟩, _, _, _, _, rfl, rfl, by decide⟩⟩
end Sys2Proof.Tests
end

/-!
The scalar integer instructions: what the values of Table 4.1, of the multiplications and of the immediate forms are (R64, R65, R68 to R71).
-/

namespace Sys2Proof.Scalar
open Sys2Proof Sys2Proof.Machine Sys2Proof.Claims

theorem add_eq_ofNat (x y : Word) : x + y = BitVec.ofNat 64 (x.toNat + y.toNat) := by
  rw [BitVec.ofNat_add]; simp
theorem add_eq_ofInt (x y : Word) : x + y = BitVec.ofInt 64 (x.toInt + y.toInt) := by
  rw [BitVec.ofInt_add]; simp
theorem sub_eq_ofInt (x y : Word) : x - y = BitVec.ofInt 64 (x.toInt - y.toInt) := by
  apply BitVec.eq_of_toInt_eq
  rw [BitVec.toInt_sub, BitVec.toInt_ofInt]
theorem mul_eq_ofInt (x y : Word) : x * y = BitVec.ofInt 64 (x.toInt * y.toInt) := by
  rw [BitVec.ofInt_mul]; simp
theorem sllVal_eq_ofNat (x : Word) (n : Nat) : sllVal x n = BitVec.ofNat 64 (x.toNat * 2 ^ n) := by
  apply BitVec.eq_of_toNat_eq
  simp [sllVal, Nat.shiftLeft_eq]
theorem srlVal_toNat (x : Word) (n : Nat) : (srlVal x n).toNat = x.toNat / 2 ^ n := by
  simp [srlVal, Nat.shiftRight_eq_div_pow]
theorem sraVal_toInt (x : Word) (n : Nat) : (sraVal x n).toInt = x.toInt / 2 ^ n := by
  simp [sraVal, BitVec.toInt_sshiftRight, Int.shiftRight_eq_div_pow]

theorem rolVal_rotLeft (x : Word) {n : Nat} (hn : n < 64) : RotLeft x n (rolVal x n) := by
  intro i hi
  unfold rolVal
  split
  · rename_i h; subst h; congr 1; omega
  · rw [BitVec.getLsbD_or, BitVec.getLsbD_shiftLeft, BitVec.getLsbD_ushiftRight]
    by_cases h : i + n < 64
    · rw [Nat.mod_eq_of_lt h, BitVec.getLsbD_of_ge x (64 - n + (i + n)) (by omega)]
      simp [h]
    · have e : (i + n) % 64 = i + n - 64 := by omega
      have e2 : 64 - n + (i + n - 64) = i := by omega
      rw [e, e2]; simp; omega

theorem rotLeft_mod {x v : Word} {n : Nat} (h : RotLeft x (n % 64) v) : RotLeft x n v := by
  intro i hi; rw [← h i hi, Nat.add_mod_mod]
theorem rorVal_rotLeft (x : Word) (n : Nat) : RotLeft x (64 - n) (rorVal x n) :=
  rotLeft_mod (rolVal_rotLeft x (Nat.mod_lt _ (by decide)))

theorem boolWord_truth (p : Prop) [Decidable p] : Truth p (boolWord (decide p)) := by
  unfold Truth boolWord; by_cases h : p <;> simp [h]

theorem clzVal_leadingZeros (x : Word) : LeadingZeros x (clzVal x) := by
  unfold LeadingZeros clzVal
  refine ⟨fun h => if_pos h, fun h => ?_⟩
  rw [if_neg h]
  have h0 : x.toNat ≠ 0 := fun e => h (BitVec.eq_of_toNat_eq e)
  have hlog : Nat.log2 x.toNat < 64 := (Nat.log2_lt h0).2 x.isLt
  have hv : (wrap (63 - Nat.log2 x.toNat)).toNat = 63 - Nat.log2 x.toNat := by
    unfold wrap; rw [BitVec.toNat_ofNat]; omega
  rw [hv, show 63 - (63 - Nat.log2 x.toNat) = Nat.log2 x.toNat by omega]
  refine ⟨by omega, Nat.testBit_log2 h0, fun i hi => ?_⟩
  exact Nat.testBit_lt_two_pow ((Nat.log2_lt h0).1 hi)

theorem trailing_spec : ∀ (n x : Nat), (∀ i < trailing n x, x.testBit i = false) ∧
    (trailing n x = n ∨ (trailing n x < n ∧ x.testBit (trailing n x) = true))
  | 0, x => by simp [trailing]
  | n + 1, x => by
    obtain ⟨h1, h2⟩ := trailing_spec n (x / 2)
    unfold trailing
    split
    · rename_i h; simp [h]
    · rename_i h
      have e : ∀ i, x.testBit (1 + i) = (x / 2).testBit i := fun i => by rw [Nat.add_comm, Nat.testBit_succ]
      refine ⟨fun i hi => ?_, ?_⟩
      · cases i with
        | zero => simpa using h
        | succ i => rw [Nat.add_comm, e]; exact h1 i (by omega)
      · rw [e]
        obtain h2 | ⟨h2, h3⟩ := h2
        · exact .inl (by omega)
        · exact .inr ⟨by omega, h3⟩

theorem ctz_trailingZeros (x : Word) : TrailingZeros x (wrap (trailing 64 x.toNat)) := by
  obtain ⟨h1, h2⟩ := trailing_spec 64 x.toNat
  have hle : trailing 64 x.toNat ≤ 64 := by omega
  have hv : (wrap (trailing 64 x.toNat)).toNat = trailing 64 x.toNat := by
    unfold wrap; rw [BitVec.toNat_ofNat]; omega
  refine ⟨fun h => by subst h; rfl, fun h => ?_⟩
  rw [hv]
  obtain h2 | ⟨h2, h3⟩ := h2
  · refine absurd (BitVec.eq_of_getLsbD_eq fun i hi => ?_) h
    rw [show x.getLsbD i = x.toNat.testBit i from rfl, h1 i (by omega)]; simp
  · exact ⟨h2, h3, h1⟩

theorem popcount_spec : ∀ (n x : Nat), popcount n x = ((List.range n).filter (fun i => x.testBit i)).length
  | 0, _ => rfl
  | n + 1, x => by
    rw [popcount, popcount_spec n (x / 2), List.range_succ_eq_map, List.filter_cons, List.filter_map, Nat.testBit_zero]
    have e : ((fun i => x.testBit i) ∘ Nat.succ) = fun i => (x / 2).testBit i := by
      funext i; exact Nat.testBit_succ x i
    rw [e]
    rcases Nat.mod_two_eq_zero_or_one x with h | h <;> simp [h, Nat.add_comm]

theorem popc_toNat (x : Word) : (wrap (popcount 64 x.toNat)).toNat = ((List.range 64).filter (fun i => x.getLsbD i)).length := by
  have h := popcount_spec 64 x.toNat
  have hle := List.length_filter_le (fun i => x.toNat.testBit i) (List.range 64)
  rw [List.length_range] at hle
  unfold wrap; rw [BitVec.toNat_ofNat, h, Nat.mod_eq_of_lt (by omega)]; rfl

theorem sextBits_eq (x : Word) {n : Nat} (hn : n ≤ 64) : sextBits n x = (x.truncate n).signExtend 64 := by
  apply BitVec.eq_of_toNat_eq
  have hp : 2 ^ n ≤ 2 ^ 64 := Nat.pow_le_pow_right (by decide) hn
  have hlt : x.toNat % 2 ^ n < 2 ^ n := Nat.mod_lt _ (Nat.two_pow_pos n)
  rw [BitVec.toNat_signExtend, BitVec.msb_eq_decide]
  simp only [sextBits, wrap, BitVec.truncate_eq_setWidth, BitVec.toNat_setWidth, decide_eq_true_eq]
  by_cases h : x.toNat % 2 ^ n < 2 ^ (n - 1)
  · rw [if_pos h, BitVec.toNat_ofNat, if_neg (by omega), Nat.add_zero]
  · rw [if_neg h, BitVec.toNat_ofNat, if_pos (by omega)]; omega

theorem zextBytes_toNat (x : Word) (n : Nat) : (zextBytes n x).toNat = x.toNat % 2 ^ (8 * n) := by
  unfold zextBytes wrap
  rw [BitVec.toNat_ofNat]
  exact Nat.mod_eq_of_lt (Nat.lt_of_le_of_lt (Nat.mod_le _ _) x.isLt)

theorem mulhzVal_toNat (x y : Word) : (mulhzVal x y).toNat = x.toNat * y.toNat / 2 ^ 64 := by
  unfold mulhzVal wrap
  rw [BitVec.toNat_ofNat]
  apply Nat.mod_eq_of_lt
  have := Nat.mul_lt_mul'' x.isLt y.isLt
  omega


theorem imm18_toInt (imm : BitVec 18) : (imm18 imm).toInt = imm.toInt := BitVec.toInt_signExtend_of_le (by decide)

theorem imm18_getLsbD (imm : BitVec 18) {i : Nat} (hi : i < 64) : (imm18 imm).getLsbD i = imm.getLsbD (Nat.min i 17) := by
  unfold imm18
  rw [BitVec.getLsbD_signExtend]
  by_cases h : i < 18
  · have e : Nat.min i 17 = i := Nat.min_eq_left (by omega)
    simp [hi, h, e]
  · have e : Nat.min i 17 = 17 := Nat.min_eq_right (by omega)
    simp [hi, h, e, BitVec.msb_eq_getLsbD_last]

theorem bfxVal_toNat (x : Word) (pos : Nat) {len : Nat} (hl : len ≤ 64) : (bfxVal x pos len).toNat = x.toNat / 2 ^ pos % 2 ^ len := by
  unfold bfxVal wrap
  rw [BitVec.toNat_ofNat]
  exact Nat.mod_eq_of_lt (Nat.lt_of_lt_of_le (bits_lt x pos len) (Nat.pow_le_pow_right (by decide) hl))

/-- A word as the field at `lo` and what lies below and above it. -/
theorem toNat_eq_fields (x : Word) {lo w : Nat} (h : lo + w ≤ 64) :
    x.toNat = bits x 0 lo + bits x lo w * 2 ^ lo + bits x (lo + w) (64 - (lo + w)) * 2 ^ (lo + w) := by
  have htop : bits x (lo + w) (64 - (lo + w)) = x.toNat / 2 ^ (lo + w) := by
    refine Nat.mod_eq_of_lt (Nat.div_lt_of_lt_mul ?_)
    rw [← Nat.pow_add, Nat.add_sub_cancel' h]; exact x.isLt
  have h1 := Nat.mod_add_div x.toNat (2 ^ lo)
  have h2 := Nat.mod_add_div (x.toNat / 2 ^ lo) (2 ^ w)
  rw [htop]
  unfold bits
  rw [Nat.pow_zero, Nat.div_one, Nat.pow_add, ← Nat.div_div_eq_div_mul]
  generalize x.toNat / 2 ^ lo / 2 ^ w = c at *
  generalize x.toNat / 2 ^ lo % 2 ^ w = b at *
  rw [← h2] at h1
  conv_lhs => rw [← h1]
  ring

theorem bfiVal_toNat (d a : Word) {pos len : Nat} (h : pos + len ≤ 64) :
    (bfiVal d a pos len).toNat + d.toNat / 2 ^ pos % 2 ^ len * 2 ^ pos = d.toNat + a.toNat % 2 ^ len * 2 ^ pos := by
  have hv := toNat_eq_fields (bfiVal d a pos len) h
  have hd := toNat_eq_fields d h
  unfold bfiVal at hv ⊢
  rw [bits_setBits _ _ _ _ h, bits_setBits_ne _ _ _ _ _ _ (.inl (by omega)), bits_setBits_ne _ _ _ _ _ _ (.inr (by omega))] at hv
  have hb : d.toNat / 2 ^ pos % 2 ^ len = bits d pos len := rfl
  rw [hb]; omega

theorem luiVal_eq_ofInt (imm : BitVec 22) : imm.signExtend 64 <<< 18 = BitVec.ofInt 64 (imm.toInt * 2 ^ 18) := by
  rw [BitVec.ofInt_mul, ← BitVec.toInt_signExtend_of_le (x := imm) (v := 64) (by decide), BitVec.ofInt_toInt]
  exact BitVec.shiftLeft_eq_mul_twoPow ..

/-- A word offset added to a program counter (R33). -/
theorem add_words_eq_ofInt {w : Nat} (hw : w ≤ 64) (pc : Word) (off : BitVec w) :
    pc + off.signExtend 64 * 4 = BitVec.ofInt 64 (pc.toNat + 4 * off.toInt) := by
  rw [BitVec.ofInt_add, BitVec.ofInt_mul, ← BitVec.toInt_signExtend_of_le (x := off) hw, BitVec.ofInt_toInt, BitVec.mul_comm]
  congr 1; simp

end Sys2Proof.Scalar

namespace Sys2Proof.Scalar
open Sys2Proof Sys2Proof.Machine Sys2Proof.Claims

/-- An instruction that only writes a register meets its row, once the value it computes is the row's. -/
theorem compute_gives {s : State} {i : Instr} {r : Row} (f : (Reg → Word) → Word) (he : exec i s = s.compute i r.fr r.srcs r.dst r.lat f)
    (hg : r.gives s (f s.src)) (h : PassesG s r.fr r.srcs (some r.dst)) :
    ∃ u v, exec i s = .next u ∧ r.gives s v ∧ Wrote s u r.srcs r.dst v 0 r.lat :=
  ⟨_, _, he.trans (State.compute_passes f h), hg, State.retire_wrote ..⟩

variable {s : State} {i : Instr} {r : Row} {d a b : Reg} {lat : Nat} {g : State → Word → Prop}

theorem alu2_gives (f : Word → Word → Word) (hr : row2 d a b lat g = some r) (he : exec i s = alu2 i d a b lat f s)
    (hg : g s (f (s.src a) (s.src b))) (h : PassesG s r.fr r.srcs (some r.dst)) :
    ∃ u v, exec i s = .next u ∧ r.gives s v ∧ Wrote s u r.srcs r.dst v 0 r.lat := by
  cases hr
  exact compute_gives _ he hg h

theorem alu1_gives (f : Word → Word) (hr : row1 d a g = some r) (he : exec i s = alu1 i d a f s) (hg : g s (f (s.src a)))
    (h : PassesG s r.fr r.srcs (some r.dst)) :
    ∃ u v, exec i s = .next u ∧ r.gives s v ∧ Wrote s u r.srcs r.dst v 0 r.lat := by
  cases hr
  exact compute_gives _ he hg h

theorem minVal_spec (x y : Word) : let v := if sltVal y x then y else x
    (v = x ∨ v = y) ∧ v.toInt ≤ x.toInt ∧ v.toInt ≤ y.toInt := by
  simp only [sltVal, decide_eq_true_eq]; split <;> simp <;> omega
theorem maxVal_spec (x y : Word) : let v := if sltVal x y then y else x
    (v = x ∨ v = y) ∧ x.toInt ≤ v.toInt ∧ y.toInt ≤ v.toInt := by
  simp only [sltVal, decide_eq_true_eq]; split <;> simp <;> omega
theorem minzVal_spec (x y : Word) : let v := if ultVal y x then y else x
    (v = x ∨ v = y) ∧ v.toNat ≤ x.toNat ∧ v.toNat ≤ y.toNat := by
  simp only [ultVal, decide_eq_true_eq]; split <;> simp <;> omega
theorem maxzVal_spec (x y : Word) : let v := if ultVal x y then y else x
    (v = x ∨ v = y) ∧ x.toNat ≤ v.toNat ∧ y.toNat ≤ v.toNat := by
  simp only [ultVal, decide_eq_true_eq]; split <;> simp <;> omega

theorem integerRow_holds : RowsHold integerRow := by
  intro s i r hr _hwf h
  have hsh (x : Reg) : amount (s.src x) < 64 := Nat.mod_lt _ (by decide)
  unfold integerRow at hr
  split at hr
  · exact alu2_gives (fun x y => x + y) hr rfl (add_eq_ofNat _ _) h
  · exact alu2_gives (fun x y => x - y) hr rfl (sub_eq_ofInt _ _) h
  · exact alu2_gives (fun x y => x &&& y) hr rfl (fun _ => BitVec.getLsbD_and) h
  · exact alu2_gives (fun x y => x ||| y) hr rfl (fun _ => BitVec.getLsbD_or) h
  · exact alu2_gives (fun x y => x ^^^ y) hr rfl (fun _ => BitVec.getLsbD_xor) h
  · exact alu2_gives (fun x y => sllVal x (amount y)) hr rfl (sllVal_eq_ofNat _ _) h
  · exact alu2_gives (fun x y => srlVal x (amount y)) hr rfl (srlVal_toNat _ _) h
  · exact alu2_gives (fun x y => sraVal x (amount y)) hr rfl (sraVal_toInt _ _) h
  · exact alu2_gives (fun x y => rolVal x (amount y)) hr rfl (rolVal_rotLeft _ (hsh _)) h
  · exact alu2_gives (fun x y => rorVal x (amount y)) hr rfl (rorVal_rotLeft _ _) h
  · exact alu2_gives (fun x y => if sltVal y x then y else x) hr rfl (minVal_spec _ _) h
  · exact alu2_gives (fun x y => if sltVal x y then y else x) hr rfl (maxVal_spec _ _) h
  · exact alu2_gives (fun x y => if ultVal y x then y else x) hr rfl (minzVal_spec _ _) h
  · exact alu2_gives (fun x y => if ultVal x y then y else x) hr rfl (maxzVal_spec _ _) h
  · exact alu2_gives (fun x y => boolWord (decide (x = y))) hr rfl (boolWord_truth _) h
  · exact alu2_gives (fun x y => boolWord (sltVal x y)) hr rfl (boolWord_truth _) h
  · exact alu2_gives (fun x y => boolWord (ultVal x y)) hr rfl (boolWord_truth _) h
  · rename_i a b c; cases hr; exact compute_gives (fun r => if r c ≠ 0 then r a else r b) rfl rfl h
  · exact alu1_gives clzVal hr rfl (clzVal_leadingZeros _) h
  · exact alu1_gives (fun x => wrap (trailing 64 x.toNat)) hr rfl (ctz_trailingZeros _) h
  · exact alu1_gives (fun x => wrap (popcount 64 x.toNat)) hr rfl (popc_toNat _) h
  · exact alu1_gives (sextBits 8) hr rfl (sextBits_eq _ (by decide)) h
  · exact alu1_gives (sextBits 16) hr rfl (sextBits_eq _ (by decide)) h
  · exact alu1_gives (sextBits 32) hr rfl (sextBits_eq _ (by decide)) h
  · exact alu1_gives (zextBytes 1) hr rfl (zextBytes_toNat _ 1) h
  · exact alu1_gives (zextBytes 2) hr rfl (zextBytes_toNat _ 2) h
  · exact alu1_gives (zextBytes 4) hr rfl (zextBytes_toNat _ 4) h
  · cases hr

theorem multiplyRow_holds : RowsHold multiplyRow := by
  intro s i r hr _hwf h
  unfold multiplyRow at hr
  split at hr
  · exact alu2_gives (fun x y => x * y) hr rfl (mul_eq_ofInt _ _) h
  · exact alu2_gives mulhVal hr rfl rfl h
  · exact alu2_gives mulhzVal hr rfl (mulhzVal_toNat _ _) h
  · cases hr

theorem immediateRow_holds : RowsHold immediateRow := by
  intro s i r hr hwf h
  unfold immediateRow at hr
  split at hr
  case h_1 imm => exact alu1_gives (fun x => x + imm18 imm) hr rfl (by rw [add_eq_ofInt, imm18_toInt]; rfl) h
  case h_2 imm => exact alu1_gives (fun x => x &&& imm18 imm) hr rfl (fun i hi => by rw [BitVec.getLsbD_and, imm18_getLsbD _ hi]) h
  case h_3 imm => exact alu1_gives (fun x => x ||| imm18 imm) hr rfl (fun i hi => by rw [BitVec.getLsbD_or, imm18_getLsbD _ hi]) h
  case h_4 imm => exact alu1_gives (fun x => x ^^^ imm18 imm) hr rfl (fun i hi => by rw [BitVec.getLsbD_xor, imm18_getLsbD _ hi]) h
  case h_5 imm => exact alu1_gives (fun x => boolWord (sltVal x (imm18 imm))) hr rfl (imm18_toInt imm ▸ boolWord_truth _) h
  case h_6 n => exact alu1_gives (fun x => sllVal x n.toNat) hr rfl (sllVal_eq_ofNat _ _) h
  case h_7 n => exact alu1_gives (fun x => srlVal x n.toNat) hr rfl (srlVal_toNat _ _) h
  case h_8 n => exact alu1_gives (fun x => sraVal x n.toNat) hr rfl (sraVal_toInt _ _) h
  case h_9 n => exact alu1_gives (fun x => rorVal x n.toNat) hr rfl (rorVal_rotLeft _ _) h
  case h_10 pos len => exact alu1_gives (fun x => bfxVal x pos.toNat (len.toNat + 1)) hr rfl (bfxVal_toNat _ _ len.isLt) h
  case h_11 d a pos len =>
    cases hr
    exact compute_gives (fun r => bfiVal (r d) (r a) pos.toNat (len.toNat + 1)) rfl (bfiVal_toNat _ _ (of_decide_eq_true hwf)) h
  case h_12 imm => cases hr; exact compute_gives (fun _ => imm.signExtend 64 <<< 18) rfl (luiVal_eq_ofInt imm) h
  case h_13 imm => cases hr; exact compute_gives (fun _ => s.me.pc + imm.signExtend 64 * 4) rfl (add_words_eq_ofInt (by decide) _ imm) h
  case h_14 => cases hr

/-- Settles O1: each row by the lemma on the value that its instruction computes. -/
theorem integerInstructionsGiveTheirResults : Obligations.IntegerInstructionsGiveTheirResults :=
  ⟨integerRow_holds, multiplyRow_holds, immediateRow_holds⟩

end Sys2Proof.Scalar

namespace Sys2Proof.Scalar
open Sys2Proof Sys2Proof.Machine Sys2Proof.Claims

/-! ## Division (R66) -/

theorem divisionComplete_answers {s : State} {c k : Nat} {d : Reg} {v : Word} (hst : (s.slot c k).st = .parked)
    (hp : (s.slot c k).pend = .div d v) : exec (.divisionComplete c k) s = .next (s.answer c k d v) := by
  change execDivisionComplete c k s = _
  unfold execDivisionComplete
  rw [hst, hp]

/-- A division parks with its result, which completion then fills. -/
theorem divide_fills {s : State} {i : Instr} {d a b : Reg} (f : Word → Word → Word) {g : Word → Prop}
    (he : exec i s = divide i d a b f s) (hg : g (f (s.src a) (s.src b))) (h : PassesG s true [a, b] (some d)) :
    ∃ t u v, exec i s = .next t ∧ g v ∧ Parked s t 2 (.div d v) ∧ t.me.popDue = s.pops [a, b] ∧
      exec (.divisionComplete s.curCore s.curSlot) t = .next u ∧ Answered t u s.curCore s.curSlot d v := by
  have hp := s.parkOn_parked (s.pops [a, b]) 2 (.div d (f (s.src a) (s.src b)))
  refine ⟨_, _, _, he.trans (State.issue_passes _ h), hg, hp, ?_, divisionComplete_answers hp.st hp.pend, State.answer_answered ..⟩
  rw [State.parkOn, State.me_modMe]

theorem divVal_spec (x y : Word) : (y = 0 → (divVal x y).toInt = -1) ∧ (y ≠ 0 → divVal x y = BitVec.ofInt 64 (x.toInt.tdiv y.toInt)) := by
  unfold divVal
  exact ⟨fun h => by rw [if_pos h]; rfl, fun h => if_neg h⟩

theorem divzVal_spec (x y : Word) : (y = 0 → (divzVal x y).toNat = 2 ^ 64 - 1) ∧ (y ≠ 0 → (divzVal x y).toNat = x.toNat / y.toNat) := by
  unfold divzVal
  refine ⟨fun h => by rw [if_pos h]; rfl, fun h => ?_⟩
  rw [if_neg h, wrap, BitVec.toNat_ofNat]
  exact Nat.mod_eq_of_lt (Nat.lt_of_le_of_lt (Nat.div_le_self _ _) x.isLt)

theorem remVal_spec (x y : Word) :
    (y = 0 → remVal x y = x) ∧ (y ≠ 0 → (remVal x y).toInt = x.toInt - x.toInt.tdiv y.toInt * y.toInt) := by
  unfold remVal
  refine ⟨fun h => if_pos h, fun h => ?_⟩
  have hsrem : BitVec.ofInt 64 (x.toInt.tmod y.toInt) = x.srem y := by rw [← BitVec.toInt_srem, BitVec.ofInt_toInt]
  rw [if_neg h, hsrem, BitVec.toInt_srem, Int.tmod_def, Int.mul_comm]

theorem remzVal_spec (x y : Word) :
    (y = 0 → remzVal x y = x) ∧ (y ≠ 0 → (remzVal x y).toNat + x.toNat / y.toNat * y.toNat = x.toNat) := by
  unfold remzVal
  refine ⟨fun h => if_pos h, fun h => ?_⟩
  rw [if_neg h, wrap, BitVec.toNat_ofNat, Nat.mod_eq_of_lt (Nat.lt_of_le_of_lt (Nat.mod_le _ _) x.isLt), Nat.mul_comm]
  exact Nat.mod_add_div ..

/-- Settles O2: the result captured at issue is what DIVISION_COMPLETE fills. -/
theorem divisionsFillTheirResult : Obligations.DivisionsFillTheirResult := by
  refine ⟨fun s i d a b f hi h => ?_, fun s c k d v hst hp => ⟨_, divisionComplete_answers hst hp, State.answer_answered ..⟩⟩
  unfold divisionOf at hi
  split at hi <;> cases hi
  · exact divide_fills divVal rfl (divVal_spec _ _) h
  · exact divide_fills remVal rfl (remVal_spec _ _) h
  · exact divide_fills divzVal rfl (divzVal_spec _ _) h
  · exact divide_fills remzVal rfl (remzVal_spec _ _) h

end Sys2Proof.Scalar

namespace Sys2Proof.Scalar
open Sys2Proof Sys2Proof.Machine Sys2Proof.Claims

/-! ## Control transfer (R79 to R83) -/

theorem pcOf_eq_pc57 (x : Word) : pcOf x = pc57 x := (sextBits_eq x (by decide)).symm

variable {s : State}

theorem branchTarget_wordsAway (off : BitVec 19) : pc57 (branchTarget s.me.pc off) = wordsAway s off.toInt := by
  rw [wordsAway, pcOf_eq_pc57, branchTarget, add_words_eq_ofInt (by decide)]

theorem forward_wordsAway (n : Nat) : pc57 (s.me.pc + wrap (4 * n)) = wordsAway s n := by
  rw [wordsAway, pcOf_eq_pc57, BitVec.ofInt_add]
  congr 2
  simp

theorem take_nil : s.take [] = s := State.take_none (by simp [State.pops])

/-- An instruction that no frame may hold issues outside one. -/
theorem frame_off {srcs : List Reg} {dst : Option Reg} (h : PassesG s false srcs dst) : s.me.frame = false :=
  Bool.eq_false_iff.2 fun hf => Bool.false_ne_true (h.frame hf)

/-- Outside a frame the next word is one word away (R78). -/
theorem take_advance_wentOn {srcs srcs' : List Reg} {dst : Option Reg} (h : PassesG s false srcs dst) :
    WentOn s (s.take srcs').advance srcs' (wordsAway s 1) s.me.sw := by
  have hadv := s.take_advance srcs'
  rw [Slot.advance_plain _ (frame_off h)] at hadv
  have hpc := forward_wordsAway (s := s) 1
  exact hpc ▸ hadv

theorem take_jumpTo_wentOn (srcs : List Reg) (t : Word) : WentOn s ((s.take srcs).jumpTo t) srcs (pc57 t) s.me.sw :=
  s.take_wentOn srcs (fun x => { x with pc := pc57 t }) (fun _ => rfl)

/-- What a result leaves does not turn on where the slot goes on. -/
theorem wroteTo_goTo {u : State} {srcs : List Reg} {d : Reg} {v : Word} {fl : BitVec 5} {lat : Nat} {pc sw pc' sw' : Word} {f g : Slot → Slot}
    (h : WroteTo s (u.modMe f) srcs d v fl lat pc sw) (hc : u.curCore = s.curCore) (hk : u.curSlot = s.curSlot)
    (hg : g u.me = { f u.me with pc := pc', sw := sw' }) : WroteTo s (u.modMe g) srcs d v fl lat pc' sw' := by
  obtain ⟨hreg, hfull, hflags, hdue, -, hrest, hqueue, hslots, hlatch, hparts, halone⟩ := h
  have hsl : ∀ c k, s.other c k → (u.modMe g).slot c k = (u.modMe f).slot c k := fun c k o => by
    have o' : u.other c k := by unfold State.other; rw [hc, hk]; exact o
    rw [State.slot_modMe_other _ o', State.slot_modMe_other _ o']
  have honly : OnlyMe s (u.modMe f) → OnlyMe s (u.modMe g) := fun a =>
    ⟨by have e : u.modMe g = { u.modMe f with slots := (u.modMe g).slots } := rfl
        rw [e, a.1], fun c k o => (hsl c k o).trans (a.2 c k o)⟩
  rw [State.me_modMe] at hreg hfull hflags hdue hrest
  refine ⟨?_, ?_, ?_, ?_, ?_, ?_, hqueue, fun c k o n => (hsl c k o).trans (hslots c k o n), hlatch, hparts.trans ⟨rfl, fun _ => rfl⟩,
    fun a b => honly (halone a b)⟩ <;> rw [State.me_modMe, hg]
  · exact hreg
  · exact hfull
  · exact hflags
  · exact hdue
  · exact ⟨rfl, rfl⟩
  · unfold SameButRegs at *; rw [hrest]

/-- A call: the link is written, and the slot goes on at the target (R80, R81). -/
theorem put_jumpTo_wroteTo (srcs : List Reg) (d : Reg) (v t : Word) (lat : Nat) :
    WroteTo s (((s.take srcs).put d v (s.now + lat)).jumpTo t) srcs d v 0 lat (pc57 t) s.me.sw := by
  have hparts := (s.take_shape srcs).trans (State.put_shape _ d v (s.now + lat))
  refine wroteTo_goTo (f := Slot.advance) (s.retire_wrote srcs d v lat) (by rw [hparts.1]) (by rw [hparts.1]) ?_
  have hsw : ((s.take srcs).put d v (s.now + lat)).me.sw = s.me.sw := by
    rw [State.put_me, State.take_me]; split <;> simp
  rw [Slot.advance_pcsw, ← hsw]

theorem put_jumpTo_wroteTo' (d : Reg) (v t : Word) (lat : Nat) :
    WroteTo s ((s.put d v (s.now + lat)).jumpTo t) [] d v 0 lat (pc57 t) s.me.sw := by
  simpa only [take_nil] using put_jumpTo_wroteTo (s := s) [] d v t lat

theorem condHolds_iff {cond : BitVec 3} (v : Word) (h7 : cond ≠ 7) : condHolds cond v = true ↔ Holds cond v.toInt := by
  have h0 : v = 0 ↔ v.toInt = 0 := ⟨fun h => by subst h; rfl, fun h => BitVec.eq_of_toInt_eq (h.trans (by rfl))⟩
  have hlt := cond.isLt
  obtain ⟨n, rfl⟩ : ∃ n, cond = BitVec.ofFin n := ⟨cond.toFin, rfl⟩
  unfold condHolds Holds
  fin_cases n <;> simp_all

/-- A branch or a skip goes to its target if its test holds, and else to the next word. -/
theorem test_wentOn {srcs : List Reg} {cond : BitVec 3} {v t : Word} {n : Int} (h : PassesG s false srcs none) (h7 : cond ≠ 7)
    (ht : pc57 t = wordsAway s n) :
    let u := if condHolds cond v = true then (s.take srcs).jumpTo t else (s.take srcs).advance
    (Holds cond v.toInt → WentOn s u srcs (wordsAway s n) s.me.sw) ∧
      (¬Holds cond v.toInt → WentOn s u srcs (wordsAway s 1) s.me.sw) := by
  rw [← condHolds_iff v h7, ← ht]
  exact ⟨fun c => by rw [if_pos c]; exact take_jumpTo_wentOn .., fun c => by rw [if_neg c]; exact take_advance_wentOn h⟩

section
variable {d a : Reg} {cond n : BitVec 3} {off : BitVec 19}

theorem exec_br (h : PassesG s false [a] none) : exec (.br a cond off) s = .next
    (if condHolds cond (s.src a) = true then (s.take [a]).jumpTo (branchTarget s.me.pc off) else (s.take [a]).advance) := by
  change execBr a cond off s = _
  exact State.issue_passes _ h

theorem exec_jmp (h : PassesG s false [] none) : exec (.jmp off) s = .next (s.jumpTo (branchTarget s.me.pc off)) := by
  change execJmp off s = _
  exact State.issue_passes _ h

theorem exec_call (h : PassesG s false [] (some a)) :
    exec (.call a off) s = .next ((s.put a (s.me.pc + 4) (s.now + 1)).jumpTo (branchTarget s.me.pc off)) := by
  change execCall a off s = _
  exact State.issue_passes _ h

theorem exec_callr (h : PassesG s false [a] (some d)) : exec (.callr d a) s = .next
    (s.jumpCheck (s.src a) (((s.take [a]).put d (s.me.pc + 4) (s.now + 1)).jumpTo (s.src a))) := by
  change execCallr d a s = _
  exact State.issue_passes _ h

theorem exec_ret (h : PassesG s false [a] none) :
    exec (.ret a) s = .next (s.jumpCheck (s.src a) ((s.take [a]).jumpTo (s.src a))) := by
  change execRet a s = _
  exact State.issue_passes _ h

theorem exec_skip {srcs : List Reg} (hs : (if cond = 6 then [] else [a]) = srcs) (h : PassesG s false srcs none) : exec (.skip a cond n) s = .next
    (if condHolds cond (s.src a) = true then (s.take srcs).jumpTo (s.me.pc + wrap (4 * (n.toNat + 1))) else (s.take srcs).advance) := by
  change execSkip a cond n s = _
  unfold execSkip
  rw [hs]
  exact State.issue_passes _ h

end

theorem jumpTo_wentOn (t : Word) : WentOn s (s.jumpTo t) [] (pc57 t) s.me.sw := by
  simpa only [take_nil] using take_jumpTo_wentOn (s := s) [] t

/-- Settles O4: a transfer is the pop of its operands and one change of the program counter. -/
theorem transfersSelectTheNextWord : Obligations.TransfersSelectTheNextWord := by
  intro s a cond n off
  have hskip : pc57 (s.me.pc + wrap (4 * (n.toNat + 1))) = wordsAway s (n.toNat + 1) := by
    exact_mod_cast forward_wordsAway (s := s) (n.toNat + 1)
  refine ⟨fun h _ h7 => ⟨_, exec_br h, test_wentOn h h7 (branchTarget_wordsAway off)⟩, fun h => ⟨_, exec_jmp h, ?_⟩,
    fun h => ⟨_, exec_call h, ?_⟩, fun h h6 h7 => ⟨_, exec_skip (if_neg h6) h, test_wentOn h h7 hskip⟩,
    fun h => ⟨_, exec_skip (if_pos rfl) h, ?_⟩⟩
  · exact branchTarget_wordsAway (s := s) off ▸ jumpTo_wentOn _
  · exact branchTarget_wordsAway (s := s) off ▸ put_jumpTo_wroteTo' a (s.me.pc + 4) _ 1
  · exact (test_wentOn h (by decide) hskip).1 (by simp [Holds])

/-! ### Jumps through a register (R81) -/

theorem forall_bit_eq_iff : ∀ y < 256, (∀ j < 8, y.testBit j = y.testBit 0) ↔ y = 0 ∨ y = 255 := by decide +kernel

theorem canonical_iff (x : Word) : canonical x = true ↔ Canonical x := by
  have hlt : x.toNat / 2 ^ 56 < 256 := by have := x.isLt; omega
  have hbit : ∀ j, (x.toNat / 2 ^ 56).testBit j = x.getLsbD (56 + j) := fun j => by
    rw [Nat.testBit_div_two_pow, Nat.add_comm]; rfl
  have hcan : canonical x = true ↔ x.toNat / 2 ^ 56 = 0 ∨ x.toNat / 2 ^ 56 = 255 := by
    unfold canonical; rw [Bool.or_eq_true, decide_eq_true_eq, decide_eq_true_eq]; omega
  rw [hcan, ← forall_bit_eq_iff _ hlt]
  constructor
  · intro h i hi hi'
    have := h (i - 56) (by omega)
    rwa [hbit, hbit, show 56 + (i - 56) = i by omega] at this
  · intro h j hj
    rw [hbit, hbit]
    by_cases h0 : j = 0
    · rw [h0]
    · exact h (56 + j) (by omega) (by omega)

theorem pc57_of_canonical {x : Word} (h : canonical x = true) : pc57 x = x := by
  have hx : x.toNat / 2 ^ 56 = 0 ∨ 2 ^ 64 - 2 ^ 56 ≤ x.toNat := by
    unfold canonical at h; rw [Bool.or_eq_true, decide_eq_true_eq, decide_eq_true_eq] at h; omega
  have hlt := x.isLt
  apply BitVec.eq_of_toNat_eq
  unfold pc57 sextBits wrap
  dsimp only
  split <;> rw [BitVec.toNat_ofNat] <;> omega

/-- A jump through a register: its faults, or the transfer. -/
theorem jumpCheck_outcome {x : Word} {go : State} (P : State → Prop) (hgo : Canonical x → P go) :
    (x.toNat % 4 ≠ 0 → Stops s (s.jumpCheck x go) 6 x 0) ∧
    (x.toNat % 4 = 0 → ¬Canonical x → Stops s (s.jumpCheck x go) 5 x 0) ∧
    (x.toNat % 4 = 0 → Canonical x → P (s.jumpCheck x go)) := by
  rw [← canonical_iff] at *
  unfold State.jumpCheck
  refine ⟨fun h => ?_, fun h hc => ?_, fun h hc => ?_⟩
  · rw [if_pos h]; exact s.fault_stops .align x 0
  · rw [if_neg (not_not.2 h), if_pos (Bool.eq_false_iff.2 hc)]; exact s.fault_stops .addr x 0
  · rw [if_neg (not_not.2 h), if_neg (by rw [hc]; decide)]; exact hgo hc

/-- Settles O5: the checks of the target come before the write of the link. -/
theorem registerJumpsGoOrFault : Obligations.RegisterJumpsGoOrFault := by
  intro s d a i isCall hi h
  subst hi
  cases isCall
  case false =>
    refine ⟨_, exec_ret h, jumpCheck_outcome (WentOn s · [a] (s.src a) s.me.sw) fun hc => ?_⟩
    have hw := take_jumpTo_wentOn (s := s) [a] (s.src a)
    rwa [pc57_of_canonical ((canonical_iff _).2 hc)] at hw
  case true =>
    refine ⟨_, exec_callr h, jumpCheck_outcome (WroteTo s · [a] d (s.me.pc + 4) 0 1 (s.src a) s.me.sw) fun hc => ?_⟩
    have hw := put_jumpTo_wroteTo (s := s) [a] d (s.me.pc + 4) (s.src a) 1
    rwa [pc57_of_canonical ((canonical_iff _).2 hc)] at hw

end Sys2Proof.Scalar

/-!
Rounding to nearest or toward zero, on scaled integers: what the operation `roundAt` answers, and that it is monotone and keeps what is exact (R94).
-/
namespace Sys2Proof.Scalar
open Sys2Proof Sys2Proof.Machine Sys2Proof.Claims

/-! ## Scaled numbers as rationals -/

theorem two_zpow_pos (e : Int) : (0 : ℚ) < 2 ^ e := zpow_pos (by norm_num) e

theorem mul_zpow_eq {e l : Int} (h : l ≤ e) (a : ℚ) : a * 2 ^ e = a * 2 ^ (e - l).toNat * 2 ^ l := by
  rw [mul_assoc, ← zpow_natCast, ← zpow_add₀ (by norm_num : (2 : ℚ) ≠ 0), Int.toNat_of_nonneg (by omega), Int.sub_add_cancel]

theorem atMost_iff {m n : Nat} {e d : Int} : AtMost m e n d ↔ (m : ℚ) * 2 ^ e ≤ n * 2 ^ d := by
  rw [mul_zpow_eq (min_le_left e d), mul_zpow_eq (min_le_right e d), mul_le_mul_iff_left₀ (two_zpow_pos _)]
  unfold AtMost
  exact_mod_cast Iff.rfl

theorem sameValue_iff {a b e d : Int} : SameValue a e b d ↔ (a : ℚ) * 2 ^ e = b * 2 ^ d := by
  rw [mul_zpow_eq (min_le_left e d), mul_zpow_eq (min_le_right e d), mul_left_inj' (two_zpow_pos _).ne']
  unfold SameValue
  exact_mod_cast Iff.rfl

/-! ## `roundAt` -/

variable {rz : Bool} {m n : Nat} {e u : Int}

/-- Rounding does not fall below a multiple of the unit that is at most the number. -/
theorem roundsTo_ge {N : Nat} (h : RoundsTo rz m e u n) (hN : AtMost N u m e) : N ≤ n := by
  obtain ⟨hz, hne⟩ := h
  unfold AtMost at hN
  rw [min_comm] at hN
  generalize m * 2 ^ (e - min e u).toNat = x at *
  have hw : 0 < 2 ^ (u - min e u).toNat := Nat.two_pow_pos _
  generalize 2 ^ (u - min e u).toNat = w at *
  by_contra hlt
  have h1 : (n + 1) * w ≤ N * w := Nat.mul_le_mul_right w (by omega)
  cases rz
  · have := (hne rfl).1
    rw [Nat.add_mul] at h1 this
    have e1 : 2 * n * w = 2 * (n * w) := Nat.mul_assoc ..
    omega
  · have := (hz rfl).2
    omega

/-- Rounding does not rise above a multiple of the unit that is at least the number. -/
theorem roundsTo_le {N : Nat} (h : RoundsTo rz m e u n) (hN : AtMost m e N u) : n ≤ N := by
  obtain ⟨hz, hne⟩ := h
  unfold AtMost at hN
  generalize m * 2 ^ (e - min e u).toNat = x at *
  have hw : 0 < 2 ^ (u - min e u).toNat := Nat.two_pow_pos _
  generalize 2 ^ (u - min e u).toNat = w at *
  by_contra hlt
  have h1 : (N + 1) * w ≤ n * w := Nat.mul_le_mul_right w (by omega)
  rw [Nat.add_mul] at h1
  cases rz
  · have := (hne rfl).2.1
    have e1 : 2 * n * w = 2 * (n * w) := Nat.mul_assoc ..
    omega
  · have := (hz rfl).1
    omega

theorem roundsTo_le_roundsTo {k : Nat} (hn : RoundsTo rz m e u n) (hk : RoundsTo rz m e u k) : k ≤ n := by
  obtain ⟨hnz, hnn⟩ := hn
  obtain ⟨hkz, hkn⟩ := hk
  generalize m * 2 ^ (e - min e u).toNat = x at *
  have hw : 0 < 2 ^ (u - min e u).toNat := Nat.two_pow_pos _
  generalize 2 ^ (u - min e u).toNat = w at *
  have e1 : ∀ a, 2 * a * w = 2 * (a * w) := fun a => Nat.mul_assoc ..
  simp only [Nat.add_mul, e1, Nat.one_mul] at *
  by_contra hlt
  have h1 : (n + 1) * w ≤ k * w := Nat.mul_le_mul_right w (by omega)
  rw [Nat.add_mul] at h1
  cases rz
  case true => have := hnz rfl; have := hkz rfl; omega
  case false =>
    obtain ⟨hn1, -, hn3⟩ := hnn rfl
    obtain ⟨-, hk2, hk3⟩ := hkn rfl
    -- both are ties, between neighbours that cannot both be even
    have htie : k = n + 1 := by
      by_contra hc
      have h2 : (n + 2) * w ≤ k * w := Nat.mul_le_mul_right w (by omega)
      rw [Nat.add_mul] at h2; omega
    subst htie
    rw [Nat.add_mul] at hk2 hk3
    omega

theorem roundsTo_unique {k : Nat} (hn : RoundsTo rz m e u n) (hk : RoundsTo rz m e u k) : n = k :=
  Nat.le_antisymm (roundsTo_le_roundsTo hk hn) (roundsTo_le_roundsTo hn hk)

/-- What `roundAt` answers: the rounded number of units, and whether it differs. -/
theorem roundAt_roundsTo (rz : Bool) (m : Nat) (e u : Int) :
    RoundsTo rz m e u (roundAt rz m e u).1 ∧ ((roundAt rz m e u).2 = true ↔ ¬SameValue m e (roundAt rz m e u).1 u) := by
  unfold roundAt
  by_cases h : u ≤ e
  · have hmin : min e u = u := min_eq_right h
    have hsame : SameValue m e ((m * 2 ^ (e - u).toNat : Nat) : Int) u := by
      unfold SameValue; rw [hmin]; simp
    rw [if_pos h]
    refine ⟨?_, by simpa using hsame⟩
    unfold RoundsTo
    rw [hmin, Int.sub_self]
    simp only [Int.toNat_zero, Nat.pow_zero, Nat.mul_one]
    generalize m * 2 ^ (e - u).toNat = x
    omega
  · have hmin : min e u = e := min_eq_left (by omega)
    rw [if_neg h]
    dsimp only
    have hw : 0 < 2 ^ (u - e).toNat := Nat.two_pow_pos _
    have hsame : ∀ n : Nat, SameValue m e (n : Int) u ↔ m = n * 2 ^ (u - e).toNat := fun n => by
      unfold SameValue; rw [hmin, Int.sub_self]; simp only [Int.toNat_zero, pow_zero, mul_one]; exact_mod_cast Iff.rfl
    unfold RoundsTo
    rw [hsame, hmin, Int.sub_self]
    simp only [Int.toNat_zero, Nat.pow_zero, Nat.mul_one]
    generalize 2 ^ (u - e).toNat = w at *
    have hq := Nat.div_add_mod' m w
    have hr := Nat.mod_lt m hw
    generalize m / w = q at *
    generalize m % w = r at *
    have hup : (q + 1) * w = q * w + w := by ring
    have e1 : ∀ a, (2 * a + 1) * w = 2 * (a * w) + w := fun a => by ring
    have e2 : ∀ a, 2 * a * w = 2 * (a * w) := fun a => by ring
    have e3 : ∀ a, (a + 1) * w = a * w + w := fun a => by ring
    simp only [e1, e2, e3, Bool.and_eq_true, Bool.or_eq_true, Bool.not_eq_true', decide_eq_true_eq]
    split
    · rename_i hraise
      simp only [hup]
      cases rz <;> simp only [true_and, false_and, forall_const, IsEmpty.forall_iff, reduceCtorEq] at hraise ⊢
      omega
    · rename_i hdown
      cases rz <;> simp only [true_and, false_and, not_false_eq_true, forall_const, IsEmpty.forall_iff, and_true, reduceCtorEq] at hdown ⊢ <;> omega

end Sys2Proof.Scalar

/-!
Floating formats: what a pattern means, and the one rounding (R91 to R94, R100, R101).
-/
namespace Sys2Proof.Scalar
open Sys2Proof Sys2Proof.Machine Sys2Proof.Claims

/-- A format of Table 5.1 or 5.2 whose largest finite pattern and canonical NaN stand where its widths put them. -/
structure Regular (f : Fmt) : Prop where
  eb_pos : 0 < f.eb
  max_inf : f.hasInf = true → f.max + 1 = (2 ^ f.eb - 1) * 2 ^ f.fb
  max_nan : f.hasInf = false → f.max + 2 = 2 ^ (f.eb + f.fb) ∧ f.nan + 1 = 2 ^ (f.eb + f.fb)

theorem regular_f32 : Regular fmtF32 := ⟨by decide, by decide, by decide⟩

/-! ## Patterns -/

/-- The fields of a pattern. -/
theorem decode_signed (f : Fmt) (s : Bool) {e fr : Nat} (he : e < 2 ^ f.eb) (hfr : fr < 2 ^ f.fb) :
    f.decode (f.signed s (e * 2 ^ f.fb + fr)) =
      if f.hasInf = true ∧ e = 2 ^ f.eb - 1 then if fr = 0 then .inf s else .nan (decide (fr < 2 ^ (f.fb - 1)))
      else if f.hasInf = false ∧ e * 2 ^ f.fb + fr = f.nan then .nan false
      else if e = 0 then .fin s fr (1 - (f.bias : Int) - f.fb)
      else .fin s (2 ^ f.fb + fr) ((e : Int) - f.bias - f.fb) := by
  have hb : 0 < 2 ^ f.fb := Nat.two_pow_pos _
  have hlow : e * 2 ^ f.fb + fr < 2 ^ (f.eb + f.fb) := by
    rw [Nat.pow_add]
    calc e * 2 ^ f.fb + fr < (e + 1) * 2 ^ f.fb := by rw [Nat.add_mul]; omega
      _ ≤ 2 ^ f.eb * 2 ^ f.fb := Nat.mul_le_mul_right _ he
  have hx : f.signed s (e * 2 ^ f.fb + fr) = s.toNat * 2 ^ (f.eb + f.fb) + (e * 2 ^ f.fb + fr) := by
    unfold Fmt.signed Fmt.signBit; cases s <;> simp
  have hsign : f.signed s (e * 2 ^ f.fb + fr) / f.signBit % 2 = s.toNat := by
    rw [hx, Fmt.signBit, Nat.mul_comm, Nat.mul_add_div (Nat.two_pow_pos _), Nat.div_eq_of_lt hlow]
    cases s <;> rfl
  have hmag : f.signed s (e * 2 ^ f.fb + fr) % f.signBit = e * 2 ^ f.fb + fr := by
    rw [hx, Fmt.signBit, Nat.mul_comm, Nat.mul_add_mod, Nat.mod_eq_of_lt hlow]
  have hfrac : f.signed s (e * 2 ^ f.fb + fr) % 2 ^ f.fb = fr := by
    rw [hx, Nat.pow_add, ← Nat.mul_assoc, ← Nat.add_assoc, ← Nat.add_mul, Nat.mul_comm, Nat.mul_add_mod, Nat.mod_eq_of_lt hfr]
  have hexp : f.signed s (e * 2 ^ f.fb + fr) / 2 ^ f.fb % 2 ^ f.eb = e := by
    rw [hx, Nat.pow_add, ← Nat.mul_assoc, ← Nat.add_assoc, ← Nat.add_mul, Nat.mul_comm, Nat.mul_add_div hb, Nat.div_eq_of_lt hfr,
      Nat.add_zero, Nat.mul_comm, Nat.mul_add_mod, Nat.mod_eq_of_lt he]
  unfold Fmt.decode
  rw [hsign, hmag, hfrac, hexp]
  have hs : decide (s.toNat = 1) = s := by cases s <;> rfl
  rw [hs]
  simp only [Bool.and_eq_true, decide_eq_true_eq, Bool.not_eq_true']

theorem top_pattern_iff {f : Fmt} {e fr : Nat} (he : e < 2 ^ f.eb) (hfr : fr < 2 ^ f.fb) :
    e * 2 ^ f.fb + fr + 1 = 2 ^ (f.eb + f.fb) ↔ e = 2 ^ f.eb - 1 ∧ fr = 2 ^ f.fb - 1 := by
  rw [Nat.pow_add]
  constructor
  · intro h
    have : e + 1 = 2 ^ f.eb := by
      by_contra hne
      have h1 : (e + 2) * 2 ^ f.fb ≤ 2 ^ f.eb * 2 ^ f.fb := Nat.mul_le_mul_right _ (by omega)
      rw [Nat.add_mul] at h1; omega
    rw [← this, Nat.add_mul] at h; omega
  · rintro ⟨h1, h2⟩
    rw [show 2 ^ f.eb = e + 1 by omega, Nat.add_mul]; omega

theorem Regular.patternsMean {f : Fmt} (hf : Regular f) : PatternsMean f := by
  intro s e fr he hfr
  have hx : (if s = true then 2 ^ (f.eb + f.fb) else 0) + e * 2 ^ f.fb + fr = f.signed s (e * 2 ^ f.fb + fr) := by
    unfold Fmt.signed Fmt.signBit; cases s <;> simp [Nat.add_assoc]
  have h0 := Nat.one_lt_two_pow hf.eb_pos.ne'
  have htop := top_pattern_iff he hfr
  rw [hx, decode_signed f s he hfr]
  have hnan : f.hasInf = false → (e * 2 ^ f.fb + fr = f.nan ↔ e = 2 ^ f.eb - 1 ∧ fr = 2 ^ f.fb - 1) := fun hi => by
    have := (hf.max_nan hi).2
    rw [← htop]; omega
  refine ⟨fun hi ht hz => ?_, fun hi ht hz => ?_, fun hi ht ho => ?_, fun hz => ?_, fun hz hr => ?_⟩
  · rw [if_pos ⟨hi, ht⟩, if_pos hz]
  · rw [if_pos ⟨hi, ht⟩, if_neg hz]
  · rw [if_neg (fun h => by simp [hi] at h), if_pos ⟨hi, (hnan hi).2 ⟨ht, ho⟩⟩]
  · rw [if_neg (fun h => by omega), if_neg (fun h => by have := ((hnan h.1).1 h.2).1; omega), if_pos hz]
  · rw [if_neg, if_neg, if_neg hz]
    · rintro ⟨hi, h⟩
      obtain ⟨ht, ho⟩ := (hnan hi).1 h
      exact hr.elim (fun n => n ht) (fun n => n.2 ho)
    · rintro ⟨hi, ht⟩
      exact hr.elim (fun n => n ht) (fun n => by simp [hi] at n)

/-! ## The value of a magnitude -/

/-- The value of a finite pattern without its sign, in units of the smallest subnormal. -/
def magnitude (f : Fmt) (p : Nat) : Nat :=
  if p / 2 ^ f.fb = 0 then p % 2 ^ f.fb else (2 ^ f.fb + p % 2 ^ f.fb) * 2 ^ (p / 2 ^ f.fb - 1)

theorem magnitude_fields (f : Fmt) {e fr : Nat} (hfr : fr < 2 ^ f.fb) :
    magnitude f (e * 2 ^ f.fb + fr) = if e = 0 then fr else (2 ^ f.fb + fr) * 2 ^ (e - 1) := by
  unfold magnitude
  rw [Nat.mul_comm e, Nat.mul_add_div (Nat.two_pow_pos _), Nat.div_eq_of_lt hfr, Nat.mul_add_mod, Nat.mod_eq_of_lt hfr, Nat.add_zero]

theorem magnitude_lt_succ (f : Fmt) (p : Nat) : magnitude f p < magnitude f (p + 1) := by
  have hp := Nat.div_add_mod' p (2 ^ f.fb)
  have hfr := Nat.mod_lt p (Nat.two_pow_pos f.fb)
  generalize p / 2 ^ f.fb = e at *
  generalize p % 2 ^ f.fb = fr at *
  subst hp
  rw [magnitude_fields f hfr]
  by_cases hc : fr + 1 < 2 ^ f.fb
  · rw [Nat.add_assoc, magnitude_fields f hc]
    split
    · omega
    · exact Nat.mul_lt_mul_of_pos_right (by omega) (Nat.two_pow_pos _)
  · have hnext : e * 2 ^ f.fb + fr + 1 = (e + 1) * 2 ^ f.fb + 0 := by rw [Nat.add_mul]; omega
    rw [hnext, magnitude_fields f (Nat.two_pow_pos _), if_neg (Nat.succ_ne_zero e), Nat.add_sub_cancel, Nat.add_zero]
    split
    · rename_i h; subst h; simpa using hfr
    · rename_i h
      rw [show 2 ^ e = 2 * 2 ^ (e - 1) by rw [← Nat.pow_succ', Nat.succ_eq_add_one, Nat.sub_add_cancel (by omega)], ← Nat.mul_assoc]
      exact Nat.mul_lt_mul_of_pos_right (by omega) (Nat.two_pow_pos _)

theorem magnitude_strictMono (f : Fmt) : StrictMono (magnitude f) := strictMono_nat_of_lt_succ (magnitude_lt_succ f)

/-- The pattern in which the rounded number n of units 2^j stands: a carry out of the fraction goes on into the exponent field. -/
theorem magnitude_rounded (f : Fmt) {j n : Nat} (hle : n ≤ 2 ^ (f.fb + 1)) (hge : j = 0 ∨ 2 ^ f.fb ≤ n) :
    magnitude f (j * 2 ^ f.fb + n) = n * 2 ^ j := by
  have hb := Nat.two_pow_pos f.fb
  rw [Nat.pow_succ] at hle
  rcases Nat.lt_or_ge n (2 ^ f.fb) with h | h
  · obtain rfl : j = 0 := hge.resolve_right (by omega)
    rw [magnitude_fields f h]; simp
  · rcases Nat.lt_or_ge n (2 ^ f.fb * 2) with h2 | h2
    · have e1 : j * 2 ^ f.fb + n = (j + 1) * 2 ^ f.fb + (n - 2 ^ f.fb) := by rw [Nat.add_mul]; omega
      rw [e1, magnitude_fields f (by omega), if_neg (by omega), Nat.add_sub_cancel, Nat.add_sub_cancel' h]
    · have e1 : j * 2 ^ f.fb + n = (j + 2) * 2 ^ f.fb + 0 := by rw [Nat.add_mul]; omega
      rw [e1, magnitude_fields f hb, if_neg (by omega), show n = 2 ^ f.fb * 2 by omega, Nat.add_zero, Nat.mul_assoc, ← Nat.pow_succ']; rfl

variable {f : Fmt}

theorem Regular.max_lt (hf : Regular f) : f.max < 2 ^ (f.eb + f.fb) := by
  cases hi : f.hasInf
  case false => have := (hf.max_nan hi).1; omega
  case true =>
    have h := hf.max_inf hi
    have : (2 ^ f.eb - 1) * 2 ^ f.fb ≤ 2 ^ f.eb * 2 ^ f.fb := Nat.mul_le_mul_right _ (Nat.sub_le _ _)
    rw [Nat.pow_add]; omega

/-- R91, Table 5.2: a pattern up to the largest finite one is its magnitude with its sign. -/
theorem Regular.decode_finite (hf : Regular f) {p : Nat} (hp : p ≤ f.max) (s : Bool) :
    ∃ k g, f.decode (f.signed s p) = .fin s k g ∧ (k : ℚ) * 2 ^ g = magnitude f p * 2 ^ (1 - (f.bias : Int) - f.fb) := by
  have hlt := Nat.lt_of_le_of_lt hp hf.max_lt
  have he : p / 2 ^ f.fb < 2 ^ f.eb := Nat.div_lt_of_lt_mul (by rw [← Nat.pow_add, Nat.add_comm]; exact hlt)
  have hfr := Nat.mod_lt p (Nat.two_pow_pos f.fb)
  have hsplit := Nat.div_add_mod' p (2 ^ f.fb)
  generalize p / 2 ^ f.fb = e at *
  generalize p % 2 ^ f.fb = fr at *
  subst hsplit
  have hinf : ¬(f.hasInf = true ∧ e = 2 ^ f.eb - 1) := by
    rintro ⟨hi, rfl⟩
    have := hf.max_inf hi; omega
  have hnan : ¬(f.hasInf = false ∧ e * 2 ^ f.fb + fr = f.nan) := by
    rintro ⟨hi, h⟩
    have := hf.max_nan hi; omega
  rw [decode_signed f s he hfr, if_neg hinf, if_neg hnan, magnitude_fields f hfr]
  by_cases hz : e = 0
  · rw [if_pos hz, if_pos hz]
    exact ⟨_, _, rfl, rfl⟩
  · rw [if_neg hz, if_neg hz]
    refine ⟨_, _, rfl, ?_⟩
    push_cast
    rw [mul_assoc, ← zpow_natCast 2 (e - 1), ← zpow_add₀ (by norm_num : (2 : ℚ) ≠ 0)]
    congr 2; omega

theorem Regular.decode_infPat (hf : Regular f) (hi : f.hasInf = true) (s : Bool) : f.decode (f.infPat s) = .inf s := by
  have h0 := Nat.two_pow_pos f.eb
  have h := decode_signed f s (e := 2 ^ f.eb - 1) (fr := 0) (by omega) (Nat.two_pow_pos _)
  rw [if_pos ⟨hi, rfl⟩, if_pos rfl, Nat.add_zero, ← hf.max_inf hi] at h
  exact h

theorem signed_lt {p : Nat} (hp : p < 2 ^ (f.eb + f.fb)) (s : Bool) : f.signed s p < 2 ^ (1 + f.eb + f.fb) := by
  rw [Nat.add_assoc, Nat.pow_add]
  unfold Fmt.signed Fmt.signBit
  split <;> omega

/-! ## The one rounding (R94, R100, R101) -/

section
variable {rz sat neg : Bool} {m n : Nat} {e : Int}

theorem two_zpow_le_top (hm : 0 < m) : (2 : ℚ) ^ (e + Nat.log2 m) ≤ m * 2 ^ e := by
  rw [add_comm, zpow_add₀ (by norm_num), zpow_natCast]
  exact mul_le_mul_of_nonneg_right (by exact_mod_cast Nat.log2_self_le hm.ne') (two_zpow_pos _).le

theorem lt_two_zpow_top (m : Nat) (e : Int) : m * (2 : ℚ) ^ e < 2 ^ (e + Nat.log2 m + 1) := by
  rw [add_assoc, add_comm, zpow_add₀ (by norm_num)]
  exact mul_lt_mul_of_pos_right (by exact_mod_cast Nat.lt_log2_self) (two_zpow_pos _)

/-- A number rounded to a unit at or above the last place of its own precision does not outgrow the precision. -/
theorem rounded_le {u : Int} {b : Nat} (h : RoundsTo rz m e u n) (hu : e + Nat.log2 m ≤ u + b) : n ≤ 2 ^ (b + 1) := by
  refine roundsTo_le h (atMost_iff.2 ((lt_two_zpow_top m e).le.trans ?_))
  push_cast
  rw [← zpow_natCast, ← zpow_add₀ (by norm_num)]
  exact zpow_le_zpow_right₀ (by norm_num) (by push_cast; omega)

/-- A number rounded to its own last place fills the precision. -/
theorem le_rounded {u : Int} {b : Nat} (hm : 0 < m) (h : RoundsTo rz m e u n) (hu : u + b ≤ e + Nat.log2 m) : 2 ^ b ≤ n := by
  refine roundsTo_ge h (atMost_iff.2 (le_trans ?_ (two_zpow_le_top hm)))
  push_cast
  rw [← zpow_natCast, ← zpow_add₀ (by norm_num)]
  exact zpow_le_zpow_right₀ (by norm_num) (by omega)

theorem roundAt_eq {u : Int} (h : RoundsTo rz m e u n) : roundAt rz m e u = (n, decide (¬SameValue m e n u)) := by
  obtain ⟨h1, h2⟩ := roundAt_roundsTo rz m e u
  have hn : (roundAt rz m e u).1 = n := roundsTo_unique h1 h
  rw [hn] at h2
  refine Prod.ext hn ?_
  rw [Bool.eq_iff_iff, h2, decide_eq_true_eq]

/-- What `Fmt.round` answers, once the number n of units of its spacing 2^u is known, and the number k of units at full precision. -/
theorem round_eq (f : Fmt) (rz sat neg : Bool) (hm : 0 < m) {u : Int} {k : Nat}
    (hu : u = max (e + Nat.log2 m) (1 - f.bias) - f.fb) (hn : RoundsTo rz m e u n) (hk : RoundsTo rz m e (e + Nat.log2 m - f.fb) k) :
    let top := e + Nat.log2 m
    let p := (u - (1 - f.bias - f.fb)).toNat * 2 ^ f.fb + n
    f.round rz sat neg m e =
      if f.max < p then
        if rz = true ∨ sat = true then (f.signed neg f.max, flOf ||| flNx ||| if sat = true then flSat else 0)
        else if f.hasInf = true then (f.infPat neg, flOf ||| flNx) else (f.nan, flOf ||| flNx ||| flNv)
      else (f.signed neg p, if SameValue m e n u then 0 else
        if 1 - (f.bias : Int) ≤ top ∨ (top + 1 = 1 - f.bias ∧ k = 2 ^ (f.fb + 1)) then flNx else flNx ||| flUf) := by
  have hu' : (if e + (Nat.log2 m : Int) < 1 - f.bias then 1 - (f.bias : Int) - f.fb else e + Nat.log2 m - f.fb) = u := by
    rw [hu]; split <;> omega
  unfold Fmt.round
  rw [if_neg hm.ne']
  dsimp only
  rw [hu', roundAt_eq hn, roundAt_eq hk]
  dsimp only
  congr 1
  · cases rz <;> cases sat <;> simp [flIf]
  · congr 1
    by_cases hs : SameValue m e n u
    · simp [hs, flIf]
    · by_cases ht : 1 - (f.bias : Int) ≤ e + Nat.log2 m
      · have ht' : ¬e + (Nat.log2 m : Int) < 1 - f.bias := by omega
        simp [hs, ht, ht', flIf]
      · have ht' : e + (Nat.log2 m : Int) < 1 - f.bias := by omega
        by_cases hc : e + (Nat.log2 m : Int) + 1 = 1 - f.bias ∧ k = 2 ^ (f.fb + 1)
        · simp [hs, ht', hc, flIf]
        · have hc' := not_and_or.1 hc
          simp [hs, ht, ht', hc, hc', flIf]

/-- The pattern that `Fmt.round` writes has the rounded value as its magnitude. -/
theorem magnitude_round (f : Fmt) (hm : 0 < m) {u : Int} (hu : u = max (e + Nat.log2 m) (1 - f.bias) - f.fb) (hn : RoundsTo rz m e u n) :
    (magnitude f ((u - (1 - f.bias - f.fb)).toNat * 2 ^ f.fb + n) : ℚ) * 2 ^ (1 - (f.bias : Int) - f.fb) = n * 2 ^ u := by
  rw [magnitude_rounded f (rounded_le hn (by omega))]
  · rw [mul_zpow_eq (e := u) (l := 1 - f.bias - f.fb) (by omega)]; push_cast; rfl
  · by_cases h : e + (Nat.log2 m : Int) < 1 - f.bias
    · exact .inl (by omega)
    · exact .inr (le_rounded hm hn (by omega))

/-- R94: tininess is found after rounding to full precision. -/
theorem atMost_normal_iff (hm : 0 < m) {fb k : Nat} {emin : Int} (hk : RoundsTo rz m e (e + Nat.log2 m - fb) k) :
    AtMost 1 emin k (e + Nat.log2 m - fb) ↔ emin ≤ e + Nat.log2 m ∨ (e + Nat.log2 m + 1 = emin ∧ k = 2 ^ (fb + 1)) := by
  have hle := rounded_le hk (b := fb) (by omega)
  have hge := le_rounded hm hk (b := fb) (by omega)
  have htop : (2 : ℚ) ^ (e + Nat.log2 m) = (2 ^ fb : ℕ) * 2 ^ (e + Nat.log2 m - fb) := by
    push_cast; rw [← zpow_natCast, ← zpow_add₀ (by norm_num)]; congr 1; omega
  have htop' : (2 : ℚ) ^ (e + Nat.log2 m + 1) = (2 ^ (fb + 1) : ℕ) * 2 ^ (e + Nat.log2 m - fb) := by
    push_cast; rw [← zpow_natCast, ← zpow_add₀ (by norm_num)]; congr 1; push_cast; omega
  rw [atMost_iff, Nat.cast_one, one_mul]
  rcases Int.lt_trichotomy (e + Nat.log2 m + 1) emin with h | h | h
  · have hlt : (k : ℚ) * 2 ^ (e + Nat.log2 m - fb) < 2 ^ emin := by
      calc (k : ℚ) * 2 ^ (e + Nat.log2 m - fb) ≤ 2 ^ (e + Nat.log2 m + 1) := by
            rw [htop', mul_le_mul_iff_left₀ (two_zpow_pos _)]; exact_mod_cast hle
        _ < 2 ^ emin := zpow_lt_zpow_right₀ (by norm_num) h
    exact ⟨fun hc => absurd hlt (not_lt.2 hc), fun hc => by omega⟩
  · rw [← h, htop', mul_le_mul_iff_left₀ (two_zpow_pos _), Nat.cast_le]
    omega
  · refine ⟨fun _ => .inl (by omega), fun _ => ?_⟩
    calc (2 : ℚ) ^ emin ≤ 2 ^ (e + Nat.log2 m) := zpow_le_zpow_right₀ (by norm_num) (by omega)
      _ ≤ k * 2 ^ (e + Nat.log2 m - fb) := by
        rw [htop, mul_le_mul_iff_left₀ (two_zpow_pos _)]; exact_mod_cast hge

/-- The one rounding of a regular format. -/
theorem Regular.roundsRight (hf : Regular f) : RoundsRight f := by
  intro rz sat neg m e hm r top emin u n hn big d hmax
  obtain ⟨k, hk⟩ : ∃ k, RoundsTo rz m e (top - f.fb) k := ⟨_, (roundAt_roundsTo ..).1⟩
  have hr : r = _ := round_eq f rz sat neg hm rfl hn hk
  have hmag := magnitude_round f hm rfl hn
  generalize hp : (u - (1 - f.bias - f.fb)).toNat * 2 ^ f.fb + n = p at hmag
  obtain ⟨k', g', hk', hv⟩ := hf.decode_finite (Nat.le_refl f.max) false
  rw [Fmt.signed, if_neg (by decide), hmax] at hk'
  obtain ⟨rfl, rfl⟩ : big = k' ∧ d = g' := by simpa using hk'
  have hfit : AtMost n u big d ↔ p ≤ f.max := by
    rw [atMost_iff, hv, ← hmag, mul_le_mul_iff_left₀ (two_zpow_pos _), Nat.cast_le, (magnitude_strictMono f).le_iff_le]
  rw [hp] at hr
  rw [hfit]
  refine ⟨fun hgt => ?_, fun hle => ?_⟩
  · rw [if_pos (Nat.lt_of_not_le hgt)] at hr
    refine ⟨fun h => by rw [hr, if_pos h], fun hz hs hi => ?_, fun hz hs hi => ?_⟩ <;>
      rw [if_neg (by simp [hz, hs])] at hr
    · rw [hr, if_pos hi]
      exact ⟨hf.decode_infPat hi neg, rfl⟩
    · rw [hr, if_neg (by simp [hi])]
  · rw [if_neg (Nat.not_lt.2 hle)] at hr
    obtain ⟨j, g, hj, hjv⟩ := hf.decode_finite hle neg
    rw [hr]
    refine ⟨signed_lt (Nat.lt_of_le_of_lt hle hf.max_lt) neg, ⟨j, g, hj, ?_⟩, fun h => if_pos h, fun h k2 hk2 => ?_⟩
    · rw [sameValue_iff, Int.cast_natCast, Int.cast_natCast]; exact hjv.trans hmag
    · obtain rfl := roundsTo_unique hk hk2
      rw [if_neg h]
      exact if_congr (atMost_normal_iff hm hk).symm rfl rfl

end

end Sys2Proof.Scalar

/-!
The operations on floating patterns: exact sums and products rounded once, special operands, the smaller and the larger operand (R73 to R76).
-/
namespace Sys2Proof.Scalar
open Sys2Proof Sys2Proof.Machine Sys2Proof.Claims

variable (f : Fmt)

/-! ## Sums and products (R73, R94) -/

theorem result_fin (neg : Bool) (m : Nat) (e : Int) : f.result false (.fin neg m e) = f.round false false neg m e := by
  unfold Fmt.result; simp [flIf]

theorem scaleUp_eq (neg : Bool) (m : Nat) (e l : Int) : scaleUp neg m e l = withSign neg m * 2 ^ (e - l).toNat := by
  unfold scaleUp withSign; cases neg <;> simp

theorem ite_le_eq_min (e d : Int) : (if e ≤ d then e else d) = min e d := rfl

/-- The exact sum of two finite values (R73). -/
theorem add_fin (a b : Bool) (m n : Nat) (e d : Int) :
    ∃ s k h, Machine.Num.add (.fin a m e) (.fin b n d) = (.fin s k h, false) ∧
      SameValue (withSign s k) h (withSign a m * 2 ^ (e - min e d).toNat + withSign b n * 2 ^ (d - min e d).toNat) (min e d) ∧
      (k = 0 → s = (a && b)) := by
  unfold Machine.Num.add
  dsimp only
  by_cases hz : m = 0 ∧ n = 0
  · refine ⟨a && b, 0, 0, if_pos (by simp [hz]), ?_, fun _ => rfl⟩
    obtain ⟨rfl, rfl⟩ := hz
    simp [SameValue, withSign]
  · rw [if_neg (by simpa using hz)]
    simp only [ite_le_eq_min, scaleUp_eq]
    generalize hv : withSign a m * 2 ^ (e - min e d).toNat + withSign b n * 2 ^ (d - min e d).toNat = v
    refine ⟨_, _, _, rfl, ?_, fun h0 => ?_⟩
    · have hsign : withSign (decide (v < 0)) v.natAbs = v := by
        unfold withSign
        by_cases h : v < 0 <;> simp only [h, decide_true, decide_false, if_true, Bool.false_eq_true, if_false] <;> omega
      rw [hsign]
    · have hv0 : v = 0 := Int.natAbs_eq_zero.1 h0
      subst hv0
      by_contra hab
      obtain ⟨rfl, rfl⟩ : a = true ∧ b = true := by simpa using Ne.symm hab
      have h1 : (m : Int) * 2 ^ (e - min e d).toNat = 0 ∧ (n : Int) * 2 ^ (d - min e d).toNat = 0 := by
        have p1 : 0 ≤ (m : Int) * 2 ^ (e - min e d).toNat := by positivity
        have p2 : 0 ≤ (n : Int) * 2 ^ (d - min e d).toNat := by positivity
        simp only [withSign, if_true, neg_mul] at hv
        omega
      exact hz (by simpa using h1)

theorem neg_fin (a : Bool) (m : Nat) (e : Int) : Machine.Num.neg (.fin a m e) = .fin (!a) m e := rfl
theorem mul_fin (a b : Bool) (m n : Nat) (e d : Int) :
    Machine.Num.mul (.fin a m e) (.fin b n d) = (.fin (a != b) (m * n) (e + d), false) := rfl

/-- An operation whose exact result is finite rounds it once. -/
theorem arithmeticRight : ArithmeticRight f := by
  intro x y z a b c m n l e d g hx hy hz sum fused
  refine ⟨?_, ?_, ?_, ?_⟩
  · obtain ⟨s, k, h, hadd, hsame, hsign⟩ := add_fin a b m n e d
    refine ⟨s, k, h, ?_, hsame, hsign⟩
    simp only [Fmt.add, hx, hy, hadd]
    exact result_fin f s k h
  · obtain ⟨s, k, h, hadd, hsame, hsign⟩ := add_fin a (!b) m n e d
    refine ⟨s, k, h, ?_, hsame, hsign⟩
    simp only [Fmt.sub, hx, hy, neg_fin, hadd]
    exact result_fin f s k h
  · refine ⟨m * n, e + d, ?_, ?_⟩
    · simp only [Fmt.mul, hx, hy, mul_fin]
      exact result_fin f ..
    · rw [sameValue_iff]; push_cast; rfl
  · obtain ⟨s, k, h, hadd, hsame, hsign⟩ := add_fin (a != b) c (m * n) l (e + d) g
    refine ⟨s, k, h, ?_, hsame, hsign⟩
    simp only [Fmt.fma, hx, hy, hz, mul_fin, hadd]
    exact result_fin f s k h

/-! ## Special operands (R73, R74) -/

theorem result_nan (nv s : Bool) : f.result nv (.nan s) = (f.nan, if nv = true then flNv else 0) := rfl

variable {f}

theorem isNan_iff (a : Machine.Num) : a.isNan = true ↔ ∃ s, a = .nan s := by cases a <;> simp [Machine.Num.isNan]
theorem sig_iff (a : Machine.Num) : a.sig = true ↔ a = .nan true := by cases a <;> simp [Machine.Num.sig]

/-- A NaN among the operands of a sum gives a NaN, which is not what is invalid in it. -/
theorem add_nan {a b : Machine.Num} (h : (∃ s, a = .nan s) ∨ ∃ s, b = .nan s) : a.add b = (.nan false, false) := by
  rcases h with ⟨s, rfl⟩ | ⟨s, rfl⟩
  · rfl
  · cases a <;> rfl
theorem mul_nan {a b : Machine.Num} (h : (∃ s, a = .nan s) ∨ ∃ s, b = .nan s) : a.mul b = (.nan false, false) := by
  rcases h with ⟨s, rfl⟩ | ⟨s, rfl⟩
  · rfl
  · cases a <;> rfl

/-- Zero times infinity (R74). -/
def ZeroInf (a b : Machine.Num) : Prop :=
  (∃ s, a = .inf s ∧ ∃ t e, b = .fin t 0 e) ∨ ∃ s, b = .inf s ∧ ∃ t e, a = .fin t 0 e

theorem mul_zeroInf {a b : Machine.Num} (h : ZeroInf a b) : a.mul b = (.nan false, true) := by
  rcases h with ⟨s, rfl, t, e, rfl⟩ | ⟨s, rfl, t, e, rfl⟩ <;> rfl

/-- A product is invalid for zero times infinity alone. -/
theorem mul_invalid_iff (a b : Machine.Num) : (a.mul b).2 = true ↔ ZeroInf a b := by
  unfold ZeroInf
  cases a <;> cases b <;> simp [Machine.Num.mul] <;> split <;> simp_all

theorem neg_nan_iff (b : Machine.Num) : (∃ s, b.neg = .nan s) ↔ ∃ s, b = .nan s := by cases b <;> simp [Machine.Num.neg]
theorem neg_inf_iff (b : Machine.Num) (s : Bool) : b.neg = .inf s ↔ b = .inf (!s) := by
  cases b <;> simp [Machine.Num.neg]

theorem inf_ne {s t : Bool} (h : Machine.Num.inf t ≠ .inf s) : t = !s := by
  cases s <;> cases t <;> simp_all

/-- An infinity and anything but a NaN and the opposite infinity sum to it. -/
theorem add_inf {s : Bool} {b : Machine.Num} (hb : b ≠ .inf (!s)) (hn : ¬∃ s, b = .nan s) : Machine.Num.add (.inf s) b = (.inf s, false) := by
  cases b with
  | nan t => exact absurd ⟨t, rfl⟩ hn
  | inf t => exact if_pos (by rw [inf_ne hb, Bool.not_not])
  | fin => rfl

theorem sigs_iff (a b : Machine.Num) : (a.sig || b.sig || false) = true ↔ a = .nan true ∨ b = .nan true := by
  rw [Bool.or_false, Bool.or_eq_true, sig_iff, sig_iff]

/-- A result that is a NaN is the canonical one; what sets nv is said apart. -/
theorem result_nan_eq {nv s : Bool} {p : Prop} [Decidable p] (h : nv = true ↔ p) : f.result nv (.nan s) = (f.nan, if p then flNv else 0) :=
  Prod.ext rfl (if_congr h rfl rfl)

theorem Regular.result_inf (hf : Regular f) (hi : f.hasInf = true) {nv : Bool} (hnv : nv = false) (s : Bool) :
    f.decode (f.result nv (.inf s)).1 = .inf s ∧ (f.result nv (.inf s)).2 = 0 := by
  subst hnv
  refine ⟨?_, rfl⟩
  change f.decode (if f.hasInf = true then f.infPat s else f.nan) = _
  rw [if_pos hi, hf.decode_infPat hi]

section
variable (f : Fmt) (x y z : Nat)

theorem fmt_add_eq : let a := f.decode x; let b := f.decode y
    f.add x y = f.result (a.sig || b.sig || (a.add b).2) (a.add b).1 := rfl
theorem fmt_sub_eq : let a := f.decode x; let b := f.decode y
    f.sub x y = f.result (a.sig || b.sig || (a.add b.neg).2) (a.add b.neg).1 := rfl
theorem fmt_mul_eq : let a := f.decode x; let b := f.decode y
    f.mul x y = f.result (a.sig || b.sig || (a.mul b).2) (a.mul b).1 := rfl
theorem fmt_fma_eq : let a := f.decode x; let b := f.decode y; let c := f.decode z
    f.fma x y z = f.result (a.sig || b.sig || c.sig || (a.mul b).2 || ((a.mul b).1.add c).2) ((a.mul b).1.add c).1 := rfl

end

theorem Regular.specialsRight (hf : Regular f) : SpecialsRight f := by
  intro x y z a b c sig nan zeroInf
  have hnosig {s : Bool} (ha : a = .inf s) (hb : ¬nan) : (a.sig || b.sig || false) = false := by
    refine Bool.eq_false_iff.2 fun h => hb ?_
    exact ((sigs_iff a b).1 h).imp (fun e => ⟨_, e⟩) (fun e => ⟨_, e⟩)
  refine ⟨fun h => ⟨?_, ?_, ?_⟩, fun h => ?_, fun s ha hb => ?_, fun s ha hb => ?_, fun h => ⟨?_, ?_⟩,
    fun hi s ha => ⟨fun hb hn => ?_, fun hb hn => ?_⟩⟩
  · rw [fmt_add_eq, add_nan h]; exact result_nan_eq (sigs_iff a b)
  · rw [fmt_sub_eq, add_nan (h.imp_right (neg_nan_iff b).2)]; exact result_nan_eq (sigs_iff a b)
  · rw [fmt_mul_eq, mul_nan h]; exact result_nan_eq (sigs_iff a b)
  · have hsum : (a.mul b).1.add c = (.nan false, false) := by
      refine add_nan (h.imp_left fun h => ?_)
      rw [mul_nan h]; exact ⟨_, rfl⟩
    have hnv : (a.sig || b.sig || c.sig || (a.mul b).2 || false) = true ↔ sig ∨ c = .nan true ∨ zeroInf := by
      simp only [Bool.or_false, Bool.or_eq_true, sig_iff, mul_invalid_iff]
      exact or_assoc
    rw [fmt_fma_eq, hsum]
    exact ⟨rfl, fun h => if_pos (hnv.2 h), fun h => if_neg (fun e => h (hnv.1 e))⟩
  · rw [fmt_add_eq, show f.decode x = _ from ha, show f.decode y = _ from hb]; cases s <;> rfl
  · rw [fmt_sub_eq, show f.decode x = _ from ha, show f.decode y = _ from hb]; cases s <;> rfl
  · rw [fmt_mul_eq, mul_zeroInf h, Bool.or_true]; rfl
  · rw [fmt_fma_eq, mul_zeroInf h, Bool.or_true]; rfl
  · have hs : a.add b = (.inf s, false) := ha ▸ add_inf hb (fun h => hn (.inr h))
    rw [fmt_add_eq, hs]
    exact hf.result_inf hi (hnosig ha hn) s
  · have hs : a.add b.neg = (.inf s, false) :=
      ha ▸ add_inf (fun h => hb (by rw [neg_inf_iff] at h; simpa using h)) (fun h => hn (.inr ((neg_nan_iff b).1 h)))
    rw [fmt_sub_eq, hs]
    exact hf.result_inf hi (hnosig ha hn) s

/-! ## The smaller and the larger operand (R75) -/

theorem isNeg_iff (f : Fmt) (x : Nat) : f.isNeg x = true ↔ x / 2 ^ (f.eb + f.fb) % 2 = 1 := decide_eq_true_iff

theorem lt_fin (a b : Bool) (m n : Nat) (e d : Int) : Machine.Num.lt (.fin a m e) (.fin b n d) = true ↔
    withSign a m * 2 ^ (e - min e d).toNat < withSign b n * 2 ^ (d - min e d).toNat := by
  simp only [Machine.Num.lt, ite_le_eq_min, scaleUp_eq, decide_eq_true_eq]

/-- The first operand is below the other, or equal to it and the negative zero of the two. -/
def firstBelow (f : Fmt) (x y : Nat) : Bool :=
  (f.decode x).lt (f.decode y) || ((f.decode x).eq (f.decode y) && f.isNeg x && !f.isNeg y)

theorem minmax_eq (f : Fmt) (larger : Bool) (x y : Nat) : f.minmax larger x y =
    (if (f.decode x).isNan = true then if (f.decode y).isNan = true then f.nan else y
      else if (f.decode y).isNan = true then x else if firstBelow f x y != larger then x else y,
     flIf ((f.decode x).sig || (f.decode y).sig) flNv) := by
  unfold Fmt.minmax firstBelow
  dsimp only
  cases (f.decode x).isNan <;> cases (f.decode y).isNan <;> rfl

section
variable {x y : Nat}

theorem firstBelow_fin {s t : Bool} {m n : Nat} {e d : Int} (hx : f.decode x = .fin s m e) (hy : f.decode y = .fin t n d) :
    let p := withSign s m * 2 ^ (e - min e d).toNat
    let q := withSign t n * 2 ^ (d - min e d).toNat
    firstBelow f x y = true ↔ p < q ∨ (p = q ∧ f.isNeg x = true ∧ ¬f.isNeg y = true) := by
  intro p q
  have hxy : (f.decode x).lt (f.decode y) = true ↔ p < q := by rw [hx, hy]; exact lt_fin ..
  have hyx : (f.decode y).lt (f.decode x) = true ↔ q < p := by rw [hx, hy, lt_fin, min_comm d e]
  have heq : (f.decode x).eq (f.decode y) = true ↔ p = q := by
    have hnx : (f.decode x).isNan = false := by rw [hx]; rfl
    have hny : (f.decode y).isNan = false := by rw [hy]; rfl
    simp only [Machine.Num.eq, hnx, hny, Bool.not_false, Bool.true_and, Bool.and_eq_true, Bool.not_eq_true', Bool.eq_false_iff, ne_eq, hxy, hyx]
    omega
  simp only [firstBelow, Bool.or_eq_true, Bool.and_eq_true, hxy, heq, Bool.not_eq_true', Bool.eq_false_iff, ne_eq, and_assoc]

/-- An infinity is below every other number, or above it. -/
theorem firstBelow_inf_left {s : Bool} (hx : f.decode x = .inf s) (hy : f.decode y ≠ .inf s) (hn : ¬∃ s, f.decode y = .nan s) :
    firstBelow f x y = s := by
  unfold firstBelow
  rw [hx]
  cases hb : f.decode y with
  | nan t => exact absurd ⟨t, hb⟩ hn
  | inf t =>
    rw [hb] at hy
    obtain rfl := inf_ne hy
    cases s <;> rfl
  | fin => cases s <;> rfl

theorem firstBelow_inf_right {s : Bool} (hy : f.decode y = .inf s) (hx : f.decode x ≠ .inf s) (hn : ¬∃ s, f.decode x = .nan s) :
    firstBelow f x y = !s := by
  unfold firstBelow
  rw [hy]
  cases ha : f.decode x with
  | nan t => exact absurd ⟨t, ha⟩ hn
  | inf t =>
    rw [ha] at hx
    obtain rfl := inf_ne hx
    cases s <;> rfl
  | fin => cases s <;> rfl

end

theorem minmaxRight (f : Fmt) : MinMaxRight f := by
  intro larger x y a b nanA nanB negative r
  have hA : (f.decode x).isNan = true ↔ nanA := isNan_iff a
  have hB : (f.decode y).isNan = true ↔ nanB := isNan_iff b
  have hr : r = _ := minmax_eq f larger x y
  have hnum (h1 : ¬nanA) (h2 : ¬nanB) : r.1 = if firstBelow f x y != larger then x else y := by
    rw [hr, if_neg (mt hA.1 h1), if_neg (mt hB.1 h2)]
  refine ⟨?_, fun h1 h2 => ?_, fun h1 h2 => ?_, fun h1 h2 => ?_, fun h1 h2 => ?_, fun s ha hb hn => ?_, fun s hb ha hn => ?_,
    fun s m e t n d ha hb => ?_⟩
  · rw [hr]
    exact if_congr (by rw [← Bool.or_false ((f.decode x).sig || _)]; exact sigs_iff a b) rfl rfl
  · rw [hr, if_pos (hA.2 h1), if_pos (hB.2 h2)]
  · rw [hr, if_pos (hA.2 h1), if_neg (mt hB.1 h2)]
  · rw [hr, if_neg (mt hA.1 h1), if_pos (hB.2 h2)]
  · rw [hnum h1 h2]; split <;> simp
  · rw [hnum (fun ⟨_, h⟩ => by simp [ha] at h) hn, firstBelow_inf_left ha hb hn]
    cases s <;> cases larger <;> rfl
  · rw [hnum hn (fun ⟨_, h⟩ => by simp [hb] at h), firstBelow_inf_right hb ha hn]
    cases s <;> cases larger <;> rfl
  · intro p q
    have hfb := firstBelow_fin ha hb
    rw [isNeg_iff, isNeg_iff] at hfb
    rw [hnum (fun ⟨_, h⟩ => by simp [ha] at h) (fun ⟨_, h⟩ => by simp [hb] at h)]
    refine ⟨fun h => ?_, fun h => ?_⟩
    · rw [hfb.2 h]; cases larger <;> rfl
    · rw [Bool.eq_false_iff.2 (mt hfb.1 (by omega))]; cases larger <;> rfl

end Sys2Proof.Scalar

/-!
The scalar FP32 instructions (R72 to R77).
-/
namespace Sys2Proof.Scalar
open Sys2Proof Sys2Proof.Machine Sys2Proof.Claims

/-- A major 0x0C instruction whose checks pass: result and flags come into place together, after 6 clk. -/
theorem fpOp_wrote {s : State} {i : Instr} {srcs : List Reg} {d : Reg} {v : Word} {fl : Fl} (f : (Reg → Word) → Word × Fl)
    (he : exec i s = fpOp i srcs d f s) (hf : f s.src = (v, fl)) (h : PassesG s true srcs (some d)) :
    ∃ t, exec i s = .next t ∧ Wrote s t srcs d v fl 6 := by
  refine ⟨_, he.trans (State.issue_passes _ h), ?_⟩
  dsimp only
  rw [hf]
  exact Wrote.flagged fl (State.retire_wrote ..)

theorem boolWord_eq (b : Bool) : boolWord b = BitVec.ofNat 64 b.toNat := by cases b <;> rfl

/-- The relations of R76 are those of the model. -/
theorem rel_eq_compares (r : FRel) (x y : Nat) : fmtF32.rel r x y = compares r x y := by
  cases r <;> simp only [Fmt.rel, compares, flIf, Machine.Num.eq] <;>
    cases fmtF32.decode x <;> cases fmtF32.decode y <;> rfl

theorem relWord_compares (r : FRel) (x y : Nat) :
    relWord (fmtF32.rel r x y) = (BitVec.ofNat 64 (compares r x y).1.toNat, (compares r x y).2) := by
  rw [rel_eq_compares]
  exact Prod.ext (boolWord_eq _) rfl

theorem i32Word_eq (r : Nat × Fl) : i32Word r = ((BitVec.ofNat 32 r.1).signExtend 64, r.2) := by
  unfold i32Word
  rw [sextBits_eq _ (by decide)]
  congr 2
  apply BitVec.eq_of_toNat_eq
  simp [wrap]

theorem floatRow_holds (s : State) (i : Instr) (srcs : List Reg) (d : Reg) (f : State → Nat × Fl) (ext : Nat → Word)
    (hr : floatRow i = some (srcs, d, f, ext)) (h : PassesG s true srcs (some d)) :
    ∃ t, exec i s = .next t ∧ Wrote s t srcs d (ext (f s).1) (f s).2 6 := by
  unfold floatRow at hr
  split at hr <;> cases hr
  case h_1 a b => exact fpOp_wrote (fun r => f32Word (fmtF32.add (lo32 (r a)) (lo32 (r b)))) rfl rfl h
  case h_2 a b => exact fpOp_wrote (fun r => f32Word (fmtF32.sub (lo32 (r a)) (lo32 (r b)))) rfl rfl h
  case h_3 a b => exact fpOp_wrote (fun r => f32Word (fmtF32.mul (lo32 (r a)) (lo32 (r b)))) rfl rfl h
  case h_4 a b c => exact fpOp_wrote (fun r => f32Word (fmtF32.fma (lo32 (r a)) (lo32 (r b)) (lo32 (r c)))) rfl rfl h
  case h_5 a b => exact fpOp_wrote (fun r => f32Word (fmtF32.minmax false (lo32 (r a)) (lo32 (r b)))) rfl rfl h
  case h_6 a b => exact fpOp_wrote (fun r => f32Word (fmtF32.minmax true (lo32 (r a)) (lo32 (r b)))) rfl rfl h
  case h_7 a b => exact fpOp_wrote (fun r => relWord (fmtF32.rel .eq (lo32 (r a)) (lo32 (r b)))) rfl (relWord_compares ..) h
  case h_8 a b => exact fpOp_wrote (fun r => relWord (fmtF32.rel .lt (lo32 (r a)) (lo32 (r b)))) rfl (relWord_compares ..) h
  case h_9 a b => exact fpOp_wrote (fun r => relWord (fmtF32.rel .le (lo32 (r a)) (lo32 (r b)))) rfl (relWord_compares ..) h
  case h_10 a b => exact fpOp_wrote (fun r => relWord (fmtF32.rel .un (lo32 (r a)) (lo32 (r b)))) rfl (relWord_compares ..) h
  case h_11 a => exact fpOp_wrote (fun r => f32Word (convert .i32 .f32 false false (lo32 (r a)))) rfl rfl h
  case h_12 a => exact fpOp_wrote (fun r => f32Word (convert .i64 .f32 false false (r a).toNat)) rfl rfl h
  case h_13 a => exact fpOp_wrote (fun r => i32Word (convert .f32 .i32 false false (lo32 (r a)))) rfl (i32Word_eq _) h
  case h_14 a => exact fpOp_wrote (fun r => f32Word (convert .f32 .i64 false false (lo32 (r a)))) rfl rfl h
  case h_15 a => exact fpOp_wrote (fun r => i32Word (convert .f32 .i32 true false (lo32 (r a)))) rfl (i32Word_eq _) h
  case h_16 a => exact fpOp_wrote (fun r => f32Word (convert .f32 .i64 true false (lo32 (r a)))) rfl rfl h

/-- Settles O3: binary32 is a regular format, and each instruction is its row's operation. -/
theorem scalarFloatGivesResultAndFlags : Obligations.ScalarFloatGivesResultAndFlags :=
  ⟨⟨regular_f32.patternsMean, regular_f32.roundsRight, arithmeticRight _, regular_f32.specialsRight, minmaxRight _⟩, floatRow_holds⟩

/-- Refutes O9: the statement speaks of all four type codes, and code 3 is E4M3, which has no infinity (no vector float word has it). Of 256 = 2^8
the overflow of `vexp2` is the canonical NaN 0x7F there, not +∞. -/
theorem not_vectorFloatOperationsGiveTable63 : ¬Obligations.VectorFloatOperationsGiveTable63 := by
  rintro ⟨-, -, h⟩
  have hx : (floatTy 3).decode 0x78 = .fin false 8 5 := by decide
  obtain ⟨happ, -⟩ := h 3
  obtain ⟨hover, -⟩ := (happ 0x78 8 false 5 8 0 hx (by decide) (by decide) (by decide)).1 rfl (by decide)
  have hnan : (floatTy 3).fmt.decode (approxExp2 (floatTy 3) 0x78).1 = .nan false := by decide
  rw [hnan] at hover
  cases hover

end Sys2Proof.Scalar

/-!
`seal` and `unseal` (R337, R338): the statement's hypotheses leave out a core that is stopped for repair.
-/
namespace Sys2Proof.Scalar
open Sys2Proof Sys2Proof.Machine Sys2Proof.Claims

/-- Slot 0 of core 0, stopped for repair (R300), is READY and privileged; g1 leads to byte 0 of the core's own local memory, g2 is 0. -/
def stoppedReader : State :=
  { State.reset with
    pkg := { Pkg.reset with boot := .running }
    cores := [(0, { Core.reset with health := .stopped })]
    slots := [(0, (({ Slot.reset with st := .ready, sw := 4 } : Slot).setReg 1 0xFFFFFF0000000000).setReg 2 0)] }

/-- The checks of R35 that `Passes` names let `unseal` through on the stopped core. -/
theorem stoppedReader_passes : PassesP stoppedReader [1, 2] (some 5) where
  mode _ := by decide
  place h := nomatch h
  frame h := absurd h (by decide)
  window _ h := nomatch h
  full := by decide
  pop h := absurd h (by decide)
  push h := absurd h (by decide)
  whole := by decide
  wholeV _ h := nomatch h

/-- The 32 bytes of the request lie in the core's own local memory, in sound words and outside any guard. -/
theorem stoppedReader_ownBytes : OwnBytes stoppedReader (stoppedReader.src 1) 32 (2 ^ 56) :=
  ⟨0, ⟨by decide, Or.inl ⟨rfl, by decide⟩⟩, by decide, by decide, by decide⟩

/-- R300: a read of the memory of a core that is stopped for repair waits, so `unseal` parks. -/
theorem stoppedReader_unseal {t : State} (h : exec (.unseal 5 1 2) stoppedReader = .next t) : t.me.st = .parked := by
  have hst : (match exec (.unseal 5 1 2) stoppedReader with | .next u => u.me.st | _ => .free) = .parked := by decide
  rw [h] at hst
  exact hst

/-- An instruction that writes its result and goes on leaves its slot in the state it was in. -/
theorem st_of_wrote {s t : State} {srcs : List Reg} {d : Reg} {v : Word} {fl : BitVec 5} {lat : Nat} (h : Wrote s t srcs d v fl lat) :
    t.me.st = s.me.st := by
  rw [h.rest]

/-- Refutes O48: no hypothesis says that the core of the `unseal` is not stopped for repair. There the read of the header parks the slot (R300),
where the statement has DENIED, as core 0 is no service core. No step of the machine runs a slot of a stopped core, but the statement speaks of
`exec` in every state. -/
theorem not_segmentsAreSealedAndOpened : ¬Obligations.SegmentsAreSealedAndOpened := by
  rintro ⟨-, -, h⟩
  obtain ⟨t, hexec, hdenied, -⟩ := h stoppedReader 5 1 2 (2 ^ 56) stoppedReader_passes (by decide) (by decide) (by decide) (by decide)
    stoppedReader_ownBytes (fun hlen => absurd hlen (by decide)) (by decide)
  have hwrote := hdenied (fun ⟨_, hservice, _⟩ => absurd hservice (by decide))
  have hst := st_of_wrote hwrote
  rw [stoppedReader_unseal hexec] at hst
  exact absurd hst (by decide)

end Sys2Proof.Scalar

/-!
Conversions: to the floating formats, to integers and between element types (R90, R98 to R101, R103).
-/
namespace Sys2Proof.Formats
open Sys2Proof Sys2Proof.Machine Sys2Proof.Claims Sys2Proof.Scalar

/-! ## The floating formats (Tables 5.1 and 5.2) -/

theorem regular_f16 : Regular fmtF16 := ⟨by decide, by decide, by decide⟩
theorem regular_bf16 : Regular fmtBf16 := ⟨by decide, by decide, by decide⟩
theorem regular_e4 : Regular fmtE4 := ⟨by decide, by decide, by decide⟩
theorem regular_e5 : Regular fmtE5 := ⟨by decide, by decide, by decide⟩

theorem regular_of_mem : ∀ f ∈ [fmtF32, fmtF16, fmtBf16, fmtE4, fmtE5], Regular f := by
  simp only [List.forall_mem_cons]
  exact ⟨regular_f32, regular_f16, regular_bf16, regular_e4, regular_e5, by simp⟩

/-- R103: special inputs; any other value takes the one rounding. -/
theorem floatsRight {f : Fmt} (hf : Regular f) : FloatsRight f := by
  intro rz sat
  refine ⟨fun s => rfl, fun neg hi => ?_, fun neg hi => ?_, fun neg e => rfl, fun neg m e => rfl⟩
  · have hinf : toFloat f rz sat (.inf neg) = (f.infPat neg, flNone) := if_pos hi
    rw [hinf]
    exact ⟨hf.decode_infPat hi neg, rfl⟩
  · exact if_neg (by simp [hi])

/-! ## Integers of w bits (R90) -/

theorem two_pow_half {w : Nat} (hw : 0 < w) : (2 : Int) ^ w = 2 * 2 ^ (w - 1) := by
  rw [← pow_succ', Nat.sub_add_cancel hw]

theorem toBits_eq (w : Nat) (v : Int) : toBits w v = (v % 2 ^ w).toNat := by
  unfold toBits; push_cast; rfl

/-- The greatest integer of w bits. -/
theorem toBits_max {w : Nat} (hw : 0 < w) : toBits w (2 ^ (w - 1) - 1) = 2 ^ (w - 1) - 1 := by
  have hpos : (0 : Int) < 2 ^ (w - 1) := by positivity
  have hnat : ((2 ^ (w - 1) : Nat) : Int) = 2 ^ (w - 1) := by push_cast; rfl
  rw [toBits_eq, two_pow_half hw, Int.emod_eq_of_lt (by omega) (by omega)]
  omega

/-- The least integer of w bits. -/
theorem toBits_min {w : Nat} (hw : 0 < w) : toBits w (-(2 ^ (w - 1))) = 2 ^ (w - 1) := by
  have hpos : (0 : Int) < 2 ^ (w - 1) := by positivity
  have hnat : ((2 ^ (w - 1) : Nat) : Int) = 2 ^ (w - 1) := by push_cast; rfl
  rw [toBits_eq, two_pow_half hw, ← Int.add_mul_emod_self_left _ _ 1, Int.emod_eq_of_lt (by omega) (by omega)]
  omega

theorem toSigned_toNat {w : Nat} (x : BitVec w) (hw : 0 < w) : toSigned w x.toNat = x.toInt := by
  have hhalf : 2 ^ w = 2 * 2 ^ (w - 1) := by rw [← pow_succ', Nat.sub_add_cancel hw]
  have hcast : ((2 ^ w : Nat) : Int) = 2 ^ w := by push_cast; rfl
  unfold toSigned
  dsimp only
  rw [Nat.mod_eq_of_lt x.isLt, BitVec.toInt_eq_toNat_cond, hcast]
  exact if_congr (by omega) rfl rfl

theorem flIf_decide_not (p : Prop) [Decidable p] (fl : Fl) : flIf (decide ¬p) fl = if p then 0 else fl := by
  by_cases h : p <;> simp [flIf, h]

/-- R99: a rounded value beyond the type's range is clamped to it. -/
theorem toInteger_fin {w : Nat} (hw : 0 < w) {rz : Bool} {m n : Nat} {e : Int} (hn : RoundsTo rz m e 0 n) (neg : Bool) :
    let v := withSign neg n
    toInteger w rz (.fin neg m e) =
      if 2 ^ (w - 1) - 1 < v then (2 ^ (w - 1) - 1, flNv ||| flSat) else if v < -(2 ^ (w - 1)) then (2 ^ (w - 1), flNv ||| flSat)
      else ((v % 2 ^ w).toNat, if SameValue m e n 0 then 0 else flNx) := by
  intro v
  rw [← toBits_max hw, ← toBits_min hw, ← toBits_eq, ← flIf_decide_not]
  unfold toInteger
  dsimp only
  rw [roundAt_eq hn]
  rfl

theorem integersRight {w : Nat} (hw : 0 < w) : IntegersRight w := by
  intro rz hi lo
  refine ⟨fun s => rfl, Prod.ext (toBits_max hw) rfl, Prod.ext (toBits_min hw) rfl, ?_⟩
  intro neg m e n hn v r
  have hpos : (0 : Int) < 2 ^ (w - 1) := by positivity
  have hr : r = _ := toInteger_fin hw hn neg
  refine ⟨fun h => by rw [hr, if_pos h], fun h => ?_, fun h1 h2 => ?_⟩
  · rw [hr, if_neg (by omega), if_pos h]
  · rw [hr, if_neg (by omega), if_neg (by omega)]
    exact ⟨rfl, rfl⟩

/-! ## Pairs of element types (R98, Table 5.4) -/

theorem width_pos (t : ETy) : 0 < t.width := by cases t <;> decide

/-- R90: an integer brought to w bits keeps its low bits, or under `sat` is clamped. -/
theorem intTo_eq {w : Nat} (hw : 0 < w) (sat : Bool) (v : Int) :
    intTo w sat v = if sat = true ∧ 2 ^ (w - 1) - 1 < v then (2 ^ (w - 1) - 1, flSat)
      else if sat = true ∧ v < -(2 ^ (w - 1)) then (2 ^ (w - 1), flSat) else ((v % 2 ^ w).toNat, 0) := by
  rw [← toBits_max hw, ← toBits_min hw, ← toBits_eq]
  unfold intTo
  simp only [Bool.and_eq_true, decide_eq_true_eq]
  rfl

theorem convert_int {src dst : ETy} (hs : src.isInt = true) (hd : dst.isInt = true) (rz sat : Bool) (x : Nat) :
    convert src dst rz sat x = intTo dst.width sat (toSigned src.width x) := by
  unfold convert; rw [hs, hd]; rfl
theorem convert_encode {src dst : ETy} (h : src.isInt = false ∨ dst.isInt = false) (rz sat : Bool) (x : Nat) :
    convert src dst rz sat x = dst.encode rz sat (src.decode x) := by
  unfold convert
  exact if_neg (by rcases h with h | h <;> simp [h])

theorem encode_int {t : ETy} (h : t.isInt = true) (rz sat : Bool) (x : Machine.Num) : t.encode rz sat x = toInteger t.width rz x := if_pos h
theorem encode_l6 (rz sat : Bool) (x : Machine.Num) : ETy.l6.encode rz sat x = toLog rz sat x := rfl
theorem encode_float {t : ETy} (h : t.isInt = false) (hl : t ≠ .l6) (rz sat : Bool) (x : Machine.Num) :
    t.encode rz sat x = toFloat t.fmt rz sat x := by
  unfold ETy.encode; rw [if_neg (by simp [h]), if_neg hl]

theorem pairsConvert : PairsConvert := by
  intro src dst rz sat x r v lo hi
  refine ⟨fun hs hd => ?_, fun hs => if_pos hs, fun hs hd => ?_, fun hd => ?_, fun hd hl => ?_⟩
  · have hpos : (0 : Int) < 2 ^ (dst.width - 1) := by positivity
    have hr : r = _ := (convert_int hs hd rz sat x).trans (intTo_eq (width_pos dst) sat v)
    refine ⟨fun h => ?_, fun h h1 => ?_, fun h h1 => ?_⟩
    · have hsmall (p : Prop) (hp : p → ¬(lo ≤ v ∧ v ≤ hi)) : ¬(sat = true ∧ p) := fun ⟨h1, h2⟩ =>
        h.elim (fun h => by simp [h] at h1) (hp h2)
      rw [hr, if_neg (hsmall _ fun h => by omega), if_neg (hsmall _ fun h => by omega)]
    · rw [hr, if_pos ⟨h, h1⟩]
    · rw [hr, if_neg (fun h2 => by omega), if_pos ⟨h, h1⟩]
  · exact (convert_encode (.inl hs) ..).trans (encode_int hd ..)
  · subst hd
    exact (convert_encode (.inr rfl) ..).trans (encode_l6 ..)
  · exact (convert_encode (.inr hd) ..).trans (encode_float hd hl ..)

end Sys2Proof.Formats

/-!
log6: what its codes mean and the rounding to the nearest one (R95, R102, R103).
-/
namespace Sys2Proof.Formats
open Sys2Proof Sys2Proof.Machine Sys2Proof.Claims Sys2Proof.Scalar

/-! ## Codes (R95) -/

/-- The codes from m = −15 to 15, of both signs. -/
theorem decode_logPattern : ∀ (neg : Bool), ∀ i < 31,
    logDecode (logPattern neg ((i : Nat) - 15)) = .fin neg (logMag (i - 15)) (-19) := by decide

/-- R96: bits 7:6 of a container are ignored. -/
theorem logDecode_mod (x : Nat) : logDecode x = logDecode (x % 64) := by
  have hsign : x % 64 / 32 % 2 = x / 32 % 2 := by omega
  have hmag : x % 64 % 2 ^ 5 = x % 2 ^ 5 := by omega
  unfold logDecode isNal isLogZero logM toSigned
  rw [Nat.mod_mod, hsign, hmag]

theorem logCode_top (neg : Bool) : logCode neg 15 = 0x0F + if neg = true then 32 else 0 := by cases neg <;> rfl

/-- The codes' values, and the sources that R103 has before any rounding. -/
theorem logCodesRight : LogCodesRight := by
  refine ⟨fun neg m h1 h2 => ?_, by decide, by decide, logDecode_mod, fun rz sat neg => ⟨fun e => rfl, fun s => rfl, ?_⟩⟩
  · have h := decode_logPattern neg (m + 15).toNat (by omega)
    rw [show (((m + 15).toNat : Nat) : Int) - 15 = m by omega] at h
    exact h
  · rw [← logCode_top]; rfl

/-! ## Magnitudes -/

theorem logV_eq_logMag : ∀ i < 31, logV ((i : Nat) - 15) = logMag (i - 15) := by decide
theorem logV_eq {m : Int} (h1 : -15 ≤ m) (h2 : m ≤ 15) : logV m = logMag m := by
  have h := logV_eq_logMag (m + 15).toNat (by omega)
  rwa [show (((m + 15).toNat : Nat) : Int) - 15 = m by omega] at h

theorem logMag_lt_next : ∀ i < 31, logMag ((i : Nat) - 16) < logMag (i - 15) := by decide

/-- V(m) rises with m, from the zero code on. -/
theorem logMag_lt {j m : Int} (hj : -16 ≤ j) (hm : m ≤ 15) (h : j < m) : logMag j < logMag m := by
  obtain ⟨n, rfl⟩ : ∃ n : Nat, m = j + 1 + n := ⟨(m - j - 1).toNat, by omega⟩
  induction n with
  | zero =>
    have h := logMag_lt_next (j + 16).toNat (by omega)
    rwa [show (((j + 16).toNat : Nat) : Int) - 16 = j by omega, show (((j + 16).toNat : Nat) : Int) - 15 = j + 1 + (0 : Nat) by omega] at h
  | succ n ih =>
    refine (ih (by omega) (by omega)).trans ?_
    have h := logMag_lt_next (j + 1 + n + 16).toNat (by omega)
    rwa [show (((j + 1 + n + 16).toNat : Nat) : Int) - 16 = j + 1 + n by omega,
      show (((j + 1 + n + 16).toNat : Nat) : Int) - 15 = j + 1 + (n + 1 : Nat) by omega] at h

theorem logMag_le {j m : Int} (hj : -16 ≤ j) (hm : m ≤ 15) (h : j ≤ m) : logMag j ≤ logMag m := by
  rcases h.lt_or_eq with h | rfl
  · exact (logMag_lt hj hm h).le
  · rfl

/-! ## Comparing scaled numbers -/

theorem compare_mul {k : Nat} (hk : 0 < k) (a b : Nat) : compare (a * k) (b * k) = compare a b := by
  have h : StrictMono (· * k) := fun _ _ h => Nat.mul_lt_mul_of_pos_right h hk
  simpa only [cmp_eq_compare] using h.cmp_map_eq a b

/-- The comparison of R102, at any common scale. -/
theorem cmpScaled_eq {m n : Nat} {e d w : Int} (he : w ≤ e) (hd : w ≤ d) :
    cmpScaled m e n d = compare (m * 2 ^ (e - w).toNat) (n * 2 ^ (d - w).toNat) := by
  unfold cmpScaled
  split
  · rw [show (e - w).toNat = (e - d).toNat + (d - w).toNat by omega, Nat.pow_add, ← Nat.mul_assoc, compare_mul (Nat.two_pow_pos _)]
  · rw [show (d - w).toNat = (d - e).toNat + (e - w).toNat by omega, Nat.pow_add, ← Nat.mul_assoc, compare_mul (Nat.two_pow_pos _)]

/-! ## The nearest code (R102) -/

/-- The fold of R102 over the codes from −15: it keeps what it has while p holds, and else takes the code. -/
def lastTaken (p : Int → Bool) (n : Nat) : Int :=
  (List.range n).foldl (fun acc (i : Nat) => if p ((i : Int) - 15) = true then acc else (i : Int) - 15) (-16)

theorem lastTaken_succ (p : Int → Bool) (n : Nat) :
    lastTaken p (n + 1) = if p ((n : Int) - 15) = true then lastTaken p n else (n : Int) - 15 := by
  unfold lastTaken
  rw [List.range_succ, List.foldl_append]
  rfl

/-- It ends with the last code that it takes, or with −16 if it takes none. -/
theorem lastTaken_spec (p : Int → Bool) (n : Nat) :
    (-16 ≤ lastTaken p n ∧ lastTaken p n < (n : Int) - 15) ∧ (-16 < lastTaken p n → p (lastTaken p n) = false) ∧
      ∀ j, lastTaken p n < j → j < (n : Int) - 15 → p j = true := by
  induction n with
  | zero => exact ⟨by simp [lastTaken], fun h => absurd h (by simp [lastTaken]), fun j h1 h2 => by simp [lastTaken] at h1 h2; omega⟩
  | succ n ih =>
    obtain ⟨hbound, htook, hkept⟩ := ih
    rw [lastTaken_succ]
    generalize lastTaken p n = r at *
    by_cases hp : p ((n : Int) - 15) = true
    · rw [if_pos hp]
      refine ⟨by omega, htook, fun j h1 h2 => ?_⟩
      by_cases hj : j = (n : Int) - 15
      · rw [hj, hp]
      · exact hkept j h1 (by omega)
    · rw [if_neg hp]
      exact ⟨by omega, fun _ => Bool.eq_false_iff.2 hp, fun j h1 h2 => by omega⟩

section
variable {x : Nat} {e w : Int}

/-- The magnitude of the operand in units of 2^w. -/
def scaled (x : Nat) (e w : Int) : Nat := x * 2 ^ (e - w).toNat
/-- V(m) in units of 2^w. -/
def logUnits (w m : Int) : Nat := logMag m * 2 ^ (-19 - w).toNat

theorem logUnits_lt {j m : Int} (hj : -16 ≤ j) (hm : m ≤ 15) (h : j < m) : logUnits w j < logUnits w m :=
  Nat.mul_lt_mul_of_pos_right (logMag_lt hj hm h) (Nat.two_pow_pos _)
theorem logUnits_le {j m : Int} (hj : -16 ≤ j) (hm : m ≤ 15) (h : j ≤ m) : logUnits w j ≤ logUnits w m :=
  Nat.mul_le_mul_right _ (logMag_le hj hm h)
theorem logUnits_zero (w : Int) : logUnits w (-16) = 0 := Nat.zero_mul _

/-- The magnitude of the operand against V(m). -/
theorem cmpScaled_logV (he : w ≤ e) (hw : w ≤ -20) {m : Int} (h1 : -15 ≤ m) (h2 : m ≤ 15) :
    cmpScaled x e (logV m) (-19) = compare (scaled x e w) (logUnits w m) := by
  rw [logV_eq h1 h2, cmpScaled_eq he (by omega)]; rfl

/-- The magnitude of the operand against the middle of two neighbours, the zero code being the lower one of V(−15). -/
theorem cmpScaled_mid (he : w ≤ e) (hw : w ≤ -20) {m : Int} (h1 : -15 ≤ m) (h2 : m ≤ 15) :
    cmpScaled x e (if m = -15 then logV m else logV (m - 1) + logV m) (-20) =
      compare (2 * scaled x e w) (logUnits w (m - 1) + logUnits w m) := by
  have hmid : (if m = -15 then logV m else logV (m - 1) + logV m) = logMag (m - 1) + logMag m := by
    split
    · rename_i h; subst h; rfl
    · rw [logV_eq h1 h2, logV_eq (m := m - 1) (by omega) (by omega)]
  have hunit : ∀ a : Nat, a * 2 ^ (-20 - w).toNat * 2 = a * 2 ^ (-19 - w).toNat := fun a => by
    rw [Nat.mul_assoc, ← Nat.pow_succ, Nat.succ_eq_add_one, show (-20 - w).toNat + 1 = (-19 - w).toNat by omega]
  rw [hmid, cmpScaled_eq he hw, ← compare_mul (k := 2) (by decide), hunit, Nat.add_mul, Nat.mul_comm _ 2]
  rfl

/-- The fold keeps a lower code at m: the operand is below V(m), or to nearest below the middle of V(m − 1) and V(m), or there with m the odd one. -/
def staysBelow (rz : Bool) (X : Nat) (w m : Int) : Bool :=
  if rz = true then decide (X < logUnits w m)
  else decide (2 * X < logUnits w (m - 1) + logUnits w m ∨ (2 * X = logUnits w (m - 1) + logUnits w m ∧ (m = -15 ∨ m % 2 ≠ 0)))

theorem logNearest_eq (rz : Bool) (he : w ≤ e) (hw : w ≤ -20) : logNearest rz x e = lastTaken (staysBelow rz (scaled x e w) w) 31 := by
  unfold logNearest lastTaken
  rw [bind_pure_comp, List.map_eq_map, List.foldl_map]
  refine List.foldl_ext _ _ _ fun acc i hi => ?_
  rw [List.mem_range] at hi
  have h0 : (i : Int) = 0 ↔ (i : Int) - 15 = -15 := by omega
  have h1 : -15 ≤ (i : Int) - 15 := by omega
  have h2 : (i : Int) - 15 ≤ 15 := by omega
  dsimp only
  simp only [h0, ne_eq]
  generalize (i : Int) - 15 = k at *
  unfold staysBelow
  cases rz
  · rw [cmpScaled_mid he hw h1 h2]
    rcases Nat.lt_trichotomy (2 * scaled x e w) (logUnits w (k - 1) + logUnits w k) with h | h | h
    · simp [Nat.compare_eq_lt.2 h, h]
    · rw [Nat.compare_eq_eq.2 h]
      change (if k ≠ -15 ∧ k % 2 = 0 then k else acc) = _
      by_cases heven : k ≠ -15 ∧ k % 2 = 0
      · rw [if_pos heven, if_neg]
        simp only [Bool.false_eq_true, if_false, decide_eq_true_eq]
        omega
      · rw [if_neg heven, if_pos]
        simp only [Bool.false_eq_true, if_false, decide_eq_true_eq]
        omega
    · simp [Nat.compare_eq_gt.2 h, Nat.lt_asymm h, h.ne']
  · rw [cmpScaled_logV he hw h1 h2]
    simp [Nat.compare_eq_lt]

/-- Under `rz` the code found is the greatest not above the operand. -/
theorem logNearest_floor (he : w ≤ e) (hw : w ≤ -20) {m : Int} (hm : logNearest true x e = m) :
    logUnits w m ≤ scaled x e w ∧ ∀ j, -16 ≤ j → j ≤ 15 → logUnits w j ≤ scaled x e w → logUnits w j ≤ logUnits w m := by
  obtain ⟨⟨h1, h2⟩, htook, hkept⟩ := lastTaken_spec (staysBelow true (scaled x e w) w) 31
  rw [← logNearest_eq true he hw, hm] at h1 h2 htook hkept
  simp only [staysBelow, if_true, decide_eq_true_eq, decide_eq_false_iff_not, Nat.not_lt] at htook hkept
  refine ⟨?_, fun j hj hj' hle => ?_⟩
  · rcases h1.lt_or_eq with h | h
    · exact htook h
    · rw [← h, logUnits_zero]; exact Nat.zero_le _
  · refine logUnits_le hj (by omega) (Int.not_lt.1 fun h => ?_)
    exact Nat.not_lt.2 hle (hkept j h (by omega))

/-- To nearest the code found is nearest to the operand, and of two that are, the even one. -/
theorem logNearest_nearest (he : w ≤ e) (hw : w ≤ -20) {m : Int} (hm : logNearest false x e = m) {j : Int} (hj : -16 ≤ j) (hj' : j ≤ 15)
    (hne : j ≠ m) :
    ((scaled x e w : Int) - logUnits w m).natAbs ≤ ((scaled x e w : Int) - logUnits w j).natAbs ∧
      (((scaled x e w : Int) - logUnits w m).natAbs = ((scaled x e w : Int) - logUnits w j).natAbs → m % 2 = 0) := by
  obtain ⟨⟨h1, h2⟩, htook, hkept⟩ := lastTaken_spec (staysBelow false (scaled x e w) w) 31
  rw [← logNearest_eq false he hw, hm] at h1 h2 htook hkept
  simp only [staysBelow, Bool.false_eq_true, if_false, decide_eq_true_eq, decide_eq_false_iff_not] at htook hkept
  rcases Int.lt_or_gt_of_ne hne with h | h
  · have hmid := htook (by omega)
    have hnext := logUnits_le (w := w) hj (by omega) (show j ≤ m - 1 by omega)
    have hlt := logUnits_lt (w := w) hj (by omega) h
    omega
  · have hmid := hkept (m + 1) (by omega) (by omega)
    rw [Int.add_sub_cancel] at hmid
    have hnext := logUnits_le (w := w) (show -16 ≤ m + 1 by omega) hj' (show m + 1 ≤ j by omega)
    have hlt := logUnits_lt (w := w) h1 hj' h
    omega

/-! ## The rounding (R102) -/

/-- R102: the threshold of an overflow, V(15) under `rz`. -/
def beyondLog (rz : Bool) (x : Nat) (e w : Int) : Prop :=
  if rz = true then logUnits w 15 < scaled x e w else ¬AtMost x e 118986 (-13) ∨ SameValue x e 118986 (-13)

theorem beyondLog_iff (rz : Bool) (he : w ≤ e) (hw : w ≤ -20) :
    (if rz = true then cmpScaled x e (logV 15) (-19) = .gt else cmpScaled x e 118986 (-13) ≠ .lt) ↔ beyondLog rz x e w := by
  unfold beyondLog
  cases rz
  · rw [if_neg Bool.false_ne_true, if_neg Bool.false_ne_true, cmpScaled_eq (min_le_left e (-13)) (min_le_right e (-13)), ne_eq,
      Nat.compare_eq_lt, AtMost, SameValue]
    norm_cast
    omega
  · rw [if_pos rfl, if_pos rfl, cmpScaled_logV he hw (by decide) (by decide), Nat.compare_eq_gt]

theorem logCode_eq_logPattern {m : Int} (h : m ≠ -16) (neg : Bool) : logCode neg m = logPattern neg m := by
  unfold logPattern logCode
  rw [if_neg h, toBits_eq]
  rfl

/-- Below the threshold: the pattern and the flags of the code found. -/
theorem logRound_within (rz sat neg : Bool) (hx : 0 < x) (he : w ≤ e) (hw : w ≤ -20) (hb : ¬beyondLog rz x e w) {m : Int}
    (hm : logNearest rz x e = m) (h1 : -16 ≤ m) (h2 : m ≤ 15) :
    logRound rz sat neg x e =
      (logPattern neg m, if m = -16 then flUf ||| flNx else if logUnits w m = scaled x e w then 0 else flNx) := by
  unfold logRound
  rw [if_neg hx.ne']
  dsimp only
  rw [if_neg (mt (beyondLog_iff rz he hw).1 hb), hm]
  by_cases h : m = -16
  · subst h; rfl
  · rw [if_neg h, if_neg h, logCode_eq_logPattern h, cmpScaled_logV he hw (by omega) h2]
    exact Prod.ext rfl ((flIf_decide_not ..).trans (if_congr (by rw [Nat.compare_eq_eq, eq_comm]) rfl rfl))

/-- Beyond it: an overflow. -/
theorem logRound_beyond (rz sat neg : Bool) (hx : 0 < x) (he : w ≤ e) (hw : w ≤ -20) (hb : beyondLog rz x e w) :
    logRound rz sat neg x e = if sat = true then (0x0F + (if neg = true then 32 else 0), flOf ||| flNx ||| flSat)
      else if rz = true then (0x0F + (if neg = true then 32 else 0), flOf ||| flNx) else (0x30, flNv ||| flOf ||| flNx) := by
  unfold logRound
  rw [if_neg hx.ne']
  dsimp only
  rw [if_pos ((beyondLog_iff rz he hw).2 hb), logCode_top]

end

theorem logRoundsRight : LogRoundsRight := by
  intro rz sat neg x e hx r w at_ v beyond
  have he : w ≤ e := min_le_left ..
  have hw : w ≤ -20 := min_le_right ..
  have hat : at_ = (scaled x e w : Nat) := by unfold scaled; push_cast; rfl
  have hv : ∀ m, v m = (logUnits w m : Nat) := fun m => by unfold logUnits; push_cast; rfl
  have hbeyond : beyond ↔ beyondLog rz x e w := by
    simp only [beyond, beyondLog, hv, hat, Nat.cast_lt]
  rw [hbeyond]
  refine ⟨logRound_beyond rz sat neg hx he hw, fun hb => ?_⟩
  obtain ⟨⟨h1, h2⟩, -, -⟩ := lastTaken_spec (staysBelow rz (scaled x e w) w) 31
  rw [← logNearest_eq rz he hw] at h1 h2
  have hr : r = _ := logRound_within rz sat neg hx he hw hb rfl h1 (by omega)
  simp only [hv, hat, Nat.cast_inj, Nat.cast_le]
  refine ⟨logNearest rz x e, h1, by omega, by rw [hr], by rw [hr], ?_, ?_⟩
  · rintro rfl
    exact logNearest_floor he hw rfl
  · rintro rfl j hj hj' hne
    exact logNearest_nearest he hw rfl hj hj' hne

end Sys2Proof.Formats

/-!
Conversions, float sums and dot products of the vector instructions: what each leaves (R120, R127 to R130).
-/
namespace Sys2Proof.Formats
open Sys2Proof Sys2Proof.Machine Sys2Proof.Claims Sys2Proof.Scalar

variable {s : State}

/-! ## Enabled elements and their flags (R94, R114) -/

theorem mask_testBit_en (s : State) (m : Reg) {j : Nat} (h : j < 32) : (s.mask m).testBit j = en s m j := s.mask_testBit m h

theorem onMask_onLanes {α : Type} (s : State) (m : Reg) {n : Nat} (hn : n ≤ 32) (f : Nat → α) : onMask (s.mask m) n f = onLanes s m n f := by
  unfold onMask onLanes
  refine List.map_congr_left fun j hj => ?_
  rw [mask_testBit_en s m (by have := List.mem_range.1 hj; omega)]

theorem onLanes_congr {α : Type} {m : Reg} {n : Nat} {f g : Nat → α} (h : ∀ j < n, f j = g j) : onLanes s m n f = onLanes s m n g :=
  List.map_congr_left fun j hj => by rw [h j (List.mem_range.1 hj)]

theorem onLanes_getD {α : Type} (s : State) (m : Reg) (n j : Nat) (f : Nat → α) :
    (onLanes s m n f).getD j none = if j < n ∧ en s m j = true then some (f j) else none := by
  unfold onLanes
  by_cases h : j < n <;> simp [List.getD, h]

theorem flagsOf_union (s : State) (m : Reg) {n : Nat} (hn : n ≤ 32) (f : Nat → Nat × Fl) :
    FlagsUnion s m n (fun j => (f j).2) (flagsOf (onLanes s m n f)) := by
  intro i
  rw [← onMask_onLanes s m hn, flagsOf_onMask]
  refine exists_congr fun j => and_congr_right fun hj => ?_
  rw [mask_testBit_en s m (by omega)]

theorem laneAt_vreg (s : State) (r : VReg) {j : Nat} (h : j < 32) : laneAt (s.vreg r) j = (ln s r j).toNat := by
  unfold laneAt; rw [vreg_getD s r h]; rfl

/-! ## Results that are written, or not -/

theorem vecOp_passes {i : Instr} {vd vs : List VReg} {gs : List Reg} (body : State → State) (h : Passes s .user true vd vs gs none) :
    vecOp i vd vs gs none s body = .next (body s) := State.issue_passes _ h

/-- The pop of R62 is at another core. -/
theorem core_take_own (s : State) (srcs : List Reg) : (s.take srcs).core s.curCore = s.core s.curCore := by
  unfold State.take
  split
  · unfold State.chainPop State.setChain
    rw [State.core_modCore_ne]
    exact fun e => upstream_ne s.curCore e.symm
  · rfl

/-- A vector instruction that writes no lane: flags set, operands taken, next word. -/
theorem flags_vwrote (s : State) (srcs : List Reg) (d : VReg) (fl : BitVec 5) :
    VWrote s (((s.modMe (·.orFst fl)).take srcs).advance) srcs d (fun _ => none) fl := by
  have hw := (s.modMe (·.orFst fl)).take_advance srcs
  have hpop : (s.modMe (·.orFst fl)).pops srcs = s.pops srcs := State.pops_modMe (hf := rfl) ..
  have hown : (((s.modMe (·.orFst fl)).take srcs).advance).core s.curCore = s.core s.curCore := by
    rw [State.advance, State.core_modMe]; exact core_take_own (s.modMe (·.orFst fl)) srcs
  have hadv := Slot.advance_congr (x := s.me.orFst fl) (y := s.me) rfl rfl
  obtain ⟨hpc, hrest, hqueue, hslots, hlatch, hparts, -⟩ := hw
  generalize ((s.modMe (·.orFst fl)).take srcs).advance = t at *
  rw [State.me_modMe] at hpc hrest
  refine ⟨fun n _ => by rw [hown]; rfl, fun r n _ _ => by rw [hown], fun r => ?_, ?_, fun c k => ?_, fun c k o => ?_, by rw [hown],
    fun c hc => ?_, hparts.1⟩
  · rw [hown]
    exact (and_iff_left fun h => Bool.false_ne_true (h.2 0 (by decide))).symm
  · rw [hrest, hpc.1, hpc.2, hadv.1, hadv.2, Slot.advance_pcsw s.me]; rfl
  · rw [← hpop]; exact hqueue c k
  · rw [hslots c k o, State.slot_modMe_other _ o]
  · have hshape := hparts.2 c
    rw [hlatch c] at hshape
    exact hshape

/-- A vector instruction that writes some lanes, but not every one. -/
theorem partial_vwrote (s : State) (srcs : List Reg) (d : VReg) {l : List Lane} {lanes : Nat → Option Lane} (fl : BitVec 5) (hlen : l.length = 32)
    (hl : ∀ n < 32, l.getD n 0 = (lanes n).getD (ln s d n)) (hnone : ∃ n < 32, lanes n = none) :
    VWrote s ((((s.setVreg d false l).modMe (·.orFst fl)).take srcs).advance) srcs d lanes fl := by
  refine State.vec_wrote s srcs d false l lanes fl hlen hl ⟨fun h => absurd h Bool.false_ne_true, fun h => ?_⟩
  obtain ⟨n, hn, hno⟩ := hnone
  have := h n hn
  rw [hno] at this
  exact this

theorem map_range_getD (f : Nat → Lane) {n : Nat} (h : n < 32) : ((List.range 32).map f).getD n 0 = f n := by
  simp [List.getD, h]

/-- A row holds of an instruction in a state. -/
def RowGives (s : State) (i : Instr) (r : VRow) : Prop :=
  ∃ u fl, exec i s = .next u ∧ r.flags s fl ∧ VWrote s u r.srcs r.d (r.lanes s) fl

theorem rowGives_of_body {i : Instr} {r : VRow} {body : State → State} {fl : Fl} (he : exec i s = vecOp i r.vdst r.vsrc r.srcs none s body)
    (h : Passes s .user true r.vdst r.vsrc r.srcs none) (hf : r.flags s fl) (hw : VWrote s (body s) r.srcs r.d (r.lanes s) fl) :
    RowGives s i r := ⟨_, fl, he.trans (vecOp_passes body h), hf, hw⟩

/-! ## Conversions (R127) -/

/-- The element that lane k of a register belongs to. -/
def indexOf (ty : ETy) (k : Nat) : Nat := if ty = .i64 then k / 2 else k

/-- The enabled of the first n elements take values, and the lanes of the others stay. -/
theorem merged_vwrote (s : State) (ty : ETy) (d : VReg) (m : Reg) {n : Nat} (hn : n ≤ 32) {whole : Bool} (f : Nat → Nat × Fl)
    (hw : whole = true ↔ ∀ k < 32, indexOf ty k < n ∧ en s m (indexOf ty k) = true) :
    let res := onMask (s.mask m) n f
    VWrote s ((((s.setVreg d whole (mergeElems ty (s.vreg d) (valsOf res))).modMe (·.orFst (flagsOf res))).take (maskSrc m)).advance)
      (maskSrc m) d (fun k => if indexOf ty k < n ∧ en s m (indexOf ty k) = true then some (elemLane ty (f (indexOf ty k)).1 k) else none)
      (flagsOf res) := by
  refine State.vec_wrote s (maskSrc m) d whole _ _ _ (mergeElems_length ..) (fun k hk => ?_) (hw.trans ?_)
  · rw [mergeElems_getD _ _ _ hk, valsOf_onMask, onMask_onLanes s m hn, ← indexOf, onLanes_getD, vreg_getD s d hk]
    by_cases h : indexOf ty k < n ∧ en s m (indexOf ty k) = true <;> simp [h]
  · refine forall₂_congr fun k _ => ?_
    by_cases h : indexOf ty k < n ∧ en s m (indexOf ty k) = true <;> simp [h]

section
variable {ts td : ETy} {n : Nat}

/-- With one `.i64` side 16 elements are converted: those that lane k of the destination takes part in. -/
theorem index_converted (hn : n = if ts = .i64 ∨ td = .i64 then 16 else 32) {k : Nat} (hk : k < 32) :
    indexOf td k < n ↔ (ts = .i64 → indexOf td k < 16) := by
  rw [hn]
  unfold indexOf
  by_cases h1 : ts = .i64
  · simp [h1]
  · by_cases h2 : td = .i64
    · simp [h1, h2]; omega
    · simp [h1, h2, hk]

/-- Every lane is written if all elements are enabled and there is one for each lane. -/
theorem all_converted (hn : n = if ts = .i64 ∨ td = .i64 then 16 else 32) (m : Reg) (f : Nat → Nat × Fl) :
    ((onMask (s.mask m) n f).all Option.isSome && (decide (n = 32) || decide (td = .i64))) = true ↔
      ∀ k < 32, indexOf td k < n ∧ en s m (indexOf td k) = true := by
  have hn32 : n ≤ 32 := by rw [hn]; split <;> decide
  rw [Bool.and_eq_true, Bool.or_eq_true, decide_eq_true_eq, decide_eq_true_eq, onMask_all]
  unfold indexOf
  constructor
  · rintro ⟨hall, hcover⟩ k hk
    have hidx : (if td = .i64 then k / 2 else k) < n := by
      have h16 : 16 ≤ n := by rw [hn]; split <;> decide
      rcases hcover with h | h
      · rw [h]; split <;> omega
      · rw [if_pos h]; omega
    exact ⟨hidx, (mask_testBit_en s m (by omega)).symm.trans (hall _ hidx)⟩
  · intro hall
    by_cases h2 : td = .i64
    · simp only [h2, or_true, if_true] at hn hall ⊢
      refine ⟨fun j hj => ?_, trivial⟩
      have := (hall (2 * j) (by omega)).2
      rwa [Nat.mul_div_cancel_left j (by decide), ← mask_testBit_en s m (by omega)] at this
    · simp only [h2, if_false, or_false] at hn hall ⊢
      have h31 := (hall 31 (by decide)).1
      refine ⟨fun j hj => (mask_testBit_en s m (by omega)).trans (hall j (by omega)).2, ?_⟩
      split at hn <;> omega

end

theorem vcvt_gives {d a : VReg} {sat rz : BitVec 1} {src m dst : BitVec 4} {r : VRow} (hr : vecMixRow (.vcvt d a sat rz src m dst) = some r)
    (h : Passes s .user true r.vdst r.vsrc r.srcs none) : RowGives s (.vcvt d a sat rz src m dst) r := by
  cases hr
  have hn32 : (if ETy.ofCode src.toNat = .i64 ∨ ETy.ofCode dst.toNat = .i64 then 16 else 32) ≤ 32 := by split <;> decide
  refine rowGives_of_body (show execVcvt d a sat rz src m dst s = _ from rfl) h (flagsOf_union s m hn32 _) ?_
  rw [← onMask_onLanes s m hn32]
  refine (merged_vwrote s (ETy.ofCode dst.toNat) d m hn32 _ (all_converted rfl m _)).congr fun k hk => ?_
  exact if_congr (and_congr_left' (index_converted rfl hk).symm) rfl rfl

/-! ## Float sums (R120) -/

/-- The sum goes to every element, whatever the mask. -/
theorem spread_vwrote (s : State) (ty : ETy) (d : VReg) (m : Reg) (v : Nat × Fl) :
    VWrote s (s.spread ty d m v) (maskSrc m) d (fun k => some (elemLane ty v.1 k)) v.2 := by
  refine State.vec_wrote s (maskSrc m) d true _ _ _ (mergeElems_length ..) (fun k hk => ?_) (by simp)
  have hidx : (if ty = .i64 then k / 2 else k) < 32 := by split <;> omega
  have hval : (List.replicate 32 (some v.1)).getD (if ty = .i64 then k / 2 else k) none = some v.1 := by
    rw [List.getD_replicate _ hidx]
  rw [mergeElems_getD _ _ _ hk, hval]
  rfl

theorem vredF_gives {t : BitVec 2} {d a : VReg} {m : Reg} {r : VRow} (hr : vecMixRow (.vredF t d a m) = some r)
    (h : Passes s .user true r.vdst r.vsrc r.srcs none) : RowGives s (.vredF t d a m) r := by
  cases hr
  refine rowGives_of_body (show execVredF t d a m s = _ from rfl) h rfl ?_
  have hw := spread_vwrote s (floatTy t) d m (floatSum (floatTy t) (onMask (s.mask m) 32 fun j => widen (floatTy t) (eu s (floatTy t) a j)))
  rw [onMask_onLanes s m (Nat.le_refl 32)] at hw
  exact onMask_onLanes s m (Nat.le_refl 32) _ ▸ hw

/-! ## Operands of the dot products (Table 6.7) -/

theorem dotScales_eq (s : State) (c : Reg) (eb : Int) : dotScales s c eb = scales s c eb := by
  unfold dotScales scales
  split
  · rfl
  · have hebase : ((s.src c).extractLsb' 16 16).toNat = bits (s.src c) 16 16 := by
      rw [BitVec.extractLsb'_toNat, Nat.shiftRight_eq_div_pow]; rfl
    have hca : bits (s.src c) 0 8 = un s c % 256 := by unfold bits un; rw [Nat.pow_zero, Nat.div_one]; rfl
    rw [hca, ← hebase, toSigned_toNat _ (by decide)]
    rfl

/-! ## The integer path (R129) -/

/-- What a position adds to the accumulator: the value of its term, and nothing where it is disabled or the term is INVALID. -/
def addend : Option Term → Int
  | some (.val v _) => v
  | _ => 0

theorem sumTerms_append (l : List (Option Term)) (x : Option Term) : sumTerms (l ++ [x]) =
    match x with
    | none => sumTerms l
    | some .invalid => ((sumTerms l).1, true, (sumTerms l).2.2)
    | some (.val v r) => ((sumTerms l).1 + v, (sumTerms l).2.1, (sumTerms l).2.2 || r) := by
  unfold sumTerms
  rw [List.foldl_append]
  rfl

/-- R129: the terms' sum, whether one is INVALID, and whether one raises its range flag. -/
theorem sumTerms_spec (l : List (Option Term)) :
    (sumTerms l).1 = (l.map addend).sum ∧ ((sumTerms l).2.1 = true ↔ some Term.invalid ∈ l) ∧
      ((sumTerms l).2.2 = true ↔ ∃ v, some (Term.val v true) ∈ l) := by
  induction l using List.reverseRecOn with
  | nil => simp [sumTerms]
  | append_singleton l x ih =>
    obtain ⟨hsum, hmark, hrange⟩ := ih
    rw [sumTerms_append]
    rcases x with - | (- | ⟨v, r⟩)
    · simp [hsum, hmark, hrange, addend]
    · simp [hsum, hrange, addend]
    · cases r <;> simp [hsum, hmark, hrange, addend]

/-- The terms of the enabled lanes. -/
def dotTerms (s : State) (a b : VReg) (m c : Reg) (w : Nat) (eb : Int) (term : Nat → Nat → Nat → Nat → Int → Term) : List (Option Term) :=
  onLanes s m 32 (fun j => term ((ln s a j).toNat % 2 ^ w) ((ln s b j).toNat % 2 ^ w) (scales s c eb).1 (scales s c eb).2.1 (scales s c eb).2.2)

theorem onMask_dotTerms (s : State) (a b : VReg) (m c : Reg) (w : Nat) (eb : Int) (term : Nat → Nat → Nat → Nat → Int → Term) :
    onMask (s.mask m) 32 (fun j => term (laneAt (s.vreg a) j % 2 ^ w) (laneAt (s.vreg b) j % 2 ^ w)
      (dotScales s c eb).1 (dotScales s c eb).2.1 (dotScales s c eb).2.2) = dotTerms s a b m c w eb term := by
  rw [onMask_onLanes s m (Nat.le_refl 32), dotScales_eq]
  refine onLanes_congr fun j hj => ?_
  rw [laneAt_vreg s a hj, laneAt_vreg s b hj]

/-- The accumulator stands in lanes 0 and 1. -/
theorem accumulator_eq (s : State) (d : VReg) :
    toSigned 64 (laneAt (s.vreg d) 0 + 2 ^ 32 * laneAt (s.vreg d) 1) = (ln s d 1 ++ ln s d 0).toInt := by
  rw [laneAt_vreg s d (by decide), laneAt_vreg s d (by decide), ← toSigned_toNat _ (by decide), BitVec.toNat_append,
    ← Nat.shiftLeft_add_eq_or_of_lt (ln s d 0).isLt, Nat.shiftLeft_eq]
  congr 1; omega

theorem ofNat_toBits_low (v : Int) : BitVec.ofNat 32 (toBits 64 v) = (BitVec.ofInt 64 v).truncate 32 := by
  apply BitVec.eq_of_toNat_eq
  rw [BitVec.truncate_eq_setWidth, BitVec.toNat_setWidth, BitVec.toNat_ofInt, BitVec.toNat_ofNat]; rfl
theorem ofNat_toBits_high (v : Int) : BitVec.ofNat 32 (toBits 64 v / 2 ^ 32) = (BitVec.ofInt 64 v).extractLsb' 32 32 := by
  apply BitVec.eq_of_toNat_eq
  rw [BitVec.extractLsb'_toNat, BitVec.toNat_ofInt, BitVec.toNat_ofNat, Nat.shiftRight_eq_div_pow]; rfl

/-- Lanes 0 to 2 of d take an accumulator and its mark; flags set, operands taken, next word. -/
def storeAccumulator (t : State) (srcs : List Reg) (d : VReg) (acc : Int) (mark : Bool) (fl : Fl) : State :=
  (((t.setVreg d false ((List.range 32).map (fun n =>
    if n = 0 then BitVec.ofNat 32 (toBits 64 acc) else if n = 1 then BitVec.ofNat 32 (toBits 64 acc / 2 ^ 32)
    else if n = 2 then BitVec.ofNat 32 (if mark then 1 else 0) else (t.vreg d).getD n 0))).modMe (·.orFst fl)).take srcs).advance

theorem storeAccumulator_vwrote (s : State) (srcs : List Reg) (d : VReg) (acc : Int) (mark : Bool) (fl : Fl) :
    VWrote s (storeAccumulator s srcs d acc mark fl) srcs d (fun n =>
      if n = 0 then some ((BitVec.ofInt 64 acc).truncate 32) else if n = 1 then some ((BitVec.ofInt 64 acc).extractLsb' 32 32)
      else if n = 2 then some (if mark = true then 1 else 0) else none) fl := by
  refine partial_vwrote s srcs d fl (by simp) (fun n hn => ?_) ⟨31, by decide, rfl⟩
  rw [map_range_getD _ hn, ofNat_toBits_low, ofNat_toBits_high, vreg_getD s d hn]
  by_cases h0 : n = 0
  · simp [h0]
  by_cases h1 : n = 1
  · simp [h1]
  by_cases h2 : n = 2
  · subst h2; cases mark <;> rfl
  · simp only [h0, h1, h2, if_false]; rfl

/-- R129: the accumulator after the terms of a dot product. -/
def dotTotal (s : State) (d : VReg) (l : List (Option Term)) : Int := (ln s d 1 ++ ln s d 0).toInt + (sumTerms l).1

/-- R129: a range flag, or an accumulator beyond 64 bits. -/
def dotRange (s : State) (d : VReg) (l : List (Option Term)) : Bool :=
  (sumTerms l).2.2 || (decide (dotTotal s d l < -(2 ^ 63)) || decide (2 ^ 63 ≤ dotTotal s d l))

theorem dotTotal_eq (s : State) (d : VReg) (l : List (Option Term)) : dotTotal s d l = (ln s d 1 ++ ln s d 0).toInt + (l.map addend).sum := by
  rw [dotTotal, (sumTerms_spec l).1]
theorem dotRange_iff (s : State) (d : VReg) (l : List (Option Term)) :
    dotRange s d l = true ↔ (∃ v, some (Term.val v true) ∈ l) ∨ dotTotal s d l < -(2 ^ 63) ∨ 2 ^ 63 ≤ dotTotal s d l := by
  obtain ⟨-, -, hrange⟩ := sumTerms_spec l
  rw [dotRange, Bool.or_eq_true, Bool.or_eq_true, decide_eq_true_eq, decide_eq_true_eq, hrange]

theorem dotInt_eq (i : Instr) (d a b : VReg) (m c : Reg) (w : Nat) (eb : Int) (term : Nat → Nat → Nat → Nat → Int → Term) (s : State) :
    dotInt i d a b m c w eb term s = vecOp i [] [d, a, b] (maskSrc m ++ maskSrc c) none s (fun t =>
      let l := dotTerms t a b m c w eb term
      storeAccumulator t (maskSrc m ++ maskSrc c) d (dotTotal t d l) ((sumTerms l).2.1 || decide (laneAt (t.vreg d) 2 ≠ 0))
        (flIf (dotRange t d l) flOf)) := by
  simp only [← onMask_dotTerms, dotRange, dotTotal, ← accumulator_eq]
  rfl

theorem flIf_iff {b : Bool} {p : Prop} (h : b = true ↔ p) (fl : Fl) : (p → flIf b fl = fl) ∧ (¬p → flIf b fl = 0) :=
  ⟨fun hp => if_pos (h.2 hp), fun hp => if_neg (mt h.1 hp)⟩

theorem intDot_gives {i : Instr} {d a b : VReg} {m c : Reg} {w : Nat} {eb : Int} {term : Nat → Nat → Nat → Nat → Int → Term} {r : VRow}
    (hr : intDotRow d a b m c w eb term = some r) (he : exec i s = dotInt i d a b m c w eb term s)
    (h : Passes s .user true r.vdst r.vsrc r.srcs none) : RowGives s i r := by
  cases hr
  have htotal := dotTotal_eq s d (dotTerms s a b m c w eb term)
  have hrange := dotRange_iff s d (dotTerms s a b m c w eb term)
  obtain ⟨-, hmark, -⟩ := sumTerms_spec (dotTerms s a b m c w eb term)
  rw [htotal] at hrange
  refine rowGives_of_body (he.trans (dotInt_eq ..)) h (flIf_iff hrange flOf) ?_
  dsimp only
  rw [htotal]
  refine (storeAccumulator_vwrote ..).congr fun n _ => ?_
  have hlane : laneAt (s.vreg d) 2 ≠ 0 ↔ ln s d 2 ≠ 0 := by
    rw [laneAt_vreg s d (by decide), ne_eq, ne_eq, BitVec.toNat_eq]; rfl
  refine if_congr Iff.rfl rfl (if_congr Iff.rfl rfl (if_congr Iff.rfl (congrArg some (if_congr ?_ rfl rfl)) rfl))
  rw [Bool.or_eq_true, decide_eq_true_eq, hmark, hlane, or_comm]
  rfl

/-! ## The FP32 path (R130) -/

/-- The products of the enabled lanes. -/
def dotProducts (s : State) (a b : VReg) (m c : Reg) (ta tb : ETy) : List (Option (Nat × Fl)) :=
  onLanes s m 32 (fun j => floatProduct ta tb (eu s ta a j) (eu s tb b j) (scales s c 0).1 (scales s c 0).2.1)

theorem onMask_dotProducts (s : State) (a b : VReg) (m c : Reg) (ta tb : ETy) :
    onMask (s.mask m) 32 (fun j => floatProduct ta tb (elem ta (s.vreg a) j) (elem tb (s.vreg b) j) (dotScales s c 0).1 (dotScales s c 0).2.1) =
      dotProducts s a b m c ta tb := by
  rw [onMask_onLanes s m (Nat.le_refl 32), dotScales_eq]
  rfl

/-- Lane 0 of d takes its sum with a slice sum, if there is one; flags set, operands taken, next word. -/
def addSlice (t : State) (srcs : List Reg) (d : VReg) (fl : Fl) : Option Nat → State
  | none => ((t.modMe (·.orFst fl)).take srcs).advance
  | some p => (((t.setVreg d false ((List.range 32).map (fun n =>
      if n = 0 then BitVec.ofNat 32 (fmtF32.add (laneAt (t.vreg d) 0) p).1 else (t.vreg d).getD n 0))).modMe
        (·.orFst (fl ||| (fmtF32.add (laneAt (t.vreg d) 0) p).2))).take srcs).advance

theorem addSlice_vwrote (s : State) (srcs : List Reg) (d : VReg) (fl : Fl) (sum : Option Nat) :
    VWrote s (addSlice s srcs d fl sum) srcs d
      (fun n => if n = 0 then sum.map (fun p => BitVec.ofNat 32 (fmtF32.add (ln s d 0).toNat p).1) else none)
      (fl ||| (sum.map (fun p => (fmtF32.add (ln s d 0).toNat p).2)).getD 0) := by
  rw [← laneAt_vreg s d (by decide)]
  cases sum with
  | none =>
    refine VWrote.congr ?_ (l := fun _ => none) fun n _ => ite_self _
    have hfl : fl ||| 0 = fl := BitVec.or_zero
    rw [Option.map_none, Option.getD_none, hfl]
    exact flags_vwrote ..
  | some p =>
    refine partial_vwrote s srcs d _ (by simp) (fun n hn => ?_) ⟨31, by decide, rfl⟩
    rw [map_range_getD _ hn, vreg_getD s d hn]
    by_cases h0 : n = 0
    · simp [h0]
    · rw [if_neg h0, if_neg h0]; rfl

theorem dotFloat_eq (i : Instr) (d a b : VReg) (m c : Reg) (ta tb : ETy) (s : State) :
    dotFloat i d a b m c ta tb s = vecOp i [] [d, a, b] (maskSrc m ++ maskSrc c) none s (fun t =>
      let l := dotProducts t a b m c ta tb
      addSlice t (maskSrc m ++ maskSrc c) d (flagsOf l ||| (sliceSum (valsOf l)).2) (sliceSum (valsOf l)).1) := by
  simp only [← onMask_dotProducts]
  rfl

theorem floatDot_gives {i : Instr} {d a b : VReg} {m c : Reg} {ta tb : ETy} {r : VRow}
    (hr : floatDotRow d a b m c ta tb = some r) (he : exec i s = dotFloat i d a b m c ta tb s)
    (h : Passes s .user true r.vdst r.vsrc r.srcs none) : RowGives s i r := by
  cases hr
  exact rowGives_of_body (he.trans (dotFloat_eq ..)) h ⟨_, flagsOf_union s m (Nat.le_refl 32) _, rfl⟩ (addSlice_vwrote ..)

/-! ## The table -/

theorem vecMixRow_holds : VRowsHold vecMixRow := by
  intro s i r hr _ h
  cases i
  case vcvt => exact vcvt_gives hr h
  case vredF => exact vredF_gives hr h
  case vdotL6l6 => exact intDot_gives hr rfl h
  case vdotI8i8 => exact intDot_gives hr rfl h
  case vdotL6e4 => exact floatDot_gives hr rfl h
  case vdotE4e4 => exact floatDot_gives hr rfl h
  case vdotE5e5 => exact floatDot_gives hr rfl h
  case vdotBfbf => exact floatDot_gives hr rfl h
  all_goals cases hr

/-- Settles O11: the formats are regular, and each row is what its instruction leaves. -/
theorem conversionsAndDotProductsGiveResults : Obligations.ConversionsAndDotProductsGiveResults := by
  refine ⟨vecMixRow_holds, pairsConvert, logCodesRight, logRoundsRight, fun w hw => integersRight ?_, fun f hf => ?_⟩
  · simp only [List.mem_cons, List.not_mem_nil, or_false] at hw; omega
  · have hreg := regular_of_mem f hf
    exact ⟨hreg.patternsMean, floatsRight hreg, hreg.roundsRight⟩

end Sys2Proof.Formats

/-!
The integer element operations, the lane instructions and the compares of the vector instructions: what each leaves (R117, R119, R120, R126).
-/
namespace Sys2Proof.Vectors
open Sys2Proof Sys2Proof.Machine Sys2Proof.Claims Sys2Proof.Formats

variable {s : State}

/-! ## Integers of w bits (R90) -/

section
variable {w x y : Nat}

theorem toSigned_modEq (w x : Nat) : toSigned w x ≡ x [ZMOD 2 ^ w] := by
  have hx : ((x % 2 ^ w : Nat) : Int) ≡ x [ZMOD 2 ^ w] := by push_cast; exact Int.mod_modEq ..
  unfold toSigned
  dsimp only
  split
  · exact hx
  · exact (Int.modEq_sub_modulus_iff.2 hx.symm).symm

theorem toBits_congr {u v : Int} (h : u ≡ v [ZMOD 2 ^ w]) : toBits w u = toBits w v := by
  rw [toBits_eq, toBits_eq, h]

theorem toBits_natCast (w n : Nat) : toBits w n = n % 2 ^ w := rfl

theorem toBits_of_lt (h : x < 2 ^ w) : toBits w x = x := Nat.mod_eq_of_lt h

theorem toBits_toSigned (h : x < 2 ^ w) : toBits w (toSigned w x) = x :=
  (toBits_congr (toSigned_modEq w x)).trans (toBits_of_lt h)

end

/-! ## The functions of Table 6.2 -/

/-- On numbers of w bits g is the integer F gives, wrapped to w bits. -/
def Computes (w : Nat) (g : Nat → Nat → Nat) (F : Nat → Nat → Int) : Prop := ∀ x < 2 ^ w, ∀ y < 2 ^ w, g x y = toBits w (F x y)

section
variable {w : Nat}

theorem computes_add : Computes w (fun x y => (x + y) % 2 ^ w) (fun x y => toSigned w x + toSigned w y) := by
  intro x _ y _
  dsimp only
  rw [← toBits_natCast, Nat.cast_add]
  exact (toBits_congr ((toSigned_modEq w x).add (toSigned_modEq w y))).symm

theorem computes_sub : Computes w (fun x y => toBits w ((x : Int) - y)) (fun x y => toSigned w x - toSigned w y) :=
  fun x _ y _ => (toBits_congr ((toSigned_modEq w x).sub (toSigned_modEq w y))).symm

theorem computes_mul : Computes w (fun x y => x * y % 2 ^ w) (fun x y => toSigned w x * toSigned w y) := by
  intro x _ y _
  dsimp only
  rw [← toBits_natCast, Nat.cast_mul]
  exact (toBits_congr ((toSigned_modEq w x).mul (toSigned_modEq w y))).symm

theorem computes_min : Computes w (fun x y => if toSigned w y < toSigned w x then y else x) (fun x y => min (toSigned w x) (toSigned w y)) := by
  intro x hx y hy
  dsimp only
  split
  · rename_i h; rw [min_eq_right h.le, toBits_toSigned hy]
  · rename_i h; rw [min_eq_left (not_lt.1 h), toBits_toSigned hx]

theorem computes_max : Computes w (fun x y => if toSigned w x < toSigned w y then y else x) (fun x y => max (toSigned w x) (toSigned w y)) := by
  intro x hx y hy
  dsimp only
  split
  · rename_i h; rw [max_eq_right h.le, toBits_toSigned hy]
  · rename_i h; rw [max_eq_left (not_lt.1 h), toBits_toSigned hx]

theorem computes_minz : Computes w (fun x y => if y < x then y else x) (fun x y => min (x : Int) y) := by
  intro x hx y _
  dsimp only
  rw [← Nat.cast_min, toBits_of_lt (min_lt_of_left_lt hx)]
  split <;> omega

theorem computes_maxz : Computes w (fun x y => if x < y then y else x) (fun x y => max (x : Int) y) := by
  intro x hx y hy
  dsimp only
  rw [← Nat.cast_max, toBits_of_lt (max_lt hx hy)]
  split <;> omega

theorem computes_shl : Computes w (fun x y => x * 2 ^ elemShift w y % 2 ^ w) (fun x y => toSigned w x * 2 ^ (y % w)) := by
  intro x _ y _
  dsimp only
  rw [← toBits_natCast, Nat.cast_mul, Nat.cast_pow]
  exact (toBits_congr ((toSigned_modEq w x).mul_right _)).symm

theorem computes_shr : Computes w (fun x y => x / 2 ^ elemShift w y) (fun x y => (x : Int) / 2 ^ (y % w)) := by
  intro x hx y _
  have hcast : (x : Int) / 2 ^ (y % w) = (x / 2 ^ (y % w) : Nat) := by push_cast; rfl
  dsimp only
  rw [hcast]
  exact (toBits_of_lt (Nat.lt_of_le_of_lt (Nat.div_le_self ..) hx)).symm

theorem computes_sra : Computes w (fun x y => toBits w (toSigned w x / 2 ^ elemShift w y)) (fun x y => toSigned w x / 2 ^ (y % w)) :=
  fun _ _ _ _ => rfl

/-- The saturation of R90 is the model's. -/
theorem intTo_sat (hw : 0 < w) (v : Int) : intTo w true v = clamped w v := by
  have hpos : (0 : Int) < 2 ^ (w - 1) := by positivity
  rw [intTo_eq hw, ← toBits_eq]
  unfold clamped
  by_cases hlo : v < -(2 ^ (w - 1))
  · rw [if_neg (fun h => by omega), if_pos ⟨rfl, hlo⟩, if_pos hlo]; rfl
  · by_cases hhi : 2 ^ (w - 1) ≤ v
    · rw [if_pos ⟨rfl, by omega⟩, if_neg hlo, if_pos hhi]; rfl
    · rw [if_neg (fun h => hhi (by omega)), if_neg (fun h => hlo h.2), if_neg hlo, if_neg hhi]

end

/-! ## Element operations (R114) -/

theorem count_le (ty : ETy) : ty.count ≤ 32 := by
  obtain ⟨-, h⟩ | ⟨-, h⟩ := ty.count_cases <;> omega

/-- An element is a number of its width (Table 6.1). -/
theorem eu_lt (s : State) (ty : ETy) (r : VReg) (j : Nat) : eu s ty r j < 2 ^ ty.width := by
  unfold eu elem
  split
  · rename_i h
    subst h
    have hlow : laneAt (s.vreg r) (2 * j) < 2 ^ 32 := BitVec.isLt _
    have hhigh : laneAt (s.vreg r) (2 * j + 1) < 2 ^ 32 := BitVec.isLt _
    change _ < 2 ^ 64
    omega
  · exact Nat.mod_lt _ (Nat.two_pow_pos _)

/-- An instruction with two vector sources gives its row, if its function is the row's on the numbers of the element's width. -/
theorem vec2_gives {i : Instr} {ty : ETy} {d a b : VReg} {m : Reg} {F g : Nat → Nat → Nat × Fl} {r : VRow}
    (hg : ∀ x < 2 ^ ty.width, ∀ y < 2 ^ ty.width, g x y = F x y)
    (hr : elemRow ty d [d] [a, b] m (fun s j => F (eu s ty a j) (eu s ty b j)) = some r) (he : exec i s = vec2 i ty d a b m g s)
    (h : Passes s .user true r.vdst r.vsrc r.srcs none) : RowGives s i r := by
  cases hr
  have hg' (j : Nat) : g (eu s ty a j) (eu s ty b j) = F (eu s ty a j) (eu s ty b j) := hg _ (eu_lt ..) _ (eu_lt ..)
  refine rowGives_of_body he h (flagsOf_union s m (count_le ty) _) ?_
  rw [← onMask_onLanes s m (count_le ty)]
  simp only [← hg']
  refine (State.elemwise_wrote s ty d m _).congr fun n hn => ?_
  have hidx : (if ty = .i64 then n / 2 else n) < 32 := (ty.index_lt hn).trans_le (count_le ty)
  rw [mask_testBit_en s m hidx]
  rfl

/-! ## Integer elements (R117) -/

theorem intRow2_gives {i : Instr} {t : BitVec 2} {d a b : VReg} {m : Reg} {F : Nat → Nat → Int} {g : Nat → Nat → Nat} {r : VRow}
    (hg : Computes (intTy t).width g F)
    (hr : intRow2 t d a b m (fun s j => F (eu s (intTy t) a j) (eu s (intTy t) b j)) = some r)
    (he : exec i s = vec2 i (intTy t) d a b m (fun x y => noFl (g x y)) s)
    (h : Passes s .user true r.vdst r.vsrc r.srcs none) : RowGives s i r :=
  vec2_gives (fun x hx y hy => congrArg noFl (hg x hx y hy)) hr he h

theorem vecIntRow_holds : VRowsHold vecIntRow := by
  intro s i r hr _ h
  cases i
  case vaddI => exact intRow2_gives computes_add hr rfl h
  case vsubI => exact intRow2_gives computes_sub hr rfl h
  case vmulI => exact intRow2_gives computes_mul hr rfl h
  case vminI => exact intRow2_gives computes_min hr rfl h
  case vmaxI => exact intRow2_gives computes_max hr rfl h
  case vminz => exact intRow2_gives computes_minz hr rfl h
  case vmaxz => exact intRow2_gives computes_maxz hr rfl h
  case vshl => exact intRow2_gives computes_shl hr rfl h
  case vshr => exact intRow2_gives computes_shr hr rfl h
  case vsra => exact intRow2_gives computes_sra hr rfl h
  case vaddSat => exact vec2_gives (fun x _ y _ => intTo_sat (width_pos _) (toSigned _ x + toSigned _ y)) hr rfl h
  case vsubSat => exact vec2_gives (fun x _ y _ => intTo_sat (width_pos _) (toSigned _ x - toSigned _ y)) hr rfl h
  all_goals cases hr

/-- Settles O8: each row of Table 6.2 is the model's function on numbers of the element's width. -/
theorem vectorIntegerOperationsGiveTable62 : Obligations.VectorIntegerOperationsGiveTable62 := vecIntRow_holds

/-! ## Lane instructions (R126) -/

theorem elemLane_i32 (v n : Nat) : elemLane .i32 v n = BitVec.ofNat 32 v :=
  BitVec.eq_of_toNat_eq (Nat.mod_mod v (2 ^ 32))

theorem elemLane_i32_toNat (v : Lane) (n : Nat) : elemLane .i32 v.toNat n = v := by
  rw [elemLane_i32, BitVec.ofNat_toNat, BitVec.setWidth_eq]

theorem eu_i32 (s : State) (r : VReg) {j : Nat} (h : j < 32) : eu s .i32 r j = (ln s r j).toNat := by
  rw [← laneAt_vreg s r h]
  exact Nat.mod_eq_of_lt (BitVec.isLt _)

theorem flagsOf_noFl (mask n : Nat) (f : Nat → Nat) : flagsOf (onMask mask n (fun j => noFl (f j))) = 0 := by
  apply BitVec.eq_of_getLsbD_eq
  intro i _
  have hzero : (0 : Fl).getLsbD i = false := BitVec.getLsbD_zero
  rw [hzero, Bool.eq_false_iff, ne_eq, flagsOf_onMask]
  rintro ⟨j, -, -, hj⟩
  exact Bool.false_ne_true (hzero.symm.trans hj)

/-- A lane operation on the enabled lanes. -/
theorem ifOn_gives {i : Instr} {d : VReg} {vs : List VReg} {m : Reg} {v : State → Nat → Lane} {g : State → Nat → Nat} {r : VRow}
    (hr : laneRow [d] vs (maskSrc m) d (fun s j => ifOn s m j (v s j)) = some r)
    (he : exec i s = vecOp i [d] vs (maskSrc m) none s (fun t => t.elemwise .i32 d m (fun j => noFl (g t j))))
    (h : Passes s .user true r.vdst r.vsrc r.srcs none) (hg : ∀ j < 32, g s j = (v s j).toNat) : RowGives s i r := by
  cases hr
  refine rowGives_of_body he h rfl ?_
  have hw := State.elemwise_wrote s .i32 d m (fun j => noFl (g s j))
  rw [flagsOf_noFl] at hw
  refine hw.congr fun n hn => ?_
  have hlane : elemLane .i32 (g s n) n = v s n := by rw [hg n hn, elemLane_i32_toNat]
  change ifOn s m n (v s n) = if (s.mask m).testBit n = true then some (elemLane .i32 (g s n) n) else none
  rw [hlane, mask_testBit_en s m hn]
  rfl

/-- A function of two lanes. -/
theorem ifOn2_gives {i : Instr} {d a b : VReg} {m : Reg} {g : Nat → Nat → Nat} {op : Lane → Lane → Lane} {r : VRow}
    (hg : ∀ x y : Lane, g x.toNat y.toNat = (op x y).toNat)
    (hr : laneRow [d] [a, b] (maskSrc m) d (fun s j => ifOn s m j (op (ln s a j) (ln s b j))) = some r)
    (he : exec i s = vec2 i .i32 d a b m (fun x y => noFl (g x y)) s) (h : Passes s .user true r.vdst r.vsrc r.srcs none) : RowGives s i r :=
  ifOn_gives (g := fun t j => g (eu t .i32 a j) (eu t .i32 b j)) hr he h fun j hj => by rw [eu_i32 s a hj, eu_i32 s b hj, hg]

/-- A function of one lane. -/
theorem ifOn1_gives {i : Instr} {d a : VReg} {m : Reg} {g : Nat → Nat} {op : Lane → Lane} {r : VRow}
    (hg : ∀ x : Lane, g x.toNat = (op x).toNat) (hr : laneRow [d] [a] (maskSrc m) d (fun s j => ifOn s m j (op (ln s a j))) = some r)
    (he : exec i s = vec1 i .i32 d a m (fun x => noFl (g x)) s) (h : Passes s .user true r.vdst r.vsrc r.srcs none) : RowGives s i r :=
  ifOn_gives (g := fun t j => g (eu t .i32 a j)) hr he h fun j hj => by rw [eu_i32 s a hj, hg]

/-- Lane j takes the lane of a that lane j of b names. -/
theorem vshuf_gives {d a b : VReg} {m : Reg} {r : VRow} (hr : vecLaneRow (.vshuf d a b m) = some r)
    (h : Passes s .user true r.vdst r.vsrc r.srcs none) : RowGives s (.vshuf d a b m) r := by
  refine ifOn_gives hr (show execVshuf d a b m s = _ from rfl) h fun j hj => ?_
  rw [laneAt_vreg s b hj, laneAt_vreg s a (Nat.mod_lt _ (by decide))]

/-! ### Without flags -/

theorem slot_eq_me {s : State} {c k : Nat} (h : ¬s.other c k) : s.slot c k = s.me := by
  unfold State.other slotKey at h
  unfold State.me State.slot
  rw [not_not.1 h]

/-- Setting no flags writes the slot as it was: only the form of the table of slots can differ, and what `VWrote` says does not see it. -/
theorem vwrote_of_slots {t u : State} {srcs : List Reg} {d : VReg} {lanes : Nat → Option Lane} {fl : BitVec 5} (h : VWrote s t srcs d lanes fl)
    (hparts : u = { t with slots := u.slots }) (hslots : ∀ c k, u.slot c k = t.slot c k) : VWrote s u srcs d lanes fl := by
  generalize hu : u.slots = l at hparts
  subst hparts
  obtain ⟨hlane, hfile, hbad, hme, hqueue, hothers, hcore, hcores, hp⟩ := h
  refine ⟨hlane, hfile, hbad, (hslots ..).trans hme, hqueue, fun c k o => (hslots c k).trans (hothers c k o), hcore, hcores, ?_⟩
  rw [hp]

theorem take_modMe (t : State) {f : Slot → Slot} (hf : (f t.me).sw = t.me.sw) (srcs : List Reg) :
    (t.modMe f).take srcs = { t.take srcs with slots := (t.modMe f).slots } := by
  have hpop : (t.modMe f).pops srcs = t.pops srcs := State.pops_modMe (hf := hf) ..
  unfold State.take
  rw [hpop]
  split <;> rfl

/-- A vector instruction without flags: lanes written, operands taken, next word. -/
theorem unflagged_vwrote (s : State) (srcs : List Reg) (d : VReg) {whole : Bool} {l : List Lane} {lanes : Nat → Option Lane}
    (hlen : l.length = 32) (hl : ∀ n < 32, l.getD n 0 = (lanes n).getD (ln s d n)) (hw : whole = true ↔ ∀ n < 32, (lanes n).isSome = true) :
    VWrote s (((s.setVreg d whole l).take srcs).advance) srcs d lanes 0 := by
  have hflagged := State.vec_wrote s srcs d whole l lanes 0 hlen hl hw
  generalize s.setVreg d whole l = u at hflagged ⊢
  have hsame : u.me.orFst 0 = u.me := by simp [Slot.orFst]
  refine vwrote_of_slots hflagged ?_ fun c k => ?_
  · rw [take_modMe u rfl srcs]; rfl
  · have hcur : ((u.modMe (·.orFst 0)).take srcs).other c k ↔ (u.take srcs).other c k := by simp [State.other]
    by_cases o : (u.take srcs).other c k
    · have ho : u.other c k := by simpa [State.other] using o
      rw [State.advance, State.advance, State.slot_modMe_other _ o, State.slot_modMe_other _ (hcur.2 o), State.slot_take, State.slot_take,
        State.slot_modMe_other _ ho]
    · rw [slot_eq_me (s := (u.take srcs).advance) o, slot_eq_me (s := ((u.modMe (·.orFst 0)).take srcs).advance) (mt hcur.1 o),
        State.advance_me, State.advance_me, State.take_me, State.take_me, State.me_modMe, hsame]

theorem lo32_lane (x : Word) : BitVec.ofNat 32 (lo32 x) = x.truncate 32 := by
  apply BitVec.eq_of_toNat_eq
  simp [lo32]

theorem vsel_gives {d a b : VReg} {m : Reg} {r : VRow} (hr : vecLaneRow (.vsel d a b m) = some r)
    (h : Passes s .user true r.vdst r.vsrc r.srcs none) : RowGives s (.vsel d a b m) r := by
  cases hr
  refine rowGives_of_body (show execVsel d a b m s = _ from rfl) h rfl (unflagged_vwrote s (maskSrc m) d (by simp) (fun n hn => ?_) (by simp))
  rw [map_range_getD _ hn, mask_testBit_en s m hn, vreg_getD s a hn, vreg_getD s b hn]
  rfl

theorem vins_gives {d : VReg} {a : Reg} {lane : BitVec 5} {r : VRow} (hr : vecLaneRow (.vins d a lane) = some r)
    (h : Passes s .user true r.vdst r.vsrc r.srcs none) : RowGives s (.vins d a lane) r := by
  cases hr
  refine rowGives_of_body (show execVins d a lane s = _ from rfl) h rfl
    (unflagged_vwrote s [a] d (by simp) (fun n hn => ?_) (iff_of_false Bool.false_ne_true fun hall => ?_))
  · rw [map_range_getD _ hn, lo32_lane, vreg_getD s d hn]
    dsimp only
    split <;> rfl
  · have h0 := hall 0 (by decide)
    have h1 := hall 1 (by decide)
    simp only [Option.isSome_ite] at h0 h1
    omega

theorem vbcast_gives {d : VReg} {a m : Reg} {r : VRow} (hr : vecLaneRow (.vbcast d a m) = some r)
    (h : Passes s .user true r.vdst r.vsrc r.srcs none) : RowGives s (.vbcast d a m) r := by
  cases hr
  refine rowGives_of_body (show execVbcast d a m s = _ from rfl) h rfl
    (unflagged_vwrote s (a :: maskSrc m) d (mergeElems_length ..) (fun n hn => ?_) ((onMask_all ..).trans (forall₂_congr fun n hn => ?_)))
  · have hidx : (if ETy.i32 = .i64 then n / 2 else n) = n := rfl
    rw [mergeElems_getD _ _ _ hn, hidx, onMask_getD _ _ _ hn, mask_testBit_en s m hn, vreg_getD s d hn]
    dsimp only [ifOn]
    by_cases e : en s m n = true
    · rw [if_pos e, if_pos e, ← lo32_lane, ← elemLane_i32 _ n]; rfl
    · rw [if_neg e, if_neg e]; rfl
  · rw [mask_testBit_en s m hn]
    simp [ifOn]

/-! ### Integer sums (R120) -/

theorem intSum_append (w : Nat) (l : List (Option Nat)) (x : Option Nat) : intSum w (l ++ [x]) = (intSum w l + x.getD 0) % 2 ^ w := by
  unfold intSum
  rw [List.foldl_append]
  rfl

/-- The wrapped sum of the enabled elements. -/
theorem intSum_onLanes (s : State) (w : Nat) (m : Reg) (n : Nat) (f : Nat → Nat) :
    intSum w (onLanes s m n f) = (((List.range n).filter (en s m)).map f).sum % 2 ^ w := by
  unfold onLanes
  induction n with
  | zero => simp [intSum]
  | succ n ih =>
    rw [List.range_succ, List.map_append, List.filter_append, List.map_append, List.sum_append, List.map_singleton, intSum_append, ih]
    by_cases hn : en s m n = true
    · simp [hn]
    · simp [hn]

theorem vredI_gives {t : BitVec 2} {d a : VReg} {m : Reg} {r : VRow} (hr : vecLaneRow (.vredI t d a m) = some r)
    (h : Passes s .user true r.vdst r.vsrc r.srcs none) : RowGives s (.vredI t d a m) r := by
  cases hr
  have hw := spread_vwrote s (intTy t) d m (noFl (intSum (intTy t).width (onMask (s.mask m) (intTy t).count (eu s (intTy t) a))))
  refine rowGives_of_body (show execVredI t d a m s = _ from rfl) h rfl (hw.congr fun n _ => ?_)
  rw [onMask_onLanes s m (count_le _), intSum_onLanes]
  rfl

theorem vecLaneRow_holds : VRowsHold vecLaneRow := by
  intro s i r hr _ h
  cases i
  case vsel => exact vsel_gives hr h
  case vbcast => exact vbcast_gives hr h
  case vins => exact vins_gives hr h
  case vredI => exact vredI_gives hr h
  case vshuf => exact vshuf_gives hr h
  case vmov => exact ifOn1_gives (g := fun x => x) (fun _ => rfl) hr rfl h
  case vnot => exact ifOn1_gives (fun x => (BitVec.toNat_not (x := x)).symm) hr rfl h
  case vand => exact ifOn2_gives (g := (· &&& ·)) (fun x y => (BitVec.toNat_and x y).symm) hr rfl h
  case vor => exact ifOn2_gives (g := (· ||| ·)) (fun x y => (BitVec.toNat_or x y).symm) hr rfl h
  case vxor => exact ifOn2_gives (g := (· ^^^ ·)) (fun x y => (BitVec.toNat_xor x y).symm) hr rfl h
  all_goals cases hr

/-- Settles O10: the lane moves lane by lane, and an integer sum in every element. -/
theorem laneInstructionsGiveTable66 : Obligations.LaneInstructionsGiveTable66 := vecLaneRow_holds

/-! ## Compares (R119) -/

theorem add_two_pow_testBit {v n : Nat} (h : v < 2 ^ n) (b : Bool) (j : Nat) :
    (v + if b = true then 2 ^ n else 0).testBit j = (v.testBit j || (b && decide (n = j))) := by
  cases b
  · simp
  · have hor := Nat.two_pow_add_eq_or_of_lt h 1
    rw [mul_one] at hor
    rw [if_pos rfl, Nat.add_comm, hor, Nat.testBit_or, Nat.testBit_two_pow, Bool.or_comm, Bool.true_and]

/-- The sum of the powers of two at some positions has 1 bits there. -/
theorem foldl_two_pow (p : Nat → Bool) (n : Nat) :
    let v := (List.range n).foldl (fun acc j => acc + if p j = true then 2 ^ j else 0) 0
    v < 2 ^ n ∧ ∀ j, v.testBit j = (decide (j < n) && p j) := by
  induction n with
  | zero => simp
  | succ n ih =>
    obtain ⟨hlt, hbit⟩ := ih
    rw [List.range_succ, List.foldl_append, List.foldl_cons, List.foldl_nil]
    generalize (List.range n).foldl (fun acc j => acc + if p j = true then 2 ^ j else 0) 0 = v at hlt hbit ⊢
    refine ⟨?_, fun j => ?_⟩
    · rw [Nat.pow_succ]
      split <;> omega
    · rw [add_two_pow_testBit hlt, hbit]
      by_cases h : n = j
      · subst h; simp
      · have hj : j < n + 1 ↔ j < n := by omega
        simp [h, hj]

/-- The mask of a compare: a bit for each enabled element of which the relation holds. -/
theorem relMask_bits (s : State) (m : Reg) {n : Nat} (hn : n ≤ 32) (f : Nat → Bool × Fl) (j : Nat) :
    let res := onMask (s.mask m) n (fun j => (if (f j).1 then 2 ^ j else 0, (f j).2))
    (wrap ((valsOf res).foldl (fun acc x => acc + x.getD 0) 0)).getLsbD j = (decide (j < n) && en s m j && (f j).1) := by
  have hvalue (k : Nat) : (if en s m k = true then some (if (f k).1 = true then 2 ^ k else 0) else none).getD 0 =
      if (en s m k && (f k).1) = true then 2 ^ k else 0 := by
    cases en s m k <;> rfl
  have hbit := (foldl_two_pow (fun k => en s m k && (f k).1) n).2 j
  dsimp only
  rw [valsOf_onMask, onMask_onLanes s m hn]
  unfold onLanes wrap
  rw [List.foldl_map]
  simp only [hvalue]
  rw [BitVec.getLsbD_ofNat, hbit, Bool.and_assoc]
  by_cases h : j < n
  · have h64 : j < 64 := by omega
    simp [h64]
  · simp [h]

theorem vecOp_next {i : Instr} {vd vs : List VReg} {gs : List Reg} {dst : Option Reg} (body : State → State)
    (h : Passes s .user true vd vs gs dst) : vecOp i vd vs gs dst s body = .next (body s) := State.issue_passes _ h

theorem exec_compare {i : Instr} {ty : ETy} {d : Reg} {a b : VReg} {m : Reg} {f : Nat → Nat → Bool × Fl}
    (hr : compareRow i = some (ty, d, a, b, m, f)) : exec i s = vecCmp i ty d a b m f s := by
  unfold compareRow at hr
  split at hr <;> cases hr
  all_goals rfl

theorem compareRow_holds {i : Instr} {ty : ETy} {d : Reg} {a b : VReg} {m : Reg} {f : Nat → Nat → Bool × Fl}
    (hr : compareRow i = some (ty, d, a, b, m, f)) (h : Passes s .user true [] [a, b] (maskSrc m) (some d)) :
    ∃ t v fl, exec i s = .next t ∧ Wrote s t (maskSrc m) d v fl 12 ∧
      (∀ j, v.getLsbD j = (decide (j < ty.count) && en s m j && (f (eu s ty a j) (eu s ty b j)).1)) ∧
      FlagsUnion s m ty.count (fun j => (f (eu s ty a j) (eu s ty b j)).2) fl := by
  have hcount := count_le ty
  have hflags := flagsOf_union s m hcount fun j =>
    let r := f (eu s ty a j) (eu s ty b j)
    (if r.1 then 2 ^ j else 0, r.2)
  rw [← onMask_onLanes s m hcount] at hflags
  exact ⟨_, _, _, (exec_compare hr).trans (vecOp_next _ h), Wrote.flagged _ (State.retire_wrote ..),
    relMask_bits s m hcount fun j => f (eu s ty a j) (eu s ty b j), hflags⟩

theorem vext_wrote {d : Reg} {a : VReg} (lane : BitVec 5) (h : Passes s .user true [] [a] [] (some d)) :
    ∃ t, exec (.vext d a lane) s = .next t ∧ Wrote s t [] d ((ln s a lane.toNat).zeroExtend 64) 0 12 := by
  have hval : wrap (laneAt (s.vreg a) lane.toNat) = (ln s a lane.toNat).zeroExtend 64 := by
    rw [laneAt_vreg s a lane.isLt]
    exact BitVec.ofNat_toNat ..
  rw [← hval]
  exact ⟨_, (show execVext d a lane s = _ from rfl).trans (vecOp_next _ h), State.retire_wrote ..⟩

/-- Settles O12: bit j of the sum of the powers of two is the relation of element j. -/
theorem vectorComparesWriteMasks : Obligations.VectorComparesWriteMasks :=
  ⟨fun _ _ _ _ _ _ _ _ hr _ h => compareRow_holds hr h, fun _ _ _ lane h => vext_wrote lane h⟩

end Sys2Proof.Vectors

/-!
What the proofs about threads and barriers share: where a slot goes on when its state word changes, what waking, waiting and arriving leave of a
slot, settings of the arrival latch, fills, and the F_GUARD of a pending guard record.
-/

namespace Sys2Proof.Threads
open Sys2Proof Sys2Proof.Machine Sys2Proof.Claims Sys2Proof.Scalar Sys2Proof.Vectors

/-! ## Fields of the state word -/

theorem bits_congr {x y : Word} {lo w : Nat} (h : ∀ i, lo ≤ i → i < lo + w → bit x i = bit y i) : bits x lo w = bits y lo w := by
  apply Nat.eq_of_testBit_eq
  intro i
  rw [testBit_bits, testBit_bits]
  by_cases hi : i < w
  · rw [show x.getLsbD (lo + i) = y.getLsbD (lo + i) from h _ (by omega) (by omega)]
  · simp [hi]

theorem bit_setBits_out (x : Word) {lo w i : Nat} (v : Nat) (h : ¬(lo ≤ i ∧ i < lo + w)) : bit (setBits x lo w v) i = bit x i := by
  unfold bit
  rw [getLsbD_setBits, if_neg h]
  by_cases hi : i < 64
  · simp [hi]
  · rw [BitVec.getLsbD_of_ge _ _ (by omega), Bool.and_false]

theorem bit_setBits_one (x : Word) {lo : Nat} (v : Nat) (h : lo < 64) : bit (setBits x lo 1 v) lo = decide (v % 2 = 1) := by
  rw [bit_setBits x lo 1 v lo h, if_pos ⟨Nat.le_refl _, Nat.lt_succ_self _⟩, Nat.sub_self, Nat.testBit_zero]

theorem pcAt_eq_pcDown (x : Word) : pcAt x = pcDown x := (pcOf_eq_pc57 _).symm

section
variable (x : Slot)

/-- Where a slot goes on turns on its program counter and the frame fields of `k.sw` alone (R56, R58, R78). -/
theorem advance_pc_congr {x y : Slot} (hp : x.pc = y.pc) (hs : ∀ i, 3 ≤ i → i < 32 → bit x.sw i = bit y.sw i) : x.advance.pc = y.advance.pc := by
  have hbits (lo w : Nat) (h3 : 3 ≤ lo) (h32 : lo + w ≤ 32) : bits x.sw lo w = bits y.sw lo w :=
    bits_congr fun i _ _ => hs i (by omega) (by omega)
  unfold Slot.advance Slot.dropFrame Slot.frame
  rw [hp, hs 3 (by omega) (by omega), hbits 4 4 (by omega) (by omega), hbits 8 4 (by omega) (by omega), hbits 12 4 (by omega) (by omega),
    hbits 16 4 (by omega) (by omega)]
  dsimp only
  split_ifs <;> rfl

/-- Going on writes frame fields alone of `k.sw`. -/
theorem bit_advance_sw {i : Nat} (h : i < 3 ∨ 32 ≤ i) : bit x.advance.sw i = bit x.sw i := by
  unfold Slot.advance Slot.dropFrame
  dsimp only
  split_ifs
  · exact bit_setBits_out _ _ (by omega)
  · exact bit_setBits_out _ _ (by omega)
  · exact bit_setBits_out _ _ (by omega)
  · rfl

theorem bit_setPark_sw (n : Nat) {i : Nat} (h : ¬(41 ≤ i ∧ i < 45)) : bit (x.setPark n).sw i = bit x.sw i := bit_setBits_out _ _ h

theorem bit_wake_sw {i : Nat} (h : ¬(41 ≤ i ∧ i < 45)) : bit x.wake.sw i = bit x.sw i := by
  unfold Slot.wake
  split
  · rfl
  · exact bit_setPark_sw x 0 h

@[simp] theorem park_advance : x.advance.park = x.park := bits_congr fun _ _ _ => bit_advance_sw x (by omega)

theorem park_setPark (n : Nat) : (x.setPark n).park = n % 16 := bits_setBits x.sw 41 4 n (by decide)

@[simp] theorem wake_st : x.wake.st = .ready := rfl
@[simp] theorem wake_pend : x.wake.pend = .none := rfl
@[simp] theorem wakeNext_st : x.wakeNext.st = .ready := by unfold Slot.wakeNext; rw [Slot.advance_st, wake_st]
@[simp] theorem wakeNext_pend : x.wakeNext.pend = .none := by unfold Slot.wakeNext; rw [Slot.advance_pend, wake_pend]

/-- A slot that waits for no translation leaves its park field zero when it goes on (R23). -/
theorem park_wakeNext {x : Slot} (h : x.pend.translating = false) : x.wakeNext.park = 0 := by
  unfold Slot.wakeNext Slot.wake
  rw [h, park_advance]
  exact park_setPark x 0

theorem pc_wakeNext : x.wakeNext.pc = x.advance.pc :=
  advance_pc_congr (x.wake_pc) fun _ _ _ => bit_wake_sw x (by omega)

@[simp] theorem isFull_wakeNext (r : Reg) : x.wakeNext.isFull r = x.isFull r := by unfold Slot.isFull; rw [Slot.wakeNext_full]

theorem advance_waited (n : Nat) : (x.waited n).advance = { x.advance with waitCyc := n + 1 } := by
  have hadv := Slot.advance_congr (x := x.waited n) (y := x) rfl rfl
  rw [Slot.advance_pcsw, hadv.1, hadv.2, Slot.advance_pcsw x]
  rfl

end

/-! ## The slot whose turn it is, changed twice -/

variable {s : State}

/-- A slot whose state word or program counter is changed before it goes on. -/
theorem modMe_advance_wentOn {f : Slot → Slot} (hf : SameButPc s.me (f s.me)) :
    WentOn s (s.modMe f).advance [] (f s.me).advance.pc (f s.me).advance.sw := by
  have hme : (s.modMe f).advance.me = (f s.me).advance := by rw [State.advance_me, State.me_modMe]
  have honly : OnlyMe s (s.modMe f).advance := (OnlyMe.modMe f).trans (OnlyMe.modMe _)
  refine ⟨by rw [hme]; exact ⟨rfl, rfl⟩, ?_, fun c k => ?_, honly.2, fun _ => rfl, (SameButChains.modMe f).trans (SameButChains.modMe _),
    fun _ => honly⟩
  · unfold SameButPc at *; rw [hme, Slot.advance_pcsw, hf]
  · simp [State.pops]; rfl

/-! ## The arrival latch (R150) -/

theorem oneHot_getLsbD {n j : Nat} (hj : j < 16) : (oneHot n).getLsbD j = decide (j = n) := by
  unfold oneHot
  rw [BitVec.getLsbD_shiftLeft, BitVec.getLsbD_one]
  by_cases h : j = n
  · subst h; simp [hj]
  · rw [decide_eq_false h]
    by_cases hlt : j < n
    · simp [hlt]
    · have : ¬(j - n = 0) := by omega
      simp [this]

theorem latch_clearLatch (s : State) (c k : Nat) {j : Nat} : (s.clearLatch c k).latch c j = (s.latch c j && !decide (j = k)) := by
  unfold State.latch State.clearLatch
  rw [State.core_modCore_self, BitVec.getLsbD_and, BitVec.getLsbD_not]
  by_cases hj : j < 16
  · rw [oneHot_getLsbD hj]; simp [hj]
  · rw [BitVec.getLsbD_of_ge _ j (by omega)]; simp

/-- The latch of slot k is set, and no other. -/
theorem latch_set (s : State) (c k : Nat) {j : Nat} (hk : k < 16) :
    (s.modCore c (fun x => { x with latch := x.latch ||| oneHot k })).latch c j = (s.latch c j || decide (j = k)) := by
  unfold State.latch
  rw [State.core_modCore_self, BitVec.getLsbD_or]
  by_cases hj : j < 16
  · rw [oneHot_getLsbD hj]
  · rw [BitVec.getLsbD_of_ge (oneHot k) j (by omega), decide_eq_false (by omega)]

section
variable {c k : Nat}

/-- R150, R180: a setting that a slot in `wait` takes. -/
theorem setLatch_wait (hst : (s.slot c k).st = .parked) (hp : (s.slot c k).pend = .latch) :
    s.setLatch c k = s.modSlot c k (fun x => x.wakeNext.waited s.now) := by
  unfold State.setLatch; rw [hst, hp]

/-- R180: a setting that wakes a slot in `yield`, and stays. -/
theorem setLatch_yield {n : Nat} (hst : (s.slot c k).st = .parked) (hp : (s.slot c k).pend = .yieldTill n) :
    s.setLatch c k = (s.modCore c (fun x => { x with latch := x.latch ||| oneHot k })).modSlot c k Slot.wakeNext := by
  unfold State.setLatch; rw [hst, hp]

/-- A setting of the latch leaves it set, unless the slot takes it in `wait` or has taken one in this cycle. -/
theorem latch_setLatch_self (hk : k < 16) (hp : (s.slot c k).pend ≠ .latch) (hw : (s.slot c k).waitCyc ≠ s.now + 1) :
    (s.setLatch c k).latch c k = true := by
  have hset : (s.modCore c (fun x => { x with latch := x.latch ||| oneHot k })).latch c k = true := by rw [latch_set s c k hk]; simp
  unfold State.setLatch
  dsimp only
  split
  case h_1 h => exact absurd h hp
  case h_4 => rw [if_neg hw]; exact hset
  all_goals exact hset

/-- A slot that a setting of its latch wakes goes on at its next word; any other stays as it is. -/
theorem slot_setLatch_self (s : State) (c k : Nat) : (s.setLatch c k).slot c k = s.slot c k ∨
    (s.setLatch c k).slot c k = (s.slot c k).wakeNext ∨ (s.setLatch c k).slot c k = (s.slot c k).wakeNext.waited s.now := by
  unfold State.setLatch
  dsimp only
  split
  · exact .inr (.inr (State.slot_modSlot_self ..))
  · exact .inr (.inl (State.slot_modSlot_self ..))
  · exact .inr (.inl (State.slot_modSlot_self ..))
  · split <;> exact .inl rfl

/-! ## Fills (R17, R18) -/

/-- What a fill writes of its slot before the latch is set. -/
def filled (x : Slot) (now : Nat) (r : Reg) (v : Word) : Slot :=
  if now < x.wbDue && x.wbRegs.getLsbD r.toNat then x.setFull r.toNat true else x.setReg r v

theorem fill_eq (s : State) (c k : Nat) {r : Reg} (v : Word) (h : r ≠ 0) :
    s.fill c k r v = (s.setSlot c k (filled (s.slot c k) s.now r v)).setLatch c k := by
  unfold State.fill; rw [if_neg h]; rfl

theorem fill_zero (s : State) (c k : Nat) (v : Word) : s.fill c k 0 v = s := rfl

section
variable (x : Slot) (now : Nat) (r : Reg) (v : Word)

/-- A fill writes registers alone. -/
theorem filled_shape : ∃ g full badG, filled x now r v = { x with g := g, full := full, badG := badG } := by
  unfold filled
  split
  · obtain ⟨full, h⟩ := x.setFull_shape r.toNat true
    exact ⟨x.g, full, x.badG, h⟩
  · exact x.setReg_shape r v

theorem filled_st : (filled x now r v).st = x.st := by obtain ⟨_, _, _, h⟩ := filled_shape x now r v; rw [h]
theorem filled_pend : (filled x now r v).pend = x.pend := by obtain ⟨_, _, _, h⟩ := filled_shape x now r v; rw [h]
theorem filled_waitCyc : (filled x now r v).waitCyc = x.waitCyc := by obtain ⟨_, _, _, h⟩ := filled_shape x now r v; rw [h]
theorem filled_pc : (filled x now r v).pc = x.pc := by obtain ⟨_, _, _, h⟩ := filled_shape x now r v; rw [h]
theorem filled_sw : (filled x now r v).sw = x.sw := by obtain ⟨_, _, _, h⟩ := filled_shape x now r v; rw [h]

theorem reg_filled (q : Reg) : (filled x now r v).reg q =
    if q = r ∧ r ≠ 0 ∧ ¬(now < x.wbDue ∧ x.wbRegs.getLsbD r.toNat = true) then v else x.reg q := by
  unfold filled
  by_cases h : now < x.wbDue ∧ x.wbRegs.getLsbD r.toNat = true
  · rw [if_pos (by simpa using h), if_neg (fun e => e.2.2 h)]; exact Slot.reg_setFull ..
  · rw [if_neg (by simpa using h), Slot.reg_setReg]; simp only [h, not_false_eq_true, and_true]

theorem isFull_filled : (filled x now r v).isFull r = true := by
  unfold filled
  split
  · by_cases h : r = 0
    · subst h; rfl
    · have hn : r.toNat ≠ 0 := fun e => h (BitVec.eq_of_toNat_eq e)
      unfold Slot.isFull Slot.setFull
      rw [if_neg hn]
      simp only [if_true, BitVec.getLsbD_or, Slot.oneHot_get]
      simp
  · rw [Slot.isFull_setReg]; simp

end
end

/-! ## F_GUARD (R198, R294) -/

theorem owes_epc (x : Slot) (a : Word) : ({ x with epc := a } : Slot).owes = x.owes := rfl

/-- The code of an imprecise fault with bit 8. -/
theorem imprecise_cause {n : Nat} (b c : Nat) (hn : n < 32) : bits (wrap (n + 1 * 256 + b * 512 + c * 1024)) 0 9 = 256 + n := by
  unfold bits wrap
  rw [BitVec.toNat_ofNat]
  omega

theorem guardStop_none (h : s.me.guardRec = none) : s.guardStop = none := by unfold State.guardStop; rw [h]

/-- A pending guard record stops its slot. -/
theorem guardStop_stops {r : GuardRec} (h : s.me.guardRec = some r) : ∃ t, s.guardStop = some t ∧ GuardStops s t r := by
  have hf := s.takeFault_faulted s.curCore s.curSlot .guard (guardFields r).1 (guardFields r).2 true
  have hcause : bits ((s.takeFault s.curCore s.curSlot .guard (guardFields r).1 (guardFields r).2 true).slot s.curCore s.curSlot).cause 0 9 =
      256 + 13 := by
    unfold State.takeFault
    rw [State.slot_stopWith]
    exact imprecise_cause _ _ (by decide)
  refine ⟨_, by unfold State.guardStop; rw [h], ?_⟩
  generalize s.takeFault s.curCore s.curSlot .guard (guardFields r).1 (guardFields r).2 true = u at *
  obtain ⟨-, hrest, hslots, hparts, hnotice⟩ := hf
  have hc : u.curCore = s.curCore := by rw [hparts]
  have hk : u.curSlot = s.curSlot := by rw [hparts]
  have hme : (u.modMe (fun x => { x with guardRec := none })).me = { u.slot s.curCore s.curSlot with guardRec := none } := by
    rw [State.me_modMe, State.me_eq, hc, hk]
  have hslot : (u.modMe (fun x => { x with guardRec := none })).slot s.curCore s.curSlot =
      { u.slot s.curCore s.curSlot with guardRec := none } := by rw [← hme, State.me_eq, State.modMe_curCore, State.modMe_curSlot, hc, hk]
  refine ⟨by rw [hslot]; exact hcause, by rw [hme, hrest]; rfl, fun c k o => ?_, ?_⟩
  · rw [State.slot_modMe_other _ (by unfold State.other; rw [hc, hk]; exact o)]
    exact hslots c k o
  · have hp : u.modMe (fun x => { x with guardRec := none }) =
        { u with slots := (u.modMe (fun x => { x with guardRec := none })).slots } := rfl
    rw [hp, hparts]
    dsimp only
    rw [hnotice]

end Sys2Proof.Threads

/-!
Waiting for the arrival latch, and the chain bit (R147, R150, R180, R181).
-/

namespace Sys2Proof.Threads
open Sys2Proof Sys2Proof.Machine Sys2Proof.Claims Sys2Proof.Scalar Sys2Proof.Vectors

variable {s : State}

theorem exec_wait (h : PassesG s false [] none) : exec .wait s = .next
    (if s.latch s.curCore s.curSlot = true then ((s.clearLatch s.curCore s.curSlot).modMe (fun x => x.waited s.now)).advance
    else s.park 8 .latch) := by
  change execWait s = _
  exact State.issue_passes _ h

theorem exec_yield (h : PassesG s false [] none) : exec .yield s = .next
    (if s.latch s.curCore s.curSlot = true then s.advance else s.park 8 (.yieldTill (s.now + 256))) := by
  change execYield s = _
  exact State.issue_passes _ h

/-- A `wait` that finds its latch set. -/
theorem wait_takes (s : State) :
    let t := ((s.clearLatch s.curCore s.curSlot).modMe (fun x => x.waited s.now)).advance
    t.me = { s.me.advance with waitCyc := s.now + 1 } ∧ t.latch s.curCore s.curSlot = false ∧
      (∀ k, k ≠ s.curSlot → t.latch s.curCore k = s.latch s.curCore k) ∧ t = { s with slots := t.slots, cores := t.cores } ∧
      ∀ c k, s.other c k → t.slot c k = s.slot c k := by
  have honly := (OnlyMe.modMe (s := s.clearLatch s.curCore s.curSlot) (fun x => x.waited s.now)).trans (OnlyMe.modMe Slot.advance)
  have hlatch (k : Nat) : (((s.clearLatch s.curCore s.curSlot).modMe (fun x => x.waited s.now)).advance).latch s.curCore k =
      (s.latch s.curCore k && !decide (k = s.curSlot)) := latch_clearLatch s s.curCore s.curSlot
  refine ⟨?_, by rw [hlatch]; simp, fun k hk => by rw [hlatch]; simp [hk], rfl, honly.2⟩
  rw [State.advance_me, State.me_modMe, advance_waited]
  rfl

theorem exec_yieldTimeout {c k n : Nat} (hst : (s.slot c k).st = .parked) (hp : (s.slot c k).pend = .yieldTill n) :
    exec (.yieldTimeout c k) s = .next (if n ≤ s.now then s.modSlot c k Slot.wakeNext else s) := by
  change execYieldTimeout c k s = _
  unfold execYieldTimeout
  rw [hst, hp]
  dsimp only
  split <;> rfl

/-- What a setting leaves of a slot in `yield`. -/
theorem setLatch_yield_leaves {c k n : Nat} (hk : k < 16) (hst : (s.slot c k).st = .parked) (hp : (s.slot c k).pend = .yieldTill n) :
    (s.setLatch c k).slot c k = (s.slot c k).wakeNext ∧ (s.setLatch c k).latch c k = true ∧
      (∀ j, j ≠ k → (s.setLatch c k).latch c j = s.latch c j) ∧
      ∀ c' k', slotKey c' k' ≠ slotKey c k → (s.setLatch c k).slot c' k' = s.slot c' k' := by
  have hset := setLatch_yield hst hp
  have hlatch (j : Nat) : (s.setLatch c k).latch c j = (s.latch c j || decide (j = k)) := by rw [hset]; exact latch_set s c k hk
  exact ⟨by rw [hset]; exact State.slot_modSlot_self .., by rw [hlatch]; simp, fun j hj => by rw [hlatch]; simp [hj],
    fun c' k' => State.slot_setLatch s c k c' k'⟩

/-- R148, R179: a write that finds its thread fills its register. -/
theorem exec_rputFill {c k : Nat} {r : RputFlight} (hr : s.pkg.rputs.find? (fun x => x.core = c && x.slot = k) = some r)
    (hh : (s.core r.tcore).health ≠ .stopped) : exec (.rputFill c k) s = .next
    (let t := s.modPkg (fun p => { p with rputs := p.rputs.erase r })
      let x := s.slot r.tcore r.tslot
      if x.st = .free ∨ x.claims ≠ r.claim ∨ x.tenant ≠ r.tenant then t else t.fill r.tcore r.tslot r.d r.v) := by
  change execRputFill c k s = _
  unfold execRputFill
  rw [hr]
  dsimp only
  rw [if_neg hh]
  split <;> rfl

/-- What a fill leaves of a parked slot that a setting of its latch wakes (R150, R180). -/
theorem fill_wakes {c k : Nat} {r : Reg} (v : Word) (hr : r ≠ 0) (hk : k < 16) (hst : (s.slot c k).st = .parked) :
    let t := s.fill c k r v
    ((s.slot c k).pend = .latch ∨ (∃ n, (s.slot c k).pend = .yieldTill n) →
      (t.slot c k).st = .ready ∧ (t.slot c k).park = 0 ∧ (t.slot c k).pc = (s.slot c k).advance.pc) ∧
    ((s.slot c k).pend = .latch → ∀ j, t.latch c j = s.latch c j) ∧
    (∀ n, (s.slot c k).pend = .yieldTill n → t.latch c k = true) := by
  dsimp only
  rw [fill_eq s c k v hr]
  have hslot : (s.setSlot c k (filled (s.slot c k) s.now r v)).slot c k = filled (s.slot c k) s.now r v := State.slot_setSlot_self ..
  have hst' : ((s.setSlot c k (filled (s.slot c k) s.now r v)).slot c k).st = .parked := by rw [hslot, filled_st, hst]
  have hpend : ((s.setSlot c k (filled (s.slot c k) s.now r v)).slot c k).pend = (s.slot c k).pend := by rw [hslot, filled_pend]
  have hpc : ((s.setSlot c k (filled (s.slot c k) s.now r v)).slot c k).advance.pc = (s.slot c k).advance.pc := by
    rw [hslot]; exact (Slot.advance_congr (filled_pc ..) (filled_sw ..)).1
  have hlatch (j : Nat) : (s.setSlot c k (filled (s.slot c k) s.now r v)).latch c j = s.latch c j := rfl
  generalize s.setSlot c k (filled (s.slot c k) s.now r v) = u at *
  rw [← hpend, ← hpc]
  refine ⟨?_, fun hp j => ?_, fun n hp => (setLatch_yield_leaves hk hst' hp).2.1⟩
  · rintro (hp | ⟨n, hp⟩)
    · rw [setLatch_wait hst' hp, State.slot_modSlot_self]
      exact ⟨wakeNext_st _, park_wakeNext (by rw [hp]; rfl), pc_wakeNext _⟩
    · rw [(setLatch_yield_leaves hk hst' hp).1]
      exact ⟨wakeNext_st _, park_wakeNext (by rw [hp]; rfl), pc_wakeNext _⟩
  · rw [setLatch_wait hst' hp, ← hlatch]; rfl

/-- The chain bit is set or cleared, and the slot goes on. -/
theorem chainBit_wentOn (s : State) (v : Nat) :
    let sw := setBits s.me.sw 1 1 v
    WentOn s (s.modMe (fun x => { x with sw := setBits x.sw 1 1 v })).advance [] (({ s.me with sw := sw } : Slot).advance).pc
      (({ s.me with sw := sw } : Slot).advance).sw ∧ ∀ n, bit sw n = if n = 1 then decide (v % 2 = 1) else bit s.me.sw n := by
  refine ⟨modMe_advance_wentOn rfl, fun n => ?_⟩
  by_cases h : n = 1
  · subst h; rw [if_pos rfl]; exact bit_setBits_one _ v (by decide)
  · rw [if_neg h]; exact bit_setBits_out _ v (by omega)

theorem exec_chset (h : PassesG s false [] none) : exec .chset s = .next
    (if isCompute s.curCore = true then (s.modMe (fun x => { x with sw := setBits x.sw 1 1 1 })).advance else s.advance) := by
  change execChset s = _
  exact State.issue_passes _ h

theorem exec_chclr (h : PassesG s false [] none) : exec .chclr s = .next (s.modMe (fun x => { x with sw := setBits x.sw 1 1 0 })).advance := by
  change execChclr s = _
  exact State.issue_passes _ h

theorem advance_wentNext (s : State) : WentNext s s.advance [] := by
  have hadv := s.take_advance []
  rwa [take_nil] at hadv

/-- Settles O26: the latch decides of `wait` and `yield`, and a setting of it, of the slots that are parked on it. -/
theorem waitsAndTheChainBit : Obligations.WaitsAndTheChainBit := by
  refine ⟨fun s h => ⟨_, exec_wait h, fun hl => ?_, fun hl _ => ?_⟩, fun s h => ⟨_, exec_yield h, fun hl => ?_, fun hl => ?_⟩,
    fun s c k n hst hp => ⟨_, exec_yieldTimeout hst hp, fun hn => if_neg (by omega), fun hn => if_pos hn⟩,
    fun s c k hk hst => ⟨setLatch_wait hst, fun n => setLatch_yield_leaves hk hst⟩, fun s c k r hr hh hd hk hst hcl hten => ?_,
    fun s h => ?_, fun s h => ?_⟩
  · rw [if_neg (by rw [hl]; decide)]; exact s.park_parked 8 .latch
  · rw [if_pos hl]; exact wait_takes s
  · rw [if_neg (by rw [hl]; decide)]; exact s.park_parked 8 _
  · rw [if_pos hl]; exact advance_wentNext s
  · have hfound : ¬((s.slot r.tcore r.tslot).st = .free ∨ (s.slot r.tcore r.tslot).claims ≠ r.claim ∨ (s.slot r.tcore r.tslot).tenant ≠ r.tenant) := by
      simp [hst, hcl, hten]
    refine ⟨_, exec_rputFill hr hh, ?_⟩
    rw [if_neg hfound]
    exact fill_wakes (s := s.modPkg (fun p => { p with rputs := p.rputs.erase r })) r.v hd hk hst
  · by_cases hc : isCompute s.curCore = true
    · obtain ⟨hw, hbit⟩ := chainBit_wentOn s 1
      exact ⟨_, _, (exec_chset h).trans (by rw [if_pos hc]), hw, fun n _ => by rw [hbit]; simp [hc]⟩
    · refine ⟨_, s.me.sw, (exec_chset h).trans (by rw [if_neg hc]), advance_wentNext s, fun n _ => ?_⟩
      rw [if_neg (fun e => hc e.2)]
  · obtain ⟨hw, hbit⟩ := chainBit_wentOn s 0
    exact ⟨_, _, exec_chclr h, hw, fun n _ => by rw [hbit]; simp⟩

end Sys2Proof.Threads

/-!
Hardware barriers: arrivals that count, releases, and a word whose arrival was counted (R151 to R153, R182).
-/

namespace Sys2Proof.Threads
open Sys2Proof Sys2Proof.Machine Sys2Proof.Claims Sys2Proof.Scalar Sys2Proof.Vectors

variable {s : State}

/-! ## A slot that has arrived -/

/-- A slot that a barrier has counted in a generation and that waits as p says. -/
def arrived (x : Slot) (gen : Nat) (p : Pend) : Slot := (x.setBgen (decide (gen % 2 = 1))).parkFor 6 p

section
variable (x : Slot) (gen : Nat) (p : Pend)

theorem bit_setBgen_sw (b : Bool) {i : Nat} (h : i ≠ 45) : bit (x.setBgen b).sw i = bit x.sw i := bit_setBits_out _ _ (by omega)

theorem bgen_setBgen (b : Bool) : (x.setBgen b).bgen = b := by
  refine (bit_setBits_one x.sw _ (by decide)).trans ?_
  cases b <;> rfl

theorem park_arrived : (arrived x gen p).park = 6 := Slot.parkFor_park ..

theorem bgen_arrived : (arrived x gen p).bgen = decide (gen % 2 = 1) :=
  (bit_setPark_sw _ 6 (by omega)).trans (bgen_setBgen x _)

theorem advance_pc_arrived : (arrived x gen p).advance.pc = x.advance.pc :=
  advance_pc_congr rfl fun i _ _ => (bit_setPark_sw _ 6 (by omega)).trans (bit_setBgen_sw x _ (by omega))

/-- What the release of its generation makes of it. -/
theorem wakeNext_arrived (h : p.translating = false) :
    (arrived x gen p).wakeNext.st = .ready ∧ (arrived x gen p).wakeNext.park = 0 ∧ (arrived x gen p).wakeNext.pc = x.advance.pc :=
  ⟨wakeNext_st _, park_wakeNext h, (pc_wakeNext _).trans (advance_pc_arrived x gen p)⟩

end

/-! ## Barriers above the core level -/

@[simp] theorem slot_setBar (s : State) (level inst id : Nat) (b : HwBar) (c k : Nat) : (s.setBar level inst id b).slot c k = s.slot c k := rfl

theorem bar_setBar_self (s : State) (level inst id : Nat) (b : HwBar) : (s.setBar level inst id b).bar level inst id = b := Tab.get_set_self ..

/-! ## Releases -/

/-- A change of every slot that does not turn on its place. -/
theorem slot_mapSlots_same (f : Slot → Slot) (hf : f Slot.reset = Slot.reset) (c k : Nat) :
    (s.mapSlots (fun _ _ x => f x)).slot c k = f (s.slot c k) := Tab.get_mapAll _ _ _ (fun _ => hf) _

section
variable {c k level inst id gen : Nat}

/-- R152: a slot that waits in the generation that is released goes on. -/
theorem slot_releaseBar_waits {d : Option Reg} (hst : (s.slot c k).st = .parked) (hp : (s.slot c k).pend = .barrier level inst id gen d) :
    (s.releaseBar level inst id gen).slot c k = (s.slot c k).wakeNext := by
  unfold State.releaseBar
  rw [slot_mapSlots_same _ rfl, hst, hp]
  exact if_pos ⟨rfl, rfl, rfl, rfl⟩

/-- Any other stays as it is. -/
theorem slot_releaseBar_other (hp : ∀ d, (s.slot c k).pend ≠ .barrier level inst id gen d) :
    (s.releaseBar level inst id gen).slot c k = s.slot c k := by
  unfold State.releaseBar
  rw [slot_mapSlots_same _ rfl]
  generalize s.slot c k = x at hp
  split
  case h_1 l i n g d _ h =>
    refine if_neg ?_
    rintro ⟨rfl, rfl, rfl, rfl⟩
    exact hp d h
  case h_2 => rfl

end

/-- How many slots of a core are not FREE turns on that alone. -/
theorem busySlots_congr {t : State} {c : Nat} (h : ∀ k, (t.slot c k).st = .free ↔ (s.slot c k).st = .free) : t.busySlots c = s.busySlots c := by
  have hbne (k : Nat) : ((t.slot c k).st != .free) = ((s.slot c k).st != .free) := by
    rw [Bool.eq_iff_iff, bne_iff_ne, bne_iff_ne, ne_eq, ne_eq, h]
  unfold State.busySlots State.slotsOn
  rw [List.filter_map, List.filter_map, List.length_map, List.length_map]
  congr 2
  exact funext hbne

/-! ## `bar` -/

theorem exec_bar {id : BitVec 6} {lv : BitVec 3} (h : PassesG s false [] none) (h6 : s.me.park ≠ 6) : exec (.bar id lv) s = .next
    (match s.guardStop with
      | some u => u
      | none =>
        if s.quiet s.curCore s.curSlot = false then s.parkRetry 4
        else if lv = 0 then s.arriveCore
        else if lv = 5 then s.park 6 (.barSent id.toNat none)
        else s.arriveAt lv.toNat id.toNat) := by
  change execBar id lv s = _
  unfold execBar
  rw [if_neg h6]
  exact State.issue_passes _ h

/-- `bar` without a pending guard record. -/
theorem exec_bar_unguarded {id : BitVec 6} {lv : BitVec 3} (h : PassesG s false [] none) (h6 : s.me.park ≠ 6) (hg : s.me.guardRec = none) :
    exec (.bar id lv) s = .next
      (if s.quiet s.curCore s.curSlot = false then s.parkRetry 4
        else if lv = 0 then s.arriveCore
        else if lv = 5 then s.park 6 (.barSent id.toNat none)
        else s.arriveAt lv.toNat id.toNat) := by
  rw [exec_bar h h6, guardStop_none hg]

section
variable {level id : Nat}

/-- The slot whose turn it is, arrived at a barrier above the core level. -/
theorem me_arrived (gen : Nat) (p : Pend) : (s.modMe (fun x => arrived x gen p)).slot s.curCore s.curSlot = arrived s.me gen p :=
  State.slot_modMe_self ..

/-- R152: an arrival that does not make the count parks. -/
theorem arriveAt_parks (h : (s.bar level (barInst level s.curCore) id).arr + 1 < (s.bar level (barInst level s.curCore) id).count) :
    let inst := barInst level s.curCore
    let b := s.bar level inst id
    let t := s.arriveAt level id
    t.me.st = .parked ∧ t.me.park = 6 ∧ t.me.pend = .barrier level inst id b.gen none ∧ t.me.pc = s.me.pc ∧
      t.me.bgen = decide (b.gen % 2 = 1) ∧ t.bar level inst id = { b with arr := b.arr + 1 } ∧ t.mem = s.mem := by
  unfold State.arriveAt
  dsimp only
  rw [if_neg (by omega)]
  have hme := me_arrived (s := s) (s.bar level (barInst level s.curCore) id).gen
    (.barrier level (barInst level s.curCore) id (s.bar level (barInst level s.curCore) id).gen none)
  exact ⟨congrArg Slot.st hme, (congrArg Slot.park hme).trans (park_arrived ..), congrArg Slot.pend hme,
    (congrArg Slot.pc hme).trans rfl, (congrArg Slot.bgen hme).trans (bgen_arrived ..), bar_setBar_self .., rfl⟩

/-- R152: the arrival that makes the count releases every slot of its generation, its own with them. -/
theorem arriveAt_releases (h : (s.bar level (barInst level s.curCore) id).count ≤ (s.bar level (barInst level s.curCore) id).arr + 1) :
    let inst := barInst level s.curCore
    let b := s.bar level inst id
    let t := s.arriveAt level id
    t.bar level inst id = { b with gen := b.gen + 1, arr := 0 } ∧ t.mem = s.mem ∧ t.me.st = .ready ∧ t.me.park = 0 ∧
      t.me.pc = s.me.advance.pc ∧
      (∀ c k, s.other c k → (∃ d, (s.slot c k).pend = .barrier level inst id b.gen d) → (s.slot c k).st = .parked →
        t.slot c k = (s.slot c k).wakeNext) ∧
      (∀ c k, s.other c k → (∀ d, (s.slot c k).pend ≠ .barrier level inst id b.gen d) → t.slot c k = s.slot c k) := by
  unfold State.arriveAt
  dsimp only
  rw [if_pos h]
  generalize hb : s.bar level (barInst level s.curCore) id = b
  generalize hp : Pend.barrier level (barInst level s.curCore) id b.gen none = p
  generalize hu : (s.modMe (fun x => (x.setBgen (decide (b.gen % 2 = 1))).parkFor 6 p)).setBar level (barInst level s.curCore) id
    { b with gen := b.gen + 1, arr := 0 } = u
  have hbar : u.bar level (barInst level s.curCore) id = { b with gen := b.gen + 1, arr := 0 } := by rw [← hu]; exact bar_setBar_self ..
  have hmem : u.mem = s.mem := by rw [← hu]; rfl
  have hslot : u.slot s.curCore s.curSlot = arrived s.me b.gen p := by rw [← hu]; exact me_arrived ..
  have hother {c k : Nat} (o : s.other c k) : u.slot c k = s.slot c k := by rw [← hu, slot_setBar, State.slot_modMe_other _ o]
  have hcur : u.curCore = s.curCore ∧ u.curSlot = s.curSlot := by rw [← hu]; exact ⟨rfl, rfl⟩
  have hme : (u.releaseBar level (barInst level s.curCore) id b.gen).me = (arrived s.me b.gen p).wakeNext := by
    have hw : (u.slot s.curCore s.curSlot).pend = .barrier level (barInst level s.curCore) id b.gen none := by rw [hslot, hp]; rfl
    have hrel := slot_releaseBar_waits (by rw [hslot]; rfl) hw
    rw [← hslot, ← hrel, ← hcur.1, ← hcur.2]; rfl
  obtain ⟨hst, hpark, hpc⟩ := wakeNext_arrived s.me b.gen p (by rw [← hp]; rfl)
  rw [hme]
  refine ⟨hbar, hmem, hst, hpark, hpc, fun c k o hd hst => ?_, fun c k o hd => ?_⟩
  · obtain ⟨d, hd⟩ := hd
    rw [slot_releaseBar_waits (by rw [hother o, hst]) (by rw [hother o, hd]), hother o]
  · rw [slot_releaseBar_other (by rw [hother o]; exact hd), hother o]

end

/-! ### The core level (R151) -/

/-- The machine as the core's barrier has counted the slot whose turn it is. -/
def countedAtCore (s : State) : State :=
  (s.modMe (fun x => arrived x (s.core s.curCore).barGen (.barrier 0 s.curCore 0 (s.core s.curCore).barGen none))).modCore s.curCore
    (fun y => { y with barArr := y.barArr + 1 })

theorem arriveCore_eq (s : State) : s.arriveCore = (countedAtCore s).checkCoreBar s.curCore := rfl

theorem countedAtCore_me (s : State) : (countedAtCore s).slot s.curCore s.curSlot =
    arrived s.me (s.core s.curCore).barGen (.barrier 0 s.curCore 0 (s.core s.curCore).barGen none) := me_arrived ..

theorem countedAtCore_other {c k : Nat} (o : s.other c k) : (countedAtCore s).slot c k = s.slot c k := by
  rw [countedAtCore, State.slot_modCore, State.slot_modMe_other _ o]

theorem countedAtCore_core (s : State) : (countedAtCore s).core s.curCore =
    { s.core s.curCore with barArr := (s.core s.curCore).barArr + 1 } := State.core_modCore_self ..

/-- A slot that arrives was not FREE and is not. -/
theorem countedAtCore_busySlots (h : s.me.st ≠ .free) : (countedAtCore s).busySlots s.curCore = s.busySlots s.curCore := by
  refine busySlots_congr fun k => ?_
  by_cases o : s.other s.curCore k
  · rw [countedAtCore_other o]
  · have hkey : k = s.curSlot := by unfold State.other slotKey at o; omega
    subst hkey
    rw [countedAtCore_me]
    exact iff_of_false (by intro e; cases e) h

theorem arriveCore_parks (hlt : (s.core s.curCore).barArr + 1 < s.busySlots s.curCore) (hst : s.me.st ≠ .free) :
    let t := s.arriveCore
    t.me.st = .parked ∧ t.me.park = 6 ∧ (t.core s.curCore).barArr = (s.core s.curCore).barArr + 1 ∧
      (t.core s.curCore).barGen = (s.core s.curCore).barGen := by
  have hcount : ¬(0 < ((countedAtCore s).core s.curCore).barArr ∧
      (countedAtCore s).busySlots s.curCore ≤ ((countedAtCore s).core s.curCore).barArr) := by
    rw [countedAtCore_busySlots hst, countedAtCore_core]; dsimp only; omega
  dsimp only
  rw [arriveCore_eq]
  unfold State.checkCoreBar
  dsimp only
  rw [if_neg hcount]
  have hme : (countedAtCore s).me = _ := countedAtCore_me s
  rw [hme, countedAtCore_core]
  exact ⟨rfl, park_arrived .., rfl, rfl⟩

theorem arriveCore_releases (hle : s.busySlots s.curCore ≤ (s.core s.curCore).barArr + 1) (hst : s.me.st ≠ .free) :
    let t := s.arriveCore
    t.me.st = .ready ∧ t.me.park = 0 ∧ t.me.pc = s.me.advance.pc ∧ (t.core s.curCore).barArr = 0 ∧
      (t.core s.curCore).barGen = (s.core s.curCore).barGen + 1 ∧ t.mem = s.mem ∧
      (∀ c k, s.other c k → (s.slot c k).st = .parked → (∃ d, (s.slot c k).pend = .barrier 0 s.curCore 0 (s.core s.curCore).barGen d) →
        t.slot c k = (s.slot c k).wakeNext) ∧
      (∀ c k, s.other c k → (∀ d, (s.slot c k).pend ≠ .barrier 0 s.curCore 0 (s.core s.curCore).barGen d) → t.slot c k = s.slot c k) := by
  have hcount : 0 < ((countedAtCore s).core s.curCore).barArr ∧
      (countedAtCore s).busySlots s.curCore ≤ ((countedAtCore s).core s.curCore).barArr := by
    rw [countedAtCore_busySlots hst, countedAtCore_core]; exact ⟨Nat.succ_pos _, hle⟩
  dsimp only
  rw [arriveCore_eq]
  unfold State.checkCoreBar
  dsimp only
  rw [if_pos hcount]
  have hgen : ((countedAtCore s).core s.curCore).barGen = (s.core s.curCore).barGen := by rw [countedAtCore_core]
  have hslot := countedAtCore_me s
  have hother {c k : Nat} (o : s.other c k) := countedAtCore_other o
  have hcur : (countedAtCore s).curCore = s.curCore ∧ (countedAtCore s).curSlot = s.curSlot := ⟨rfl, rfl⟩
  have hmem : (countedAtCore s).mem = s.mem := rfl
  rw [hgen]
  generalize countedAtCore s = u at *
  have hcore := State.core_modCore_self (u.releaseBar 0 s.curCore 0 (s.core s.curCore).barGen) s.curCore
    (fun y => { y with barGen := y.barGen + 1, barArr := 0 })
  have hme : (u.releaseBar 0 s.curCore 0 (s.core s.curCore).barGen).me =
      (arrived s.me (s.core s.curCore).barGen (.barrier 0 s.curCore 0 (s.core s.curCore).barGen none)).wakeNext := by
    have hrel := slot_releaseBar_waits (s := u) (by rw [hslot]; rfl) (congrArg Slot.pend hslot)
    rw [← hslot, ← hrel, ← hcur.1, ← hcur.2]; rfl
  obtain ⟨hst, hpark, hpc⟩ := wakeNext_arrived s.me (s.core s.curCore).barGen (.barrier 0 s.curCore 0 (s.core s.curCore).barGen none) rfl
  refine ⟨(congrArg Slot.st hme).trans hst, (congrArg Slot.park hme).trans hpark, (congrArg Slot.pc hme).trans hpc, by rw [hcore],
    by rw [hcore]; exact congrArg (· + 1) hgen, hmem, fun c k o hst hd => ?_, fun c k o hd => ?_⟩
  · obtain ⟨d, hd⟩ := hd
    have hrel := slot_releaseBar_waits (s := u) (by rw [hother o, hst]) (by rw [hother o, hd])
    rw [hother o] at hrel
    exact hrel
  · have hrel := slot_releaseBar_other (s := u) (by rw [hother o]; exact hd)
    rw [hother o] at hrel
    exact hrel

/-! ### A word whose arrival was counted (R153) -/

theorem sameGeneration_iff {b : Bool} {n : Nat} : (b = true) = (n % 2 = 1) ↔ b = decide (n % 2 = 1) := by
  cases b <;> simp

section
variable {level id : Nat} {d : Option Reg}

/-- A slot whose generation is not yet released parks again, and does not arrive. -/
theorem barAgain_parks (h : s.me.bgen = decide (s.currentGen level (barInst level s.curCore) id % 2 = 1)) :
    s.barAgain level id d = s.park 6 (.barrier level (barInst level s.curCore) id (s.currentGen level (barInst level s.curCore) id) d) :=
  if_pos (sameGeneration_iff.2 h)

/-- A counted slot goes on at its next word. -/
def goesOn (t : State) : State := t.modMe (fun x => { (x.setPark 0).advance with stampIn := false })

theorem barAgain_goesOn (h : s.me.bgen ≠ decide (s.currentGen level (barInst level s.curCore) id % 2 = 1)) :
    s.barAgain level id none = goesOn s :=
  if_neg (mt sameGeneration_iff.1 h)

end

/-! ## The root of the package barrier (R350, R370) -/

theorem exec_pkgBarrierArrival {c k : Nat} (hst : (s.slot c k).st = .parked) :
    exec (.pkgBarrierArrival c k) s = .next (s.countArrival c k) := by
  change execPkgBarrierArrival c k s = _
  unfold execPkgBarrierArrival
  rw [if_pos hst]

/-- An arrival that the root counts. -/
theorem countArrival_counts {c k id : Nat} {d : Option Reg} (hp : (s.slot c k).pend = .barSent id d) :
    let b := s.bar 5 0 id
    let t := s.countArrival c k
    t.slot c k = { (s.slot c k).setBgen (decide (b.gen % 2 = 1)) with pend := .barrier 5 0 id b.gen d } ∧
      (b.arr + 1 < b.count → t.bar 5 0 id = { b with arr := b.arr + 1 } ∧ t.pkg.rels = s.pkg.rels) ∧
      (b.count ≤ b.arr + 1 → t.bar 5 0 id = { b with gen := b.gen + 1, arr := 0 } ∧
        t.pkg.rels = s.pkg.rels ++ [(id, b.gen, s.now + 120, s.latest 4)]) := by
  unfold State.countArrival
  rw [hp]
  dsimp only
  by_cases h : (s.bar 5 0 id).count ≤ (s.bar 5 0 id).arr + 1
  · rw [if_pos h]
    exact ⟨by rw [State.slot_modPkg, slot_setBar, State.slot_modSlot_self], fun hlt => absurd h (by omega), fun _ => ⟨bar_setBar_self .., rfl⟩⟩
  · rw [if_neg h]
    exact ⟨by rw [slot_setBar, State.slot_modSlot_self], fun _ => ⟨bar_setBar_self .., rfl⟩, fun hle => absurd hle h⟩

end Sys2Proof.Threads

/-!
The release of the package barrier, which goes through the table of slots one by one, and `sbar` (R350, R370).
-/

namespace Sys2Proof.Threads
open Sys2Proof Sys2Proof.Machine Sys2Proof.Claims Sys2Proof.Scalar Sys2Proof.Vectors

variable {s : State}

/-! ## What reaches a slot from another one's result -/

/-- A slot that waits for no setting of its latch. -/
def Unlatched (x : Slot) : Prop := x.pend ≠ .latch ∧ (∀ n, x.pend ≠ .yieldTill n) ∧ ∀ sc, x.pend ≠ .wrs sc

theorem slot_of_key {c k c' k' : Nat} (h : slotKey c' k' = slotKey c k) (s : State) : s.slot c' k' = s.slot c k := by
  unfold slotKey at h; unfold State.slot; rw [h]

/-- R150: such a slot stays as it is when a latch is set. -/
theorem slot_setLatch_unlatched {c k : Nat} (h : Unlatched (s.slot c k)) (c' k' : Nat) : (s.setLatch c' k').slot c k = s.slot c k := by
  by_cases hk : slotKey c k = slotKey c' k'
  · rw [slot_of_key hk] at h
    obtain ⟨hlatch, hyield, hwrs⟩ := h
    unfold State.setLatch
    dsimp only
    split
    case h_1 e => exact absurd e hlatch
    case h_2 e => exact absurd e (hyield _)
    case h_3 e => exact absurd e (hwrs _)
    case h_4 => split <;> rfl
  · exact State.slot_setLatch s c' k' c k hk

section
variable {c k c' k' : Nat} (h : Unlatched (s.slot c k)) (hk : slotKey c k ≠ slotKey c' k')
include h hk

theorem slot_result_other (d : Reg) (v : Word) : (s.result c' k' d v).slot c k = s.slot c k := by
  unfold State.result
  split
  · rw [State.chainPush_eq]
    split
    · rfl
    · exact slot_setLatch_unlatched (s := s.setChain c' k' _) h _ _
  · exact State.slot_setSlot_key _ _ _ hk

theorem slot_answer_other (d : Reg) (v : Word) : (s.answer c' k' d v).slot c k = s.slot c k := by
  have hres := (s.result c' k' d v).goOn_resumed c' k'
  exact (hres.slots c k hk).trans (slot_result_other h hk d v)

theorem slot_fill_other (d : Reg) (v : Word) : (s.fill c' k' d v).slot c k = s.slot c k := by
  by_cases hd : d = 0
  · subst hd; rfl
  · have hset := State.slot_setSlot_key (s := s) c' k' (filled (s.slot c' k') s.now d v) hk
    rw [fill_eq s c' k' v hd, slot_setLatch_unlatched (by rw [hset]; exact h), hset]

theorem slot_stampFill_other (d : Reg) (r : Nat) : (s.stampFill c' k' d r).slot c k = s.slot c k := by
  have hset := State.slot_setSlot_key (s := s) c' k' { s.slot c' k' with pend := .none, stampIn := true } hk
  exact (slot_fill_other (s := s.modSlot c' k' (fun x => { x with pend := .none, stampIn := true })) (by rw [State.modSlot, hset]; exact h) hk d
    (wrap r)).trans hset

end

/-! ## The stamp at a stopped `sbar` (R293) -/

/-- A slot that no longer waits for its release, whose register of the `sbar` has the stamp. -/
theorem slot_stampFill (s : State) (c k : Nat) (d : Reg) (r : Nat) :
    (s.stampFill c k d r).slot c k = filled { s.slot c k with pend := .none, stampIn := true } s.now d (wrap r) := by
  have hslot := State.slot_modSlot_self s c k (fun x => { x with pend := .none, stampIn := true })
  unfold State.stampFill
  have hnow : (s.modSlot c k (fun x => { x with pend := .none, stampIn := true })).now = s.now := rfl
  generalize s.modSlot c k (fun x => { x with pend := .none, stampIn := true }) = u at *
  rw [← hslot, ← hnow]
  by_cases hd : d = 0
  · subst hd
    rw [fill_zero]
    unfold filled Slot.setFull Slot.setReg
    split <;> rfl
  · have hpend : (filled (u.slot c k) u.now d (wrap r)).pend = .none := by rw [filled_pend, hslot]
    have hself := State.slot_setSlot_self u c k (filled (u.slot c k) u.now d (wrap r))
    rw [fill_eq u c k _ hd, slot_setLatch_unlatched, hself]
    rw [hself]
    unfold Unlatched
    rw [hpend]
    exact ⟨nofun, fun _ => nofun, fun _ => nofun⟩

theorem stampFill_leaves (s : State) (c k : Nat) (d : Reg) (r : Nat) :
    let x := (s.stampFill c k d r).slot c k
    x.st = (s.slot c k).st ∧ x.pend = .none ∧ x.stampIn = true ∧
      (d ≠ 0 → (s.slot c k).wbDue ≤ s.now → x.reg d = BitVec.ofNat 64 r) := by
  rw [slot_stampFill]
  refine ⟨filled_st .., filled_pend .., ?_, fun hd hdue => ?_⟩
  · obtain ⟨_, _, _, h⟩ := filled_shape { s.slot c k with pend := .none, stampIn := true } s.now d (wrap r)
    rw [h]
  · rw [reg_filled, if_pos ⟨rfl, hd, fun e => absurd e.1 (Nat.not_lt.2 hdue)⟩]; rfl

/-! ## The release -/

/-- What the release of generation `gen` with stamp r does at one entry of the table of slots. -/
def releaseStep (s : State) (id gen r : Nat) (u : State) (p : Nat × Slot) : State :=
  let c := p.1 / 16
  let k := p.1 % 16
  match (u.slot c k).st, (u.slot c k).pend with
  | .parked, .barrier 5 _ n g none => if n = id ∧ g = gen then u.modSlot c k Slot.wakeNext else u
  | .parked, .barrier 5 _ n g (some d) =>
    if n = id ∧ g = gen then
      if r < s.earliest (dieOf c) then u.answer c k d (wrap r) else u.modSlot c k (fun x => { x with pend := .sbarRel d r s.now })
    else u
  | .stopped, .barrier 5 _ n g (some d) =>
    if n = id ∧ g = gen then
      if r < s.earliest (dieOf c) then u.stampFill c k d r else u.modSlot c k (fun x => { x with pend := .sbarRel d r s.now })
    else u
  | _, _ => u

theorem exec_pkgBarrierRelease {id gen due r : Nat}
    (h : s.pkg.rels.find? (fun x => x.1 = id && decide (x.2.2.1 ≤ s.now)) = some (id, gen, due, r)) :
    exec (.pkgBarrierRelease id) s = .next
      (let t := (s.modPkg (fun p => { p with rels := p.rels.erase (id, gen, due, r) })).setBar 5 0 id { s.bar 5 0 id with stamp := r };
        t.slots.foldl (releaseStep s id gen r) t) := by
  change execPkgBarrierRelease id s = _
  unfold execPkgBarrierRelease
  rw [h]
  rfl

section
variable {id gen r : Nat} {u : State}

theorem setSlot_parts (c k : Nat) (x : Slot) : SameButChains u (u.setSlot c k x) := ⟨rfl, fun _ => rfl⟩
theorem modSlot_parts (c k : Nat) (f : Slot → Slot) : SameButChains u (u.modSlot c k f) := setSlot_parts ..

theorem fill_parts (c k : Nat) (d : Reg) (v : Word) : SameButChains u (u.fill c k d v) := by
  unfold State.fill
  split
  · exact SameButChains.refl u
  · exact (setSlot_parts c k _).trans (SameButChains.setLatch c k)

theorem stampFill_parts (c k : Nat) (d : Reg) : SameButChains u (u.stampFill c k d r) := (modSlot_parts c k _).trans (fill_parts c k d _)

/-- What a step of the release can do: nothing; change the slot of its entry; answer it; or give it the stamp where it is stopped. -/
theorem releaseStep_cases (p : Nat × Slot) :
    let c := p.1 / 16
    let k := p.1 % 16
    releaseStep s id gen r u p = u ∨ (∃ f, releaseStep s id gen r u p = u.modSlot c k f) ∨
      (∃ d v, releaseStep s id gen r u p = u.answer c k d v) ∨ ∃ d, releaseStep s id gen r u p = u.stampFill c k d r := by
  unfold releaseStep
  dsimp only
  split
  case h_1 =>
    split
    · exact .inr (.inl ⟨_, rfl⟩)
    · exact .inl rfl
  case h_2 =>
    split_ifs
    · exact .inr (.inr (.inl ⟨_, _, rfl⟩))
    · exact .inr (.inl ⟨_, rfl⟩)
    · exact .inl rfl
  case h_3 =>
    split_ifs
    · exact .inr (.inr (.inr ⟨_, rfl⟩))
    · exact .inr (.inl ⟨_, rfl⟩)
    · exact .inl rfl
  case h_4 => exact .inl rfl

/-- A step of the release changes slots, queues and latches alone. -/
theorem releaseStep_parts (p : Nat × Slot) : SameButChains u (releaseStep s id gen r u p) := by
  obtain h | ⟨f, h⟩ | ⟨d, v, h⟩ | ⟨d, h⟩ := releaseStep_cases (s := s) (id := id) (gen := gen) (r := r) (u := u) p <;> rw [h]
  · exact SameButChains.refl u
  · exact modSlot_parts ..
  · exact (u.answer_answered ..).parts
  · exact stampFill_parts ..

theorem release_parts (l : List (Nat × Slot)) : SameButChains u (l.foldl (releaseStep s id gen r) u) := by
  induction l generalizing u with
  | nil => exact SameButChains.refl u
  | cons p l ih => exact (releaseStep_parts p).trans ih

/-! ### What the release leaves of one slot -/

variable {c k : Nat}

/-- A slot that waits in generation `gen` of package barrier `id`, parked, or stopped at an `sbar`. -/
def AwaitsRelease (id gen : Nat) (x : Slot) : Prop :=
  ∃ inst d, x.pend = .barrier 5 inst id gen d ∧ (x.st = .parked ∨ x.st = .stopped ∧ d.isSome = true)

/-- An entry of another slot leaves a slot as it is that waits for no setting of its latch. -/
theorem releaseStep_other {p : Nat × Slot} (hp : p.1 ≠ slotKey c k) (hx : Unlatched (u.slot c k)) :
    (releaseStep s id gen r u p).slot c k = u.slot c k := by
  have hkey : slotKey c k ≠ slotKey (p.1 / 16) (p.1 % 16) := by
    have h16 : slotKey (p.1 / 16) (p.1 % 16) = p.1 := Nat.div_add_mod p.1 16
    rw [h16]; exact hp.symm
  obtain h | ⟨f, h⟩ | ⟨d, v, h⟩ | ⟨d, h⟩ := releaseStep_cases (s := s) (id := id) (gen := gen) (r := r) (u := u) p <;> rw [h]
  · exact State.slot_setSlot_key _ _ _ hkey
  · exact slot_answer_other hx hkey d v
  · exact slot_stampFill_other hx hkey d r

/-- The entry of a slot that does not wait for the release changes nothing. -/
theorem releaseStep_idle {p : Nat × Slot} (hp : p.1 = slotKey c k) (hx : ¬AwaitsRelease id gen (u.slot c k)) :
    releaseStep s id gen r u p = u := by
  have hslot : u.slot (p.1 / 16) (p.1 % 16) = u.slot c k := slot_of_key ((Nat.div_add_mod p.1 16).trans hp) u
  unfold releaseStep
  dsimp only
  rw [hslot]
  split
  case h_1 hst hpend =>
    refine if_neg ?_
    rintro ⟨rfl, rfl⟩
    exact hx ⟨_, _, hpend, .inl hst⟩
  case h_2 hst hpend =>
    refine if_neg ?_
    rintro ⟨rfl, rfl⟩
    exact hx ⟨_, _, hpend, .inl hst⟩
  case h_3 hst hpend =>
    refine if_neg ?_
    rintro ⟨rfl, rfl⟩
    exact hx ⟨_, _, hpend, .inr ⟨hst, rfl⟩⟩
  case h_4 => rfl

/-- A slot that the release is done with: it waits neither for it nor for its latch. -/
def Released (x : Slot) : Prop := x.pend = .none ∨ ∃ d r due, x.pend = .sbarRel d r due

theorem Released.unlatched {x : Slot} (h : Released x) : Unlatched x := by
  unfold Unlatched
  obtain h | ⟨_, _, _, h⟩ := h <;> rw [h] <;> exact ⟨nofun, fun _ => nofun, fun _ => nofun⟩

theorem Released.not_awaits {x : Slot} (h : Released x) : ¬AwaitsRelease id gen x := by
  rintro ⟨_, _, hp, -⟩
  obtain h | ⟨_, _, _, h⟩ := h <;> rw [h] at hp <;> cases hp

theorem AwaitsRelease.unlatched {x : Slot} (h : AwaitsRelease id gen x) : Unlatched x := by
  obtain ⟨_, _, hp, -⟩ := h
  unfold Unlatched
  rw [hp]
  exact ⟨nofun, fun _ => nofun, fun _ => nofun⟩

/-- The release leaves a slot as it is that it is done with. -/
theorem release_keeps (l : List (Nat × Slot)) (hx : Released (u.slot c k)) :
    (l.foldl (releaseStep s id gen r) u).slot c k = u.slot c k := by
  induction l generalizing u with
  | nil => rfl
  | cons p l ih =>
    have hstep : (releaseStep s id gen r u p).slot c k = u.slot c k := by
      by_cases hp : p.1 = slotKey c k
      · rw [releaseStep_idle hp hx.not_awaits]
      · exact releaseStep_other hp hx.unlatched
    exact (ih (by rw [hstep]; exact hx)).trans hstep

/-- A slot that waits for the release is dealt with once, at its first entry of the table: what every such entry leaves, the release leaves. -/
theorem release_leaves {x y : Slot} (l : List (Nat × Slot)) (hl : ∃ p ∈ l, p.1 = slotKey c k) (hx : AwaitsRelease id gen x) (hy : Released y)
    (hstep : ∀ (v : State) (p : Nat × Slot), v.slot c k = x → v.now = u.now → p.1 = slotKey c k → (releaseStep s id gen r v p).slot c k = y)
    (hu : u.slot c k = x) : (l.foldl (releaseStep s id gen r) u).slot c k = y := by
  induction l generalizing u with
  | nil => obtain ⟨_, h, _⟩ := hl; cases h
  | cons p l ih =>
    rw [List.foldl_cons]
    by_cases hp : p.1 = slotKey c k
    · have hfirst := hstep u p hu rfl hp
      rw [release_keeps l (by rw [hfirst]; exact hy), hfirst]
    · have hnow : (releaseStep s id gen r u p).now = u.now := by rw [(releaseStep_parts p).1]
      obtain ⟨q, hq, hqk⟩ := hl
      obtain rfl | hq := List.mem_cons.1 hq
      · exact absurd hqk hp
      · refine ih ⟨q, hq, hqk⟩ (fun v p' hv hn => hstep v p' hv (hn.trans hnow)) ?_
        rw [releaseStep_other hp (by rw [hu]; exact hx.unlatched), hu]

/-- A slot that is not as at reset stands in the table. -/
theorem listed_of_ne_reset (h : s.slot c k ≠ Slot.reset) : ∃ p ∈ s.slots, p.1 = slotKey c k := by
  by_contra hno
  exact h (Tab.get_unlisted _ _ _ fun p hp e => hno ⟨p, hp, e⟩)

theorem AwaitsRelease.listed (h : AwaitsRelease id gen (s.slot c k)) : ∃ p ∈ s.slots, p.1 = slotKey c k := by
  refine listed_of_ne_reset fun e => ?_
  obtain ⟨_, _, hp, -⟩ := h
  rw [e] at hp
  cases hp

/-! ### The entry of a slot that waits -/

section
variable {inst : Nat} {d : Reg} {p : Nat × Slot} (hk : k < 16) (hp : p.1 = slotKey c k)
include hk hp

/-- What the step at an entry looks at. -/
theorem entry_place : p.1 / 16 = c ∧ p.1 % 16 = k := by unfold slotKey at hp; omega

/-- R182: a slot in `bar` goes on. -/
theorem releaseStep_bar (hst : (u.slot c k).st = .parked) (hpend : (u.slot c k).pend = .barrier 5 inst id gen none) :
    releaseStep s id gen r u p = u.modSlot c k Slot.wakeNext := by
  obtain ⟨hc, hk'⟩ := entry_place hk hp
  unfold releaseStep
  dsimp only
  rw [hc, hk', hst, hpend]
  exact if_pos ⟨rfl, rfl⟩

/-- R370: one in `sbar` whose die's E has passed the stamp goes on with it; any other waits for that. -/
theorem releaseStep_sbar (hst : (u.slot c k).st = .parked) (hpend : (u.slot c k).pend = .barrier 5 inst id gen (some d)) :
    releaseStep s id gen r u p =
      if r < s.earliest (dieOf c) then u.answer c k d (wrap r) else u.modSlot c k (fun x => { x with pend := .sbarRel d r s.now }) := by
  obtain ⟨hc, hk'⟩ := entry_place hk hp
  unfold releaseStep
  dsimp only
  rw [hc, hk', hst, hpend]
  exact if_pos ⟨rfl, rfl⟩

/-- R293: one that is stopped takes the stamp in the same way. -/
theorem releaseStep_stopped (hst : (u.slot c k).st = .stopped) (hpend : (u.slot c k).pend = .barrier 5 inst id gen (some d)) :
    releaseStep s id gen r u p =
      if r < s.earliest (dieOf c) then u.stampFill c k d r else u.modSlot c k (fun x => { x with pend := .sbarRel d r s.now }) := by
  obtain ⟨hc, hk'⟩ := entry_place hk hp
  unfold releaseStep
  dsimp only
  rw [hc, hk', hst, hpend]
  exact if_pos ⟨rfl, rfl⟩

end

/-! ### What the release leaves of a slot that waits -/

section
variable {inst : Nat} {d : Reg} {l : List (Nat × Slot)} (hk : k < 16) (hl : ∃ p ∈ l, p.1 = slotKey c k)
include hk hl

/-- R182: a slot in `bar` goes on. -/
theorem release_bar (hst : (u.slot c k).st = .parked) (hpend : (u.slot c k).pend = .barrier 5 inst id gen none) :
    (l.foldl (releaseStep s id gen r) u).slot c k = (u.slot c k).wakeNext := by
  refine release_leaves l hl ⟨_, _, hpend, .inl hst⟩ (.inl (wakeNext_pend _)) (fun v p hv _ hp => ?_) rfl
  rw [releaseStep_bar hk hp (by rw [hv, hst]) (by rw [hv, hpend]), State.slot_modSlot_self, hv]

/-- R370: a slot in `sbar` waits on while its die's E has not passed the stamp, else goes on with it. -/
theorem release_sbar (hst : (u.slot c k).st = .parked) (hpend : (u.slot c k).pend = .barrier 5 inst id gen (some d)) :
    (s.earliest (dieOf c) ≤ r → (l.foldl (releaseStep s id gen r) u).slot c k = { u.slot c k with pend := .sbarRel d r s.now }) ∧
    (r < s.earliest (dieOf c) → (l.foldl (releaseStep s id gen r) u).slot c k =
      (if d = 14 ∧ u.chained c k = true then u.slot c k else (u.slot c k).setReg d (wrap r)).wakeNext) := by
  refine ⟨fun hr => release_leaves l hl ⟨_, _, hpend, .inl hst⟩ (.inr ⟨_, _, _, rfl⟩) (fun v p hv _ hp => ?_) rfl,
    fun hr => release_leaves l hl ⟨_, _, hpend, .inl hst⟩ (.inl (wakeNext_pend _)) (fun v p hv _ hp => ?_) rfl⟩
  all_goals rw [releaseStep_sbar hk hp (by rw [hv, hst]) (by rw [hv, hpend])]
  · rw [if_neg (by omega), State.slot_modSlot_self, hv]
  · have hchain : v.chained c k = u.chained c k := by unfold State.chained; rw [hv]
    rw [if_pos hr, (v.answer_answered c k d (wrap r)).slot, hv, hchain]

/-- R293: a slot that is stopped at an `sbar` takes the stamp in the same way. -/
theorem release_stopped (hst : (u.slot c k).st = .stopped) (hpend : (u.slot c k).pend = .barrier 5 inst id gen (some d)) :
    (s.earliest (dieOf c) ≤ r → (l.foldl (releaseStep s id gen r) u).slot c k = { u.slot c k with pend := .sbarRel d r s.now }) ∧
    (r < s.earliest (dieOf c) → (l.foldl (releaseStep s id gen r) u).slot c k = (u.stampFill c k d r).slot c k) := by
  refine ⟨fun hr => release_leaves l hl ⟨_, _, hpend, .inr ⟨hst, rfl⟩⟩ (.inr ⟨_, _, _, rfl⟩) (fun v p hv _ hp => ?_) rfl,
    fun hr => release_leaves l hl ⟨_, _, hpend, .inr ⟨hst, rfl⟩⟩ (.inl (stampFill_leaves u c k d r).2.1) (fun v p hv hn hp => ?_) rfl⟩
  all_goals rw [releaseStep_stopped hk hp (by rw [hv, hst]) (by rw [hv, hpend])]
  · rw [if_neg (by omega), State.slot_modSlot_self, hv]
  · rw [if_pos hr, slot_stampFill, slot_stampFill, hv, hn]

end
end

/-! ## The statement on barriers -/

/-- R151, R152: what `bar` leaves that is not yet counted. -/
theorem bar_arrives {id : BitVec 6} {lv : BitVec 3} (h : PassesG s false [] none) (h6 : s.me.park ≠ 6) (hg : s.me.guardRec = none) :
    let ready := s.quiet s.curCore s.curSlot = true
    let t := if s.quiet s.curCore s.curSlot = false then s.parkRetry 4
      else if lv = 0 then s.arriveCore
      else if lv = 5 then s.park 6 (.barSent id.toNat none)
      else s.arriveAt lv.toNat id.toNat
    exec (.bar id lv) s = .next t ∧ (¬ready → t = s.parkRetry 4) ∧ (ready → lv = 5 → t = s.park 6 (.barSent id.toNat none)) ∧
      (ready → lv = 0 → t = s.arriveCore) ∧ (ready → lv ≠ 0 → lv ≠ 5 → t = s.arriveAt lv.toNat id.toNat) := by
  refine ⟨exec_bar_unguarded h h6 hg, fun hq => if_pos (Bool.eq_false_iff.2 hq), fun hq h5 => ?_, fun hq h0 => ?_, fun hq h0 h5 => ?_⟩
  · subst h5; rw [if_neg (by rw [hq]; decide), if_neg (by decide), if_pos rfl]
  · rw [if_neg (by rw [hq]; decide), if_pos h0]
  · rw [if_neg (by rw [hq]; decide), if_neg h0, if_neg h5]

theorem exec_bar_counted {id : BitVec 6} {lv : BitVec 3} (h : s.me.park = 6) :
    exec (.bar id lv) s = .next (s.barAgain lv.toNat id.toNat none) := by
  change execBar id lv s = _
  exact if_pos h

theorem bar_guarded {id : BitVec 6} {lv : BitVec 3} {r : GuardRec} (h : PassesG s false [] none) (h6 : s.me.park ≠ 6) (hg : s.me.guardRec = some r) :
    ∃ t, exec (.bar id lv) s = .next t ∧ GuardStops s t r := by
  obtain ⟨t, ht, hstops⟩ := guardStop_stops hg
  exact ⟨t, by rw [exec_bar h h6, ht], hstops⟩

/-- R350, R370: the release of a package barrier. -/
theorem pkgBarrierRelease_leaves {id gen due r : Nat}
    (h : s.pkg.rels.find? (fun x => x.1 = id && decide (x.2.2.1 ≤ s.now)) = some (id, gen, due, r)) :
    ∃ t, exec (.pkgBarrierRelease id) s = .next t ∧ t.pkg.rels = s.pkg.rels.erase (id, gen, due, r) ∧ t.mem = s.mem ∧
      t.bar 5 0 id = { s.bar 5 0 id with stamp := r } ∧
      (∀ c k inst d, k < 16 → (s.slot c k).st = .stopped → (s.slot c k).pend = .barrier 5 inst id gen (some d) → (t.slot c k).st = .stopped ∧
        (clkE s (dieOf c) ≤ r → t.slot c k = { s.slot c k with pend := .sbarRel d r s.now }) ∧
        (r < clkE s (dieOf c) → (t.slot c k).pend = .none ∧ (t.slot c k).stampIn = true ∧
          (d ≠ 0 → (s.slot c k).wbDue ≤ s.now → (t.slot c k).reg d = BitVec.ofNat 64 r))) ∧
      ∀ c k inst, k < 16 → (s.slot c k).st = .parked →
        ((s.slot c k).pend = .barrier 5 inst id gen none → t.slot c k = (s.slot c k).wakeNext) ∧
        (∀ d, (s.slot c k).pend = .barrier 5 inst id gen (some d) →
          (clkE s (dieOf c) ≤ r → t.slot c k = { s.slot c k with pend := .sbarRel d r s.now }) ∧
          (r < clkE s (dieOf c) → t.slot c k =
            (if d = 14 ∧ s.chained c k = true then s.slot c k else (s.slot c k).setReg d (BitVec.ofNat 64 r)).wakeNext)) := by
  refine ⟨_, exec_pkgBarrierRelease h, ?_⟩
  dsimp only
  generalize hu : (s.modPkg (fun p => { p with rels := p.rels.erase (id, gen, due, r) })).setBar 5 0 id { s.bar 5 0 id with stamp := r } = u
  have hslots : u.slots = s.slots := by rw [← hu]; rfl
  have hslot (c k : Nat) : u.slot c k = s.slot c k := by unfold State.slot; rw [hslots]
  have hchain (c k : Nat) : u.chained c k = s.chained c k := by unfold State.chained; rw [hslot]
  have hnow : u.now = s.now := by rw [← hu]; rfl
  have hrels : u.pkg.rels = s.pkg.rels.erase (id, gen, due, r) := by rw [← hu]; rfl
  have hmem : u.mem = s.mem := by rw [← hu]; rfl
  have hbar : u.bar 5 0 id = { s.bar 5 0 id with stamp := r } := by rw [← hu]; exact bar_setBar_self ..
  have hparts := (release_parts (s := s) (id := id) (gen := gen) (r := r) (u := u) u.slots).1
  refine ⟨by rw [hparts]; exact hrels, by rw [hparts]; exact hmem, by rw [hparts]; exact hbar, fun c k inst d hk hst hp => ?_,
    fun c k inst hk hst => ⟨fun hp => ?_, fun d hp => ?_⟩⟩
  · have hl : ∃ p ∈ u.slots, p.1 = slotKey c k := by
      rw [hslots]; exact AwaitsRelease.listed (id := id) (gen := gen) ⟨_, _, hp, .inr ⟨hst, rfl⟩⟩
    obtain ⟨hwait, htake⟩ := release_stopped (s := s) (r := r) hk hl (by rw [hslot, hst]) (by rw [hslot, hp])
    obtain ⟨hst', hpend, hin, hreg⟩ := stampFill_leaves u c k d r
    rw [hslot, hnow] at hreg
    rw [hslot] at hst' hwait
    by_cases hr : r < s.earliest (dieOf c)
    · rw [htake hr]
      exact ⟨hst'.trans hst, fun hle => absurd hr (Nat.not_lt.2 hle), fun _ => ⟨hpend, hin, hreg⟩⟩
    · rw [hwait (Nat.not_lt.1 hr)]
      exact ⟨hst, fun _ => rfl, fun hlt => absurd hlt hr⟩
  · have hl : ∃ p ∈ u.slots, p.1 = slotKey c k := by
      rw [hslots]; exact AwaitsRelease.listed (id := id) (gen := gen) ⟨_, _, hp, .inl hst⟩
    rw [release_bar hk hl (by rw [hslot, hst]) (by rw [hslot, hp]), hslot]
  · have hl : ∃ p ∈ u.slots, p.1 = slotKey c k := by
      rw [hslots]; exact AwaitsRelease.listed (id := id) (gen := gen) ⟨_, _, hp, .inl hst⟩
    have hsbar := release_sbar (s := s) (r := r) hk hl (by rw [hslot, hst]) (by rw [hslot, hp])
    rw [hslot, hchain] at hsbar
    exact hsbar

/-- Settles O27: arrivals that count, the release of a generation, and the release of a package barrier entry by entry of the table of slots. -/
theorem hardwareBarriersCountAndRelease : Obligations.HardwareBarriersCountAndRelease := by
  refine ⟨fun s id lv _ h h6 hg _ => ?_, fun s id lv r _ h h6 hg => bar_guarded h h6 hg, fun s id lv h6 => ⟨_, exec_bar_counted h6, ?_, ?_⟩,
    fun s c k id d hst hp => ⟨_, exec_pkgBarrierArrival hst, ?_⟩, fun s id gen due r h => pkgBarrierRelease_leaves h⟩
  · obtain ⟨he, hwait, hpkg, hcore, hat⟩ := bar_arrives (id := id) (lv := lv) h h6 hg
    refine ⟨_, he, fun hq => ?_, fun hq h5 => ?_, fun hq h0 h5 hlt => ?_, fun hq h0 h5 hle => ?_, fun hq h0 hlt hst => ?_,
      fun hq h0 hle hst => ?_⟩
    · rw [hwait hq]; exact s.parkRetry_parked 4
    · rw [hpkg hq h5]; exact s.park_parked 6 _
    · rw [hat hq h0 h5]; exact arriveAt_parks hlt
    · rw [hat hq h0 h5]
      obtain ⟨hbar, hmem, hst, hpark, hpc, hwake, hkeep⟩ := arriveAt_releases hle
      exact ⟨hbar, hmem, hst, hpark, hpc, fun c k _ => hwake c k, fun c k _ => hkeep c k⟩
    · rw [hcore hq h0]; exact arriveCore_parks hlt hst
    · rw [hcore hq h0]
      obtain ⟨hst', hpark, hpc, harr, hgen, hmem, hwake, hkeep⟩ := arriveCore_releases hle hst
      exact ⟨hst', hpark, hpc, harr, hgen, hmem, fun c k _ => hwake c k, fun c k _ => hkeep c k⟩
  · intro hgen; rw [barAgain_parks hgen]; exact s.park_parked 6 _
  · intro hgen; exact barAgain_goesOn hgen
  · obtain ⟨hslot, hfew, hall⟩ := countArrival_counts hp
    rw [hslot]
    exact ⟨rfl, bgen_setBgen _ _, hst, hfew, hall⟩

end Sys2Proof.Threads

/-!
As-of loads at their home, and the stamped barrier `sbar` (R365, R366, R370).
-/

namespace Sys2Proof.Threads
open Sys2Proof Sys2Proof.Machine Sys2Proof.Claims Sys2Proof.Scalar Sys2Proof.Vectors

variable {s : State}

theorem widened_iff (s : State) (d : Nat) : s.widened d = true ↔ Widened s d := decide_eq_true_iff

theorem earliest_eq_clkE (s : State) (d : Nat) : s.earliest d = clkE s d := rfl

/-! ## As-of loads -/

section
variable {c k stamp : Nat} {d : Reg} {va : Word} {l : Loc}

theorem exec_ldasArrival (hst : (s.slot c k).st = .parked) (hp : (s.slot c k).pend = .ldas d va l stamp false)
    (hlost : s.lostPlace l va = none) : exec (.ldasArrival c k) s = .next
      (if s.widened (s.homeClockDie l) = true then s.takeFault c k .widen
      else s.modSlot c k (fun x => { x with pend := .ldas d va l stamp true })) := by
  change execLdasArrival c k s = _
  unfold execLdasArrival
  rw [hst, hp]
  dsimp only
  rw [hlost]
  dsimp only
  split <;> rfl

/-- The versions of a line at or below a stamp. -/
def versionsTo (s : State) (line stamp : Nat) : List Version := (s.versions line).filter (fun v => decide (v.stamp ≤ stamp))

theorem exec_asOfAnswer (hst : (s.slot c k).st = .parked) (hp : (s.slot c k).pend = .ldas d va l stamp true)
    (hlost : s.lostPlace l va = none) : exec (.asOfAnswer c k) s = .next
      (if (stamp + (s.die (s.homeClockDie l)).dlate < s.earliest (s.homeClockDie l) && !s.heldUpTo (l.key / 64) stamp) = true then
        match (versionsTo s (l.key / 64) stamp).getLast? with
        | none => s.takeFault c k .oldstamp va
        | some v =>
          if s.badWord l.key = true then s.takeFault c k .data (wrap (va.toNat / 8 * 8)) 0
          else (s.modPkg (fun p => { p with
              asOf := Tab.set 0 p.asOf (l.key / 64) (Nat.max (Tab.get 0 p.asOf (l.key / 64)) (stamp + 1)) })).answer c k d
            (v.wordAs (s.cipherKey c) l.key)
      else s) := by
  change execAsOfAnswer c k s = _
  unfold execAsOfAnswer
  rw [hst, hp]
  dsimp only
  rw [hlost]
  dsimp only
  split
  · unfold versionsTo
    cases ((s.versions (l.key / 64)).filter (fun v => decide (v.stamp ≤ stamp))).getLast?
    · rfl
    · dsimp only
      split <;> rfl
  · rfl

/-- What an answer leaves of the stamps answered so far (R366). -/
theorem asOf_answer (s : State) (c k line stamp : Nat) (d : Reg) (v : Word) :
    let t := (s.modPkg (fun p => { p with asOf := Tab.set 0 p.asOf line (Nat.max (Tab.get 0 p.asOf line) (stamp + 1)) })).answer c k d v
    Answered { s with pkg := { s.pkg with asOf := t.pkg.asOf } } t c k d v ∧
      ∀ m, Tab.get 0 t.pkg.asOf m = if m = line then max (Tab.get 0 s.pkg.asOf m) (stamp + 1) else Tab.get 0 s.pkg.asOf m := by
  have hans := State.answer_answered (s.modPkg (fun p => { p with
    asOf := Tab.set 0 p.asOf line (Nat.max (Tab.get 0 p.asOf line) (stamp + 1)) })) c k d v
  have hpkg := congrArg State.pkg hans.parts.1
  dsimp only at hpkg ⊢
  rw [hpkg]
  refine ⟨hans, fun m => ?_⟩
  refine (Tab.get_set 0 _ _ _ _).trans ?_
  split
  · rename_i h; rw [h]
  · rfl

/-- R365, R366: an as-of load that waits for its answer. -/
theorem asOfAnswer_leaves (hst : (s.slot c k).st = .parked) (hp : (s.slot c k).pend = .ldas d va l stamp true)
    (hlost : s.lostPlace l va = none) :
    let h := s.homeClockDie l
    let ready := stamp + (s.die h).dlate < clkE s h ∧ s.heldUpTo (l.key / 64) stamp = false
    let below := versionsTo s (l.key / 64) stamp
    ∃ t, exec (.asOfAnswer c k) s = .next t ∧
      (¬ready → t = s) ∧
      (ready → below = [] → Faulted s t c k 25 va 0 false) ∧
      (ready → ∀ v, below.getLast? = some v →
        (s.badWord l.key = true → Faulted s t c k 27 (BitVec.ofNat 64 (va.toNat / 8 * 8)) 0 false) ∧
        (s.badWord l.key = false → Answered { s with pkg := { s.pkg with asOf := t.pkg.asOf } } t c k d (v.wordAs (s.cipherKey c) l.key) ∧
          ∀ m, Tab.get 0 t.pkg.asOf m = if m = l.key / 64 then max (Tab.get 0 s.pkg.asOf m) (stamp + 1) else Tab.get 0 s.pkg.asOf m)) := by
  have hready : (stamp + (s.die (s.homeClockDie l)).dlate < s.earliest (s.homeClockDie l) && !s.heldUpTo (l.key / 64) stamp) = true ↔
      stamp + (s.die (s.homeClockDie l)).dlate < clkE s (s.homeClockDie l) ∧ s.heldUpTo (l.key / 64) stamp = false := by
    rw [Bool.and_eq_true, decide_eq_true_eq, Bool.not_eq_true']; rfl
  refine ⟨_, exec_asOfAnswer hst hp hlost, fun hr => if_neg (mt hready.1 hr), fun hr hbelow => ?_, fun hr v hv => ⟨fun hb => ?_, fun hb => ?_⟩⟩
  · rw [if_pos (hready.2 hr), hbelow]; exact s.takeFault_faulted c k .oldstamp va 0 false
  · rw [if_pos (hready.2 hr), hv]
    dsimp only
    rw [if_pos hb]
    exact s.takeFault_faulted c k .data _ 0 false
  · rw [if_pos (hready.2 hr), hv]
    dsimp only
    rw [if_neg (by rw [hb]; decide)]
    exact asOf_answer s c k _ stamp d _

end

/-! ## `sbar` -/

section
variable {d : Reg} {id : BitVec 6}

theorem exec_sbar (h : PassesG s false [] (some d)) (h6 : s.me.park ≠ 6) : exec (.sbar d id) s = .next
    (match s.guardStop with
      | some u => u
      | none =>
        if s.widened (dieOf s.curCore) = true then s.fault .widen
        else if s.quiet s.curCore s.curSlot = false then s.parkRetry 4
        else (s.park 6 (.barSent id.toNat (some d))).modMe (fun x => { x with stampIn := false })) := by
  change execSbar d id s = _
  unfold execSbar
  rw [if_neg h6]
  exact State.issue_passes _ h

theorem exec_sbar_counted (h : s.me.park = 6) : exec (.sbar d id) s = .next (s.barAgain 5 id.toNat (some d)) := by
  change execSbar d id s = _
  exact if_pos h

/-- A slot that parks and then drops what an earlier stamp has left. -/
theorem park_modMe_parked (n : Nat) (p : Pend) {f : Slot → Slot}
    (hcomm : ∀ x n p, f (Slot.parkFor x n p) = (f x).parkFor n p) : Parked (s.modMe f) ((s.park n p).modMe f) n p := by
  have hme : ((s.park n p).modMe f).me = ((s.modMe f).me).parkFor n p := by
    rw [State.me_modMe, State.park, State.me_modMe, State.me_modMe, hcomm]
  refine ⟨by rw [hme]; rfl, by rw [hme]; exact Slot.parkFor_park .., fun i hi hn => by rw [hme]; exact Slot.parkFor_sw _ n p i hi hn,
    by rw [hme]; rfl, by rw [hme]; rfl, rfl, fun c k o => ?_⟩
  have ho : s.other c k := o
  rw [State.slot_modMe_other _ ho, State.slot_modMe_other _ (show (s.park n p).other c k from o), State.park, State.slot_modMe_other _ ho]

/-- R370: an `sbar` that is not yet counted. -/
theorem sbar_arrives (h : PassesG s false [] (some d)) (h6 : s.me.park ≠ 6) (hg : s.me.guardRec = none) :
    ∃ t, exec (.sbar d id) s = .next t ∧
      (Widened s (dieOf s.curCore) → Stops s t 26 0 0) ∧
      (¬Widened s (dieOf s.curCore) → s.quiet s.curCore s.curSlot = false → Parked s t 4 .retry) ∧
      (¬Widened s (dieOf s.curCore) → s.quiet s.curCore s.curSlot = true →
        Parked (s.modMe (fun x => { x with stampIn := false })) t 6 (.barSent id.toNat (some d))) := by
  refine ⟨_, (exec_sbar h h6).trans (by rw [guardStop_none hg]), fun hw => ?_, fun hw hq => ?_, fun hw hq => ?_⟩
  · rw [if_pos ((widened_iff _ _).2 hw)]; exact s.fault_stops .widen 0 0
  · rw [if_neg (mt (widened_iff _ _).1 hw), if_pos hq]; exact s.parkRetry_parked 4
  · rw [if_neg (mt (widened_iff _ _).1 hw), if_neg (by rw [hq]; decide)]
    exact park_modMe_parked 6 _ (fun _ _ _ => rfl)

/-- R153, R370: a counted `sbar` whose generation is released. -/
theorem barAgain_sbar {n : Nat} (h : s.me.bgen ≠ decide (s.currentGen 5 0 n % 2 = 1)) :
    s.barAgain 5 n (some d) =
      if s.me.stampIn = true then goesOn s
      else if (s.bar 5 0 n).stamp < clkE s (dieOf s.curCore) then goesOn (s.result s.curCore s.curSlot d (wrap (s.bar 5 0 n).stamp))
      else s.park 6 (.sbarRel d (s.bar 5 0 n).stamp s.now) :=
  if_neg (mt sameGeneration_iff.1 h)

/-- What the result of the slot whose turn it is leaves of it. -/
theorem result_me (s : State) (d : Reg) (v : Word) :
    (s.result s.curCore s.curSlot d v).me = if d = 14 ∧ s.onChain = true then s.me else s.me.setReg d v := by
  unfold State.result
  by_cases h : d = 14 ∧ s.onChain = true
  · rw [if_pos h, if_pos (by obtain ⟨h1, h2⟩ := h; unfold State.onChain at h2; simp [h1, h2])]
    exact s.chainPush_me v s.now
  · rw [if_neg h, if_neg (by unfold State.onChain at h; simpa using h)]
    exact State.me_modMe ..

theorem goesOn_me (t : State) : (goesOn t).me = { (t.me.setPark 0).advance with stampIn := false } := State.me_modMe ..

/-- R370: one that takes its stamp at its word. -/
theorem goesOn_result (s : State) (d : Reg) (r : Nat) :
    let t := goesOn (s.result s.curCore s.curSlot d (wrap r))
    t.me.st = s.me.st ∧ t.me.park = 0 ∧ t.me.pc = s.me.advance.pc ∧
      (∀ n, ¬(d = 14 ∧ s.onChain = true) → t.me.reg n = if n = d ∧ d ≠ 0 then BitVec.ofNat 64 r else s.me.reg n) := by
  dsimp only
  rw [goesOn_me, result_me]
  generalize hx : (if d = 14 ∧ s.onChain = true then s.me else s.me.setReg d (wrap r)) = x
  have hst : x.st = s.me.st := by rw [← hx]; split <;> simp
  have hpc : x.pc = s.me.pc := by rw [← hx]; split <;> simp
  have hsw : x.sw = s.me.sw := by rw [← hx]; split <;> simp
  refine ⟨(Slot.advance_st _).trans hst, (park_advance _).trans (park_setPark x 0), ?_, fun n hn => ?_⟩
  · exact advance_pc_congr hpc fun i _ _ => (bit_setPark_sw x 0 (by omega)).trans (by rw [hsw])
  · refine (Slot.reg_advance (x.setPark 0) n).trans ?_
    rw [Slot.reg_setPark, ← hx, if_neg hn, Slot.reg_setReg]; rfl

end

/-! ### A slot that waits for its die's E (R370) -/

section
variable {c k r due : Nat} {d : Reg}

theorem exec_sbarRelease_parked (hst : (s.slot c k).st = .parked) (hp : (s.slot c k).pend = .sbarRel d r due) :
    exec (.sbarRelease c k) s = .next (if r < clkE s (dieOf c) then s.answer c k d (wrap r) else s) := by
  change execSbarRelease c k s = _
  unfold execSbarRelease
  rw [hst, hp]
  dsimp only
  rw [earliest_eq_clkE]
  split <;> rfl

theorem exec_sbarRelease_stopped (hst : (s.slot c k).st = .stopped) (hp : (s.slot c k).pend = .sbarRel d r due) :
    exec (.sbarRelease c k) s = .next (if r < clkE s (dieOf c) then s.stampFill c k d r else s) := by
  change execSbarRelease c k s = _
  unfold execSbarRelease
  rw [hst, hp]
  dsimp only
  rw [earliest_eq_clkE]
  split <;> rfl

end

/-- Settles O30: what an as-of load meets at its home, and an `sbar` at its word and at its release. -/
theorem asOfLoadsAndStampedBarriers : Obligations.AsOfLoadsAndStampedBarriers := by
  refine ⟨fun s c k stamp d va l hst hp hlost => ⟨_, exec_ldasArrival hst hp hlost, fun hw => ?_, fun hw => ?_⟩,
    fun s c k stamp d va l hst hp hlost => asOfAnswer_leaves hst hp hlost, fun s d id r h h6 hg => ?_, fun s d id h h6 hg => sbar_arrives h h6 hg,
    fun s d id h6 => ⟨_, exec_sbar_counted h6, fun hgen => ?_, fun hgen hin => ?_, fun hgen hin => ⟨fun hr => ?_, fun hr => ?_⟩⟩,
    fun s c k r due d hst hp => ⟨_, exec_sbarRelease_stopped hst hp, fun hr => if_neg (Nat.not_lt.2 hr), fun hr => ?_⟩,
    fun s c k r due d hst hp => ⟨_, exec_sbarRelease_parked hst hp, fun hr => if_neg (Nat.not_lt.2 hr), fun hr => ?_⟩⟩
  · rw [if_pos ((widened_iff _ _).2 hw)]; exact s.takeFault_faulted c k .widen 0 0 false
  · exact if_neg (mt (widened_iff _ _).1 hw)
  · obtain ⟨t, ht, hstops⟩ := guardStop_stops hg
    exact ⟨t, by rw [exec_sbar h h6, ht], hstops⟩
  · rw [barAgain_parks hgen]; exact s.park_parked 6 _
  · rw [barAgain_sbar hgen, if_pos hin]; rfl
  · rw [barAgain_sbar hgen, if_neg (by rw [hin]; decide), if_neg (Nat.not_lt.2 hr)]; exact s.park_parked 6 _
  · rw [barAgain_sbar hgen, if_neg (by rw [hin]; decide), if_pos hr]; exact goesOn_result s d _
  · rw [if_pos hr]
    obtain ⟨hst', hpend, hin, hreg⟩ := stampFill_leaves s c k d r
    exact ⟨hst'.trans hst, hpend, hin, hreg⟩
  · rw [if_pos hr]; exact s.answer_answered c k d _

end Sys2Proof.Threads

/-!
Task records and register writes that a thread sends (R148, R157, R158, R175, R179, R298).
-/

namespace Sys2Proof.Threads
open Sys2Proof Sys2Proof.Machine Sys2Proof.Claims Sys2Proof.Scalar Sys2Proof.Vectors

variable {s : State}

/-! ## Registers that are carried (R298) -/

section
variable {x : Slot} {n : Nat}

theorem badCarried_whole (h : CarriesWhole x n) : x.badCarried n = none := by
  unfold Slot.badCarried
  rw [Option.map_eq_none_iff, List.find?_eq_none]
  intro i hi
  rw [List.mem_range'_1] at hi
  rw [h i hi.1 (by omega)]
  decide

theorem badCarried_first {i : Nat} (h : FirstBadG x n i) : x.badCarried n = some (BitVec.ofNat 64 (256 + i)) := by
  obtain ⟨hlo, hhi, hbad, hfirst⟩ := h
  have hfind : (List.range' 1 n).find? (fun i => x.badG.getLsbD i) = some i := by
    rw [List.find?_range'_eq_some]
    exact ⟨hbad, List.mem_range'_1.2 ⟨hlo, by omega⟩, fun j hj hji => by rw [hfirst j hj hji]; rfl⟩
  unfold Slot.badCarried
  rw [hfind]
  rfl

end

/-! ## `spawnq` -/

theorem ctlOk_iff (w : Word) : ctlOk w = true ↔ ControlWord w := by
  unfold ctlOk ControlWord
  simp only [Bool.and_eq_true, decide_eq_true_eq, and_assoc]

/-- The record as the model makes it: `full` bit n - 1 is the state of gn. -/
def sentRecord (s : State) (a b c : Reg) (r : KernRef) : RecFlight :=
  { recordOf s a b c r with task := { (recordOf s a b c r).task with full := (s.me.full >>> 1).truncate 8 } }

theorem sentRecord_eq (s : State) (a b c : Reg) (r : KernRef) : sentRecord s a b c r = recordOf s a b c r := by
  have hfull : (s.me.full >>> 1).truncate 8 = BitVec.extractLsb' 1 8 s.me.full := by
    apply BitVec.eq_of_getLsbD_eq
    intro i hi
    rw [BitVec.getLsbD_extractLsb', BitVec.truncate_eq_setWidth, BitVec.getLsbD_setWidth, BitVec.getLsbD_ushiftRight]
  unfold sentRecord
  rw [hfull]
  rfl

/-- The machine as a record has left: the slot waits for it to be accepted. -/
def taskSent (s : State) (srcs : List Reg) (f : RecFlight) : State :=
  (((s.take srcs).modCore s.curCore (fun x => { x with seq := x.seq + 1 })).modPkg (fun p => { p with recs := p.recs ++ [f] })).park 3 .taskSent

theorem exec_spawnq {a b c : Reg} (h : PassesG s false [a, b, c] none) : exec (.spawnq a b c) s = .next
    (match s.entryKernel s.me (s.src a) with
      | none => s.fault .entry 0 (s.src a)
      | some r =>
        if ctlOk (s.src b) = false then s.fault .ctlword 0 (s.src b)
        else
        match s.me.badCarried 8 with
        | some f => s.fault .data 0 f
        | none =>
          if s.quiet s.curCore s.curSlot = false then s.parkRetry 3
          else taskSent s [a, b, c] (sentRecord s a b c r)) := by
  change execSpawnq a b c s = _
  unfold execSpawnq
  refine (State.issue_passes _ h).trans ?_
  dsimp only
  cases s.entryKernel s.me (s.src a) with
  | none => rfl
  | some r =>
    dsimp only
    split
    · rfl
    · cases s.me.badCarried 8 with
      | some f => rfl
      | none =>
        dsimp only
        split <;> rfl

/-- R175: what a record that leaves changes. -/
theorem taskSent_leaves (s : State) (srcs : List Reg) (f : RecFlight) :
    let t := taskSent s srcs f
    t.me.st = .parked ∧ t.me.park = 3 ∧ t.me.pend = .taskSent ∧ t.me.pc = s.me.pc ∧ Popped s t srcs ∧
      t.pkg = { s.pkg with recs := s.pkg.recs ++ [f] } ∧ (t.core s.curCore).seq = (s.core s.curCore).seq + 1 ∧ t.mem = s.mem := by
  have hslot := s.take_me srcs
  have hcore := Formats.core_take_own s srcs
  have hqueue := s.take_popped srcs
  have hpkg := s.take_pkg srcs
  have hmem := s.take_mem srcs
  have hc := s.take_curCore srcs
  unfold taskSent
  generalize s.take srcs = u at *
  have hme : ((u.modCore s.curCore (fun x => { x with seq := x.seq + 1 })).modPkg (fun p => { p with recs := p.recs ++ [f] })).me = u.me := rfl
  have hchain (c k : Nat) : (u.modCore s.curCore (fun x => { x with seq := x.seq + 1 })).chainOut c k = u.chainOut c k := by
    unfold State.chainOut
    rw [State.core_modCore]
    split
    · rename_i h; rw [h]
    · rfl
  have hpark := State.park_parked
    ((u.modCore s.curCore (fun x => { x with seq := x.seq + 1 })).modPkg (fun p => { p with recs := p.recs ++ [f] })) 3 .taskSent
  have hrest := hpark.rest
  rw [hme, hslot] at hrest
  refine ⟨hpark.st, hpark.park, hpark.pend, by rw [hrest], fun c k => (hchain c k).trans (hqueue c k), ?_, ?_, hmem⟩
  · rw [← hpkg]; rfl
  · have hself := State.core_modCore_self u s.curCore (fun x => { x with seq := x.seq + 1 })
    exact (congrArg Core.seq hself).trans (congrArg (fun y => y.seq + 1) hcore)

theorem spawnq_leaves {a b c : Reg} (h : PassesG s false [a, b, c] none) :
    ∃ t, exec (.spawnq a b c) s = .next t ∧
      (s.entryKernel s.me (s.src a) = none → Stops s t 15 0 (s.src a)) ∧
      (∀ r, s.entryKernel s.me (s.src a) = some r →
        (¬ControlWord (s.src b) → Stops s t 16 0 (s.src b)) ∧
        (ControlWord (s.src b) → ∀ i, FirstBadG s.me 8 i → Stops s t 27 0 (BitVec.ofNat 64 (256 + i))) ∧
        (ControlWord (s.src b) → CarriesWhole s.me 8 → s.quiet s.curCore s.curSlot = false → Parked s t 3 .retry) ∧
        (ControlWord (s.src b) → CarriesWhole s.me 8 → s.quiet s.curCore s.curSlot = true → t = taskSent s [a, b, c] (recordOf s a b c r))) := by
  refine ⟨_, exec_spawnq h, fun hr => ?_, fun r hr => ?_⟩ <;> rw [hr] <;> dsimp only
  · exact s.fault_stops .entry 0 _
  · refine ⟨fun hc => ?_, fun hc i hi => ?_, fun hc hw hq => ?_, fun hc hw hq => ?_⟩
    · rw [if_pos (Bool.eq_false_iff.2 (mt (ctlOk_iff _).1 hc))]; exact s.fault_stops .ctlword 0 _
    all_goals rw [if_neg (by rw [(ctlOk_iff _).2 hc]; decide)]
    · rw [badCarried_first hi]; exact s.fault_stops .data 0 _
    · rw [badCarried_whole hw]; dsimp only; rw [if_pos hq]; exact s.parkRetry_parked 3
    · rw [badCarried_whole hw]; dsimp only; rw [if_neg (by rw [hq]; decide), sentRecord_eq]

/-! ## `rput` -/

/-- The write of a register that the slot whose turn it is sends. -/
def rputOf (s : State) (d a b : Reg) : RputFlight :=
  let tc := quadCore s.curCore (un s b / 16 % 4)
  ⟨s.curCore, s.curSlot, tc, un s b % 16, (s.slot tc (un s b % 16)).claims, s.me.tenant, d, s.src a⟩

theorem exec_rput {d a b : Reg} (h : PassesG s false [a, b] none) : exec (.rput d a b) s = .next
    (let tc := quadCore s.curCore (un s b / 16 % 4)
      if isCompute s.curCore = false then s.fault .target
      else if (s.core tc).owner ≠ (s.core s.curCore).owner then s.fault .target 0 (wrap tc)
      else if 4 ≤ (s.pkg.rputs.filter (fun r => r.core = s.curCore && r.slot = s.curSlot)).length then s.parkRetry 3
      else ((s.take [a, b]).modPkg (fun p => { p with rputs := p.rputs ++ [rputOf s d a b] })).advance) := by
  change execRput d a b s = _
  exact State.issue_passes _ h

/-- R179: what a write that leaves changes. -/
theorem rputSent_leaves (s : State) (srcs : List Reg) (f : RputFlight) :
    let t := ((s.take srcs).modPkg (fun p => { p with rputs := p.rputs ++ [f] })).advance
    t.me = s.me.advance ∧ Popped s t srcs ∧ t.mem = s.mem ∧ t.pkg = { s.pkg with rputs := s.pkg.rputs ++ [f] } := by
  have hme := s.take_me srcs
  have hqueue := s.take_popped srcs
  have hpkg := s.take_pkg srcs
  have hmem := s.take_mem srcs
  generalize s.take srcs = u at *
  refine ⟨?_, hqueue, hmem, by rw [← hpkg]; rfl⟩
  rw [State.advance_me, ← hme]
  rfl

/-! ### A write that arrives -/

section
variable {c k : Nat} {r : Reg} (v : Word)

theorem reg_setLatch (s : State) (c k : Nat) (q : Reg) : ((s.setLatch c k).slot c k).reg q = (s.slot c k).reg q := by
  obtain h | h | h := slot_setLatch_self s c k <;> rw [h]
  · exact Slot.reg_wakeNext _ q
  · exact Slot.reg_wakeNext _ q

theorem isFull_setLatch (s : State) (c k : Nat) (q : Reg) : ((s.setLatch c k).slot c k).isFull q = (s.slot c k).isFull q := by
  obtain h | h | h := slot_setLatch_self s c k <;> rw [h]
  · exact isFull_wakeNext _ q
  · exact isFull_wakeNext _ q

/-- R17, R18, R150: what a fill leaves. -/
theorem fill_leaves (hr : r ≠ 0) (hk : k < 16) :
    let x := s.slot c k
    let t := s.fill c k r v
    (t.slot c k).isFull r = true ∧
      (t.slot c k).reg r = (if s.now < x.wbDue ∧ x.wbRegs.getLsbD r.toNat = true then x.reg r else v) ∧
      (∀ q, q ≠ r → (t.slot c k).reg q = x.reg q) ∧
      (x.pend ≠ .latch → x.waitCyc ≠ s.now + 1 → t.latch c k = true) := by
  dsimp only
  have hslot := State.slot_setSlot_self s c k (filled (s.slot c k) s.now r v)
  have hnow : (s.setSlot c k (filled (s.slot c k) s.now r v)).now = s.now := rfl
  rw [fill_eq s c k v hr]
  generalize s.setSlot c k (filled (s.slot c k) s.now r v) = u at *
  refine ⟨by rw [isFull_setLatch, hslot, isFull_filled], ?_, fun q hq => ?_, fun hp hw => ?_⟩
  · rw [reg_setLatch, hslot, reg_filled]
    by_cases h : s.now < (s.slot c k).wbDue ∧ (s.slot c k).wbRegs.getLsbD r.toNat = true
    · rw [if_pos h, if_neg (fun e => e.2.2 h)]
    · rw [if_neg h, if_pos ⟨rfl, hr, h⟩]
  · rw [reg_setLatch, hslot, reg_filled, if_neg (fun e => hq e.1)]
  · exact latch_setLatch_self hk (by rw [hslot, filled_pend]; exact hp) (by rw [hslot, filled_waitCyc, hnow]; exact hw)

end

/-- R148, R179: what `rput` leaves. -/
theorem rput_leaves {d a b : Reg} (h : PassesG s false [a, b] none) :
    let tc := quadCore s.curCore (un s b / 16 % 4)
    let busy := 4 ≤ (s.pkg.rputs.filter (fun r => r.core = s.curCore && r.slot = s.curSlot)).length
    ∃ t, exec (.rput d a b) s = .next t ∧
      (isCompute s.curCore = false → Stops s t 12 0 0) ∧
      (isCompute s.curCore = true → (s.core tc).owner ≠ (s.core s.curCore).owner → Stops s t 12 0 (BitVec.ofNat 64 tc)) ∧
      (isCompute s.curCore = true → (s.core tc).owner = (s.core s.curCore).owner →
        (busy → Parked s t 3 .retry) ∧
        (¬busy → t = ((s.take [a, b]).modPkg (fun p => { p with rputs := p.rputs ++ [rputOf s d a b] })).advance)) := by
  have hcompute (hc : isCompute s.curCore = true) : ¬(isCompute s.curCore = false) := by rw [hc]; decide
  refine ⟨_, exec_rput h, fun hc => ?_, fun hc ho => ?_, fun hc ho => ⟨fun hb => ?_, fun hb => ?_⟩⟩ <;> dsimp only
  · rw [if_pos hc]; exact s.fault_stops .target 0 0
  · rw [if_neg (hcompute hc), if_pos ho]; exact s.fault_stops .target 0 _
  · rw [if_neg (hcompute hc), if_neg (not_not.2 ho), if_pos hb]; exact s.parkRetry_parked 3
  · rw [if_neg (hcompute hc), if_neg (not_not.2 ho), if_neg hb]

/-- Settles O25: what a task record and a register write change as they leave, and what a write fills that arrives. -/
theorem tasksAndRegistersAreSent : Obligations.TasksAndRegistersAreSent := by
  refine ⟨fun s a b c h => ?_, fun s d a b h => ?_, fun s c k r hr hh => ⟨_, exec_rputFill hr hh, ?_, fun hgone => ?_, fun hgone hd hk => ?_⟩⟩
  · obtain ⟨t, ht, hentry, hchecks⟩ := spawnq_leaves h
    refine ⟨t, ht, hentry, fun r hr => ?_⟩
    obtain ⟨hctl, hbad, hwait, hsent⟩ := hchecks r hr
    refine ⟨hctl, hbad, hwait, fun hc hw hq => ?_⟩
    rw [hsent hc hw hq]
    exact taskSent_leaves s _ _
  · obtain ⟨t, ht, hcore, howner, hsent⟩ := rput_leaves (d := d) h
    refine ⟨t, ht, hcore, howner, fun hc ho => ⟨(hsent hc ho).1, fun hb => ?_⟩⟩
    rw [(hsent hc ho).2 hb]
    exact rputSent_leaves s _ _
  · dsimp only
    split
    · rfl
    · by_cases hd : r.d = 0
      · rw [hd, fill_zero]; rfl
      · rw [(fill_parts r.tcore r.tslot r.d r.v).1]; rfl
  · dsimp only
    split
    · exact ⟨rfl, rfl⟩
    · rename_i hfound
      rw [hgone.resolve_left hfound]
      exact ⟨rfl, rfl⟩
  · dsimp only
    rw [if_neg hgone]
    exact fill_leaves (s := s.modPkg (fun p => { p with rputs := p.rputs.erase r })) r.v hd hk

end Sys2Proof.Threads

/-!
Slots that become FREE: `quit`, and a thread that moves to another core (R145, R146, R176, R177, R198, R298).
-/

namespace Sys2Proof.Threads
open Sys2Proof Sys2Proof.Machine Sys2Proof.Claims Sys2Proof.Scalar Sys2Proof.Vectors

variable {s : State}

/-! ## What a slot keeps that becomes FREE (R141, R176) -/

/-- Stores under way and registers are as they were. -/
def KeepsStores (x y : Slot) : Prop := y.buf = x.buf ∧ y.out = x.out ∧ y.g = x.g

theorem KeepsStores.refl (x : Slot) : KeepsStores x x := ⟨rfl, rfl, rfl⟩

theorem KeepsStores.trans {x y z : Slot} (h : KeepsStores x y) (g : KeepsStores y z) : KeepsStores x z :=
  ⟨g.1.trans h.1, g.2.1.trans h.2.1, g.2.2.trans h.2.2⟩

theorem KeepsStores.wakeNext (x : Slot) : KeepsStores x { x.wakeNext with resv := none } := ⟨x.wakeNext_buf, x.wakeNext_out, x.wakeNext_g⟩

/-- A step that leaves the stores and registers of slot k of core c, and every core. -/
structure KeepsSlot (s t : State) (c k : Nat) : Prop where
  slot : KeepsStores (s.slot c k) (t.slot c k)
  cores : t.cores = s.cores

section
variable {t u : State} {c k : Nat}

theorem KeepsSlot.of_parts (hs : t.slots = s.slots) (hc : t.cores = s.cores) : KeepsSlot s t c k :=
  ⟨by unfold State.slot; rw [hs]; exact KeepsStores.refl _, hc⟩

theorem KeepsSlot.trans (h : KeepsSlot s t c k) (g : KeepsSlot t u c k) : KeepsSlot s u c k := ⟨h.slot.trans g.slot, g.cores.trans h.cores⟩

theorem rawWrite_parts (s : State) (k n v : Nat) : (s.rawWrite k n v).slots = s.slots ∧ (s.rawWrite k n v).cores = s.cores := by
  rw [State.rawWrite_shape]
  exact ⟨rfl, rfl⟩

theorem setTag_parts {u : State} (h : u.slots = s.slots ∧ u.cores = s.cores) (key tag : Nat) :
    (u.setTag key tag).slots = s.slots ∧ (u.setTag key tag).cores = s.cores := h

theorem memStore_parts (s : State) (ck key size : Nat) (v : Word) :
    (s.memStore ck key size v).slots = s.slots ∧ (s.memStore ck key size v).cores = s.cores := by
  unfold State.memStore
  split
  · exact setTag_parts (rawWrite_parts ..) key ck
  · split
    · exact rawWrite_parts ..
    · exact setTag_parts (rawWrite_parts ..) key ck

/-- A reservation that is lost leaves stores and registers. -/
theorem loseResv_keeps (b : Option (Nat × Nat)) (key : Nat) : KeepsSlot s (s.loseResv b key) c k := by
  refine ⟨?_, rfl⟩
  unfold State.loseResv State.mapSlots State.slot
  rw [Tab.get_mapAll _ _ _ (fun _ => rfl)]
  generalize Tab.get Slot.reset s.slots (16 * c + k) = x
  dsimp only
  split
  · exact KeepsStores.refl x
  · split
    · split
      · exact KeepsStores.wakeNext x
      · exact KeepsStores.refl x
    · exact KeepsStores.refl x

theorem agentWrite_keeps (b : Option (Nat × Nat)) (ck key size : Nat) (v : Word) : KeepsSlot s (s.agentWrite b ck key size v) c k := by
  obtain ⟨hs, hc⟩ := memStore_parts s ck key size v
  exact (KeepsSlot.of_parts hs hc).trans (loseResv_keeps b key)

/-- R166: so does a completion record. -/
theorem postEvent_keeps (d ck : Nat) (tenant : BitVec 8) (q tag status : Nat) : KeepsSlot s (s.postEvent d ck tenant q tag status) c k := by
  unfold State.postEvent
  dsimp only
  have hpkg (u : State) (f : Pkg → Pkg) : KeepsSlot u (u.modPkg f) c k := KeepsSlot.of_parts rfl rfl
  have hfull (u : State) (a : Nat) : KeepsSlot u (u.setWordFull a true) c k := KeepsSlot.of_parts rfl rfl
  split
  · exact KeepsSlot.of_parts rfl rfl
  · split
    · exact hpkg s _
    · exact ((((hpkg s _).trans (agentWrite_keeps ..)).trans (hfull _ _)).trans (agentWrite_keeps ..)).trans (hfull _ _)

theorem chargeSlot_keeps : KeepsSlot s (s.chargeSlot c k) c k := by
  unfold State.chargeSlot
  split <;> exact KeepsSlot.of_parts rfl rfl

theorem freeFire_keeps (f : Option FireTag) : KeepsSlot s (s.freeFire f) c k := by
  cases f <;> exact KeepsSlot.of_parts rfl rfl

/-- R152: the count of the core's barrier, taken anew, leaves a slot that does not wait in it, and the core's window. -/
theorem checkCoreBar_leaves (hp : (s.slot c k).pend = .none) :
    (s.checkCoreBar c).slot c k = s.slot c k ∧ ((s.checkCoreBar c).core c).vmap = (s.core c).vmap := by
  unfold State.checkCoreBar
  dsimp only
  split
  · have hrel := slot_releaseBar_other (s := s) (c := c) (k := k) (level := 0) (inst := c) (id := 0) (gen := (s.core c).barGen)
      (by rw [hp]; nofun)
    exact ⟨hrel, (congrArg Core.vmap (State.core_modCore_self ..)).trans rfl⟩
  · exact ⟨rfl, rfl⟩

/-- A slot as it becomes FREE. -/
def freedSlot (y : Slot) : Slot :=
  { y with st := .free, pend := .none, popDue := false, resv := none, task := ⟨none, none⟩, guardRec := none, upcall := false }

/-- What a slot leaves once its record and its fire are done with. -/
theorem freed_leaves {v : State} (hv : KeepsSlot s v c k) :
    let t := (((v.freeFaultRecords c k).modSlot c k freedSlot).checkCoreBar c).idleKeys
    (∃ y, KeepsStores (s.slot c k) y ∧ t.slot c k = freedSlot y) ∧ (t.core c).vmap = (s.core c).vmap := by
  have hslot : ((v.freeFaultRecords c k).modSlot c k freedSlot).slot c k = freedSlot (v.slot c k) := State.slot_modSlot_self ..
  have hcore : ((v.freeFaultRecords c k).modSlot c k freedSlot).core c = s.core c := by
    have hcores : ((v.freeFaultRecords c k).modSlot c k freedSlot).cores = s.cores := hv.cores
    unfold State.core
    rw [hcores]
  have hbar := checkCoreBar_leaves (s := (v.freeFaultRecords c k).modSlot c k freedSlot) (c := c) (k := k) (by rw [hslot]; rfl)
  rw [hslot, hcore] at hbar
  exact ⟨⟨v.slot c k, hv.slot, hbar.1⟩, hbar.2⟩

/-- R176: a slot becomes FREE: what comes before leaves its stores and registers. -/
theorem vacate_leaves (s : State) (c k : Nat) (post final : Bool) :
    (∃ y, KeepsStores (s.slot c k) y ∧ (s.vacate c k post final).slot c k = freedSlot y) ∧
      ((s.vacate c k post final).core c).vmap = (s.core c).vmap := by
  unfold State.vacate
  refine freed_leaves ?_
  have hposted (p : Bool) (d ck : Nat) (tenant : BitVec 8) (q tag status : Nat) :
      KeepsSlot s (if p = true then (s.chargeSlot c k).postEvent d ck tenant q tag status else s.chargeSlot c k) c k := by
    cases p
    · exact chargeSlot_keeps
    · exact chargeSlot_keeps.trans (postEvent_keeps ..)
  cases (s.slot c k).task.ctl <;> cases final
  · exact chargeSlot_keeps
  · exact chargeSlot_keeps.trans (freeFire_keeps _)
  · exact hposted ..
  · exact (hposted ..).trans (freeFire_keeps _)

theorem freeSlot_freed (s : State) (c k : Nat) (post final : Bool) : Freed s (s.freeSlot c k post final) c k := by
  obtain ⟨⟨y, ⟨hbuf, hout, hg⟩, hslot⟩, hvmap⟩ := vacate_leaves (s.handlerEnds c k) c k post final
  have hwindow : ((s.handlerEnds c k).core c).vmap = (s.core c).vmap := by
    unfold State.handlerEnds State.endHolds
    rw [State.core_modCore_self, State.core_modCore_self]
  refine ⟨?_, ?_, ?_, ?_, hvmap.trans hwindow⟩ <;> rw [State.freeSlot, hslot]
  · rfl
  · rfl
  · exact ⟨hbuf, hout⟩
  · exact hg

end

/-! ## `quit` -/

theorem exec_quit (h : PassesG s false (if s.me.inline_ = true then [15] else []) none) : exec .quit s = .next
    (match s.guardStop with
      | some u => u
      | none =>
        if s.me.inline_ = true then
          if canonical (s.me.reg 15) = false then s.fault .addr (s.me.reg 15)
          else s.modMe (fun x => { x with sw := setBits x.sw 0 1 ((s.me.reg 15).toNat % 2), pc := pcAt (s.me.reg 15) })
        else s.freeSlot s.curCore s.curSlot true true) := by
  change execQuit s = _
  exact State.issue_passes _ h

/-- The inline bit of `k.sw` set to a number's lowest bit. -/
theorem inlineSw_setBits (x : Word) (v : Nat) : InlineSw x (setBits x 0 1 v) (decide (v % 2 = 1)) :=
  ⟨bit_setBits_one x v (by decide), fun i hi => bit_setBits_out x v (by omega)⟩

theorem bit_zero (v : Word) : bit v 0 = decide (v.toNat % 2 % 2 = 1) := by
  rw [Nat.mod_mod, ← Nat.testBit_zero]; rfl

/-- R145: an inline child returns. -/
theorem inlineReturn_wentOn (s : State) (v : Word) :
    let t := s.modMe (fun x => { x with sw := setBits x.sw 0 1 (v.toNat % 2), pc := pcAt v })
    ∃ sw, InlineSw s.me.sw sw (bit v 0) ∧ WentOn s t [] (pcDown v) sw := by
  have hw := s.take_wentOn [] (fun x => { x with sw := setBits x.sw 0 1 (v.toNat % 2), pc := pcAt v }) (fun _ => rfl)
  rw [take_nil] at hw
  rw [bit_zero, ← pcAt_eq_pcDown]
  exact ⟨_, inlineSw_setBits _ _, hw⟩

theorem quit_leaves (h : PassesG s false (if s.me.inline_ = true then [15] else []) none) :
    ∃ t, exec .quit s = .next t ∧
      (∀ r, s.me.guardRec = some r → GuardStops s t r) ∧
      (s.me.guardRec = none → s.me.inline_ = true → ¬Canonical (s.me.reg 15) → Stops s t 5 (s.me.reg 15) 0) ∧
      (s.me.guardRec = none → s.me.inline_ = true → Canonical (s.me.reg 15) → ∃ sw, InlineSw s.me.sw sw (bit (s.me.reg 15) 0) ∧
        WentOn s t [] (pcDown (s.me.reg 15)) sw) ∧
      (s.me.guardRec = none → s.me.inline_ = false → Freed s t s.curCore s.curSlot) := by
  refine ⟨_, exec_quit h, fun r hr => ?_, fun hg hi hc => ?_, fun hg hi hc => ?_, fun hg hi => ?_⟩
  · obtain ⟨t, ht, hstops⟩ := guardStop_stops hr
    rw [ht]; exact hstops
  all_goals rw [guardStop_none hg]; dsimp only
  · rw [if_pos hi, if_pos (Bool.eq_false_iff.2 (mt (canonical_iff _).1 hc))]; exact s.fault_stops .addr _ 0
  · rw [if_pos hi, if_neg (by rw [(canonical_iff _).2 hc]; decide)]; exact inlineReturn_wentOn s _
  · rw [if_neg (by rw [hi]; decide)]; exact freeSlot_freed ..

/-! ## `migr` -/

/-- R146: a thread may move that holds no window, no scratchpad and no chain, and does not run inline. -/
theorem bound_iff (x : Slot) : (x.vsize ≠ 0 || x.spad.isSome || x.chain || x.inline_) = true ↔
    ¬(x.vsize = 0 ∧ x.spad = none ∧ x.chain = false ∧ x.inline_ = false) := by
  have hspad : x.spad.isSome = true ↔ ¬x.spad = none := by cases x.spad <;> simp
  rw [Bool.or_eq_true, Bool.or_eq_true, Bool.or_eq_true, decide_eq_true_eq, hspad, not_and_or, not_and_or, not_and_or, Bool.not_eq_false,
    Bool.not_eq_false, or_assoc, or_assoc]

/-- A location of a core is no device register. -/
theorem not_devReg_of_owningCore {l : Loc} {n : Nat} (h : owningCore l = some n) : l.place ≠ .devReg := by
  intro e; unfold owningCore at h; rw [e] at h; cases h

theorem migr_leaves {a : Reg} (h : PassesG s false [a] none) :
    let moves := s.me.vsize = 0 ∧ s.me.spad = none ∧ s.me.chain = false ∧ s.me.inline_ = false
    ∃ t, exec (.migr a) s = .next t ∧
      (¬moves → Stops s t 14 (s.src a) 0) ∧
      (moves → ∀ l, s.locate (s.src a) 1 .load true false = .ok l →
        (l.place = .devReg → Stops s t 5 (s.src a) 0) ∧
        (l.place ≠ .devReg → owningCore l = none → Stops s t 14 (s.src a) 0) ∧
        (∀ n, owningCore l = some n →
          ((s.core n).owner ≠ (s.core s.curCore).owner → Stops s t 12 (s.src a) (BitVec.ofNat 64 n)) ∧
          ((s.core n).owner = (s.core s.curCore).owner →
            (n = s.curCore → WentNext s t [a]) ∧
            (n ≠ s.curCore → ∀ i, FirstBadG s.me 10 i → Stops s t 27 0 (BitVec.ofNat 64 (256 + i))) ∧
            (n ≠ s.curCore → CarriesWhole s.me 10 → Parked s t 3 (.migr n) ∧ t.me.popDue = s.pops [a])))) := by
  intro moves
  change ∃ t, execMigr a s = .next t ∧ _
  unfold execMigr
  refine ⟨_, State.issue_passes _ h, fun hm => ?_, fun hm l hl => ?_⟩ <;> dsimp only
  · rw [if_pos ((bound_iff _).2 hm)]; exact s.fault_stops .migv _ 0
  rw [if_neg (mt (bound_iff _).1 (not_not.2 hm)), hl]
  dsimp only
  refine ⟨fun hd => ?_, fun hd hn => ?_, fun n hn => ?_⟩
  · rw [if_pos hd]; exact s.fault_stops .addr _ 0
  · rw [if_neg hd, hn]; exact s.fault_stops .migv _ 0
  rw [if_neg (not_devReg_of_owningCore hn), hn]
  dsimp only
  refine ⟨fun ho => ?_, fun ho => ⟨fun he => ?_, fun he i hi => ?_, fun he hw => ?_⟩⟩
  · rw [if_pos ho]; exact s.fault_stops .target _ _
  · rw [if_neg (not_not.2 ho), if_pos he]; exact s.take_advance [a]
  · rw [if_neg (not_not.2 ho), if_neg he, badCarried_first hi]; exact s.fault_stops .data 0 _
  · rw [if_neg (not_not.2 ho), if_neg he, badCarried_whole hw]
    exact ⟨s.parkOn_parked _ 3 _, by rw [State.parkOn, State.me_modMe]⟩

/-! ### The packet leaves -/

/-- What a thread that moves is at its new core (R146, R178). -/
def migrant (s : State) (c k n : Nat) (kr : KernRef) : Arrival :=
  let x := s.slot c k
  { src := .migrant, link := if dieOf c = dieOf n then 2 else 3, at_ := s.now, pc := pc57 (x.pc + 4), kern := kr, tenant := x.tenant,
    ctx := x.ctx, regs := x.carry 10, bgen := x.bgen, task := x.task, record := none, cause := none, miss := 0 }

theorem exec_migrationPacketDeparture {c k n : Nat} {kr : KernRef} (hst : (s.slot c k).st = .parked) (hp : (s.slot c k).pend = .migr n)
    (hk : (s.slot c k).kern = some kr) (hq : s.quiet c k = true) (hw : CarriesWhole (s.slot c k) 10) :
    exec (.migrationPacketDeparture c k) s =
      .next ((s.freeSlot c k false false).modCore n (fun y => { y with links := y.links ++ [migrant s c k n kr] })) := by
  change execMigrationPacketDeparture c k s = _
  unfold execMigrationPacketDeparture
  dsimp only
  rw [hst, hp, hk]
  dsimp only
  rw [if_pos hq, badCarried_whole hw]
  rfl

/-- Settles O24: what a slot leaves that quits, and the checks, the wait and the departure of one that moves. -/
theorem quitAndMigrationFreeTheSlot : Obligations.QuitAndMigrationFreeTheSlot := by
  refine ⟨fun s h => quit_leaves h, fun s a h => migr_leaves h, fun s c k n kr hst hp hk hq hw =>
    ⟨_, migrant s c k n kr, exec_migrationPacketDeparture hst hp hk hq hw, (freeSlot_freed s c k false false).st, ?_, rfl,
      (pcOf_eq_pc57 _).symm, rfl, rfl, rfl, rfl⟩⟩
  rw [State.core_modCore_self]
  exact List.mem_append_right _ (List.mem_singleton.2 rfl)

end Sys2Proof.Threads

/-!
`spawn`: its checks, the claim of its child, and the child that runs inline (R143, R144, R172 to R174).
-/

namespace Sys2Proof.Threads
open Sys2Proof Sys2Proof.Machine Sys2Proof.Claims Sys2Proof.Scalar Sys2Proof.Vectors

variable {s : State}

/-! ## The registers that an arrival carries -/

theorem isFull_setFull_true (x : Slot) (r q : Reg) : (x.setFull r.toNat true).isFull q = (decide (q = r) || x.isFull q) := by
  by_cases h : r = 0
  · subst h
    by_cases hq : q = 0
    · subst hq; rfl
    · rw [decide_eq_false hq]; rfl
  · have hn : r.toNat ≠ 0 := fun e => h (BitVec.eq_of_toNat_eq e)
    unfold Slot.isFull Slot.setFull
    rw [if_neg hn]
    simp only [if_true, BitVec.getLsbD_or, Slot.oneHot_get, Bool.or_comm]
    exact Bool.or_assoc ..

/-- A full register that an arrival hands over. -/
theorem reg_handOver (x : Slot) (r : Reg) (v : Word) (q : Reg) :
    ((x.setReg r v).setFull r.toNat true).reg q = if q = r ∧ r ≠ 0 then v else x.reg q := by
  rw [Slot.reg_setFull, Slot.reg_setReg]

theorem isFull_handOver (x : Slot) (r : Reg) (v : Word) (q : Reg) :
    ((x.setReg r v).setFull r.toNat true).isFull q = (decide (q = r) || x.isFull q) := by
  rw [isFull_setFull_true, Slot.isFull_setReg, ← Bool.or_assoc, Bool.or_self]

theorem withRegs_cons (x : Slot) (r : Reg) (v : Word) (b : Bool) (l : List (Reg × Word × Bool)) :
    x.withRegs ((r, v, b) :: l) = ((x.setReg r v).setFull r.toNat b).withRegs l := rfl

theorem withRegs_nil (x : Slot) : x.withRegs [] = x := rfl

/-- Registers handed over are registers alone. -/
theorem withRegs_shape (x : Slot) (l : List (Reg × Word × Bool)) :
    ∃ g full badG, x.withRegs l = { x with g := g, full := full, badG := badG } := by
  induction l generalizing x with
  | nil => exact ⟨x.g, x.full, x.badG, rfl⟩
  | cons p l ih =>
    obtain ⟨r, v, b⟩ := p
    obtain ⟨g, full, badG, hset⟩ := x.setReg_shape r v
    obtain ⟨full', hfull⟩ := (x.setReg r v).setFull_shape r.toNat b
    obtain ⟨g'', full'', badG'', h⟩ := ih ((x.setReg r v).setFull r.toNat b)
    exact ⟨g'', full'', badG'', by rw [withRegs_cons, h, hfull, hset]⟩

/-! ## The claim (Table 2.7) -/

/-- The slot of an arrival's claim. -/
def claimed (s : State) (c : Nat) (r : Room) (a : Arrival) : Slot :=
  let old := s.slot c r.slot
  let new : Slot :=
    { Slot.reset with
      st := .ready, pc := pcAt a.pc, tenant := a.tenant, kern := some a.kern, task := a.task, ctx := a.ctx, spad := r.spad
      sw := wrap (r.vbase * 2 ^ 32 + r.vsize * 2 ^ 36 + (if a.bgen then 2 ^ 45 else 0) + (if isCompute c then 0 else 4))
      out := old.out, claims := old.claims + 1, claimedAt := s.now, drainCyc := old.drainCyc
      upcall := decide (a.src = .upcall) }
  new.withRegs a.regs

theorem claimed_st (s : State) (c : Nat) (r : Room) (a : Arrival) : (claimed s c r a).st = .ready := by
  obtain ⟨g, full, badG, h⟩ := withRegs_shape _ a.regs
  rw [claimed, h]

theorem claimed_pc (s : State) (c : Nat) (r : Room) (a : Arrival) : (claimed s c r a).pc = pcDown a.pc := by
  obtain ⟨g, full, badG, h⟩ := withRegs_shape _ a.regs
  rw [claimed, h, ← pcAt_eq_pcDown]

section
variable (t : State) (c off len : Nat)

/-- The slots, and the slot whose turn it is, are the same. -/
def SameTurn (s t : State) : Prop := t.slots = s.slots ∧ t.curCore = s.curCore ∧ t.curSlot = s.curSlot

theorem SameTurn.emptied {s t : State} (h : SameTurn s t) (b : Bool) (c k : Nat) (q : List (Nat × Word)) :
    SameTurn s (if b = true then t.setChain c k q else t) := by
  cases b <;> exact h

/-- Words that come to stand under another cipher key leave the slots. -/
theorem foldl_setTag_sameTurn (f : Nat → Nat) (ck : Nat) (l : List Nat) : SameTurn t (l.foldl (fun a i => a.setTag (f i) ck) t) := by
  induction l generalizing t with
  | nil => exact ⟨rfl, rfl, rfl⟩
  | cons i l ih => exact ih (t.setTag (f i) ck)

variable {t} in
theorem slot_mapSlots_resv {u : State} (f : Nat → Nat → Slot → Slot) (hreset : ∀ c k, f c k Slot.reset = Slot.reset)
    (hf : ∀ c k x, x.st ≠ .parked → ∃ v, f c k x = { x with resv := v }) (hu : u.slots = t.slots) {c k : Nat}
    (h : (t.slot c k).st ≠ .parked) : ∃ v, (u.mapSlots f).slot c k = { t.slot c k with resv := v } := by
  unfold State.mapSlots State.slot at *
  rw [Tab.get_mapAll _ _ _ (fun _ => hreset _ _), hu]
  exact hf _ _ _ h

variable {t} in
/-- Local memory made zero takes no more from a slot that is not parked than its reservation. -/
theorem slot_zeroLocal {c' k : Nat} (h : (t.slot c' k).st ≠ .parked) :
    ∃ v, (t.zeroLocal c off len).slot c' k = { t.slot c' k with resv := v } := by
  unfold State.zeroLocal
  refine slot_mapSlots_resv _ (fun _ _ => rfl) (fun _ _ x hx => ?_) ?_ h
  · split
    · split
      · split
        case h_1 hparked _ => exact absurd hparked hx
        case h_2 => exact ⟨none, rfl⟩
      · exact ⟨x.resv, rfl⟩
    · exact ⟨x.resv, rfl⟩
  · split
    · rfl
    · exact (foldl_setTag_sameTurn _ _ _ _).1

/-- Where the turn stands while memory is made zero. -/
theorem zeroLocal_turn : (t.zeroLocal c off len).curCore = t.curCore ∧ (t.zeroLocal c off len).curSlot = t.curSlot := by
  unfold State.zeroLocal
  dsimp only [State.mapSlots]
  split
  · exact ⟨rfl, rfl⟩
  · exact (foldl_setTag_sameTurn _ _ _ _).2

end

/-- What a claim leaves before its scratchpad is made zero. -/
theorem claim_eq (s : State) (c : Nat) (r : Room) (a : Arrival) : ∃ u, SameTurn (s.setSlot c r.slot (claimed s c r a)) u ∧
    s.claim c r a = match r.spad with
      | some (o, n) => u.zeroLocal c o n
      | none => u := by
  unfold State.claim claimed
  refine ⟨_, ?_, rfl⟩
  exact SameTurn.emptied ⟨rfl, rfl, rfl⟩ _ _ _ _

/-- A claim takes no more from a slot that is not parked than its reservation, but that it writes its own. -/
theorem slot_claim {c : Nat} {r : Room} {a : Arrival} {c' k : Nat}
    (h : ((s.setSlot c r.slot (claimed s c r a)).slot c' k).st ≠ .parked) :
    ∃ v, (s.claim c r a).slot c' k = { (s.setSlot c r.slot (claimed s c r a)).slot c' k with resv := v } := by
  obtain ⟨u, ⟨hslots, -, -⟩, hu⟩ := claim_eq s c r a
  have hslot : u.slot c' k = (s.setSlot c r.slot (claimed s c r a)).slot c' k := by unfold State.slot; rw [hslots]
  rw [hu, ← hslot]
  rw [← hslot] at h
  split
  · exact slot_zeroLocal _ _ _ h
  · exact ⟨(u.slot c' k).resv, rfl⟩

theorem claim_turn (s : State) (c : Nat) (r : Room) (a : Arrival) :
    (s.claim c r a).curCore = s.curCore ∧ (s.claim c r a).curSlot = s.curSlot := by
  obtain ⟨u, ⟨-, hcore, hslot⟩, hu⟩ := claim_eq s c r a
  rw [hu]
  split
  · obtain ⟨hc, hk⟩ := zeroLocal_turn u c _ _
    exact ⟨hc.trans hcore, hk.trans hslot⟩
  · exact ⟨hcore, hslot⟩

theorem slot_of_fit {k vb n need : Nat} {o : Option Nat} {room : Room}
    (h : (if need = 0 then some ⟨k, vb, n, none⟩ else o.map (fun o => (⟨k, vb, n, some (o + 64, need)⟩ : Room))) = some room) :
    room.slot = k := by
  split at h
  · cases h; rfl
  · obtain ⟨_, -, ho⟩ := Option.map_eq_some_iff.1 h
    rw [← ho]

/-- R139: an arrival is given a FREE slot. -/
theorem free_of_room {c : Nat} {r : KernRef} {bare : Bool} {room : Room} (h : s.room c r bare = some room) :
    (s.slot c room.slot).st = .free := by
  unfold State.room at h
  split at h
  · cases h
  · dsimp only at h
    split at h
    case h_2 => cases h
    case h_1 k x _ hfind _ =>
      have hfree : x.st = .free := by
        have hclaim := List.find?_some hfind
        unfold Slot.claimable at hclaim
        simp only [Bool.and_eq_true, decide_eq_true_eq] at hclaim
        exact hclaim.1.1
      have hx : x = s.slot c k := by
        obtain ⟨j, -, hj⟩ := List.mem_map.1 (List.mem_of_find?_eq_some hfind)
        cases hj; rfl
      have hslot : room.slot = k := by
        split at h
        · cases h
        · exact slot_of_fit h
      rw [hslot, ← hx, hfree]

theorem free_of_admits {c : Nat} {r : KernRef} {room : Room} (h : s.admits c r = some room) : (s.slot c room.slot).st = .free := by
  unfold State.admits at h
  split at h
  · exact free_of_room h
  · cases h

/-! ## The child that runs inline (R144) -/

/-- The return word of a child that runs inline: the address of the next word, and the inline bit. -/
def inlineLink (x : Slot) : Word := BitVec.ofNat 64 (x.pc.toNat + 4 + x.inline_.toNat)

theorem inlineLink_eq (x : Slot) : x.pc + 4 + (if x.inline_ then 1 else 0) = inlineLink x := by
  apply BitVec.eq_of_toNat_eq
  unfold inlineLink
  cases x.inline_ <;> simp [BitVec.toNat_add]

section
variable (x : Slot) (e : Word) (now : Nat)

theorem runInline_eq : x.runInline e now =
    { x.writeOwn 15 (inlineLink x) (now + 1) with sw := setBits x.sw 0 1 1, pc := pcDown e } := by
  unfold Slot.runInline
  dsimp only
  rw [inlineLink_eq, ← pcAt_eq_pcDown, Slot.writeOwn_sw]

theorem reg_runInline (q : Reg) : (x.runInline e now).reg q = if q = 15 then inlineLink x else x.reg q := by
  rw [runInline_eq]
  refine (Slot.reg_writeOwn x 15 (inlineLink x) (now + 1) q).trans ?_
  simp

theorem isFull_runInline (q : Reg) : (x.runInline e now).isFull q = (decide (q = 15) || x.isFull q) := by
  rw [runInline_eq]
  exact Slot.isFull_writeOwn x 15 (inlineLink x) (now + 1) q

theorem runInline_inline : (x.runInline e now).inline_ = true := by
  rw [runInline_eq]
  exact bit_setBits_one x.sw 1 (by decide)

theorem runInline_st : (x.runInline e now).st = x.st := by
  rw [runInline_eq]
  exact x.writeOwn_st 15 (inlineLink x) (now + 1)

theorem inlineSw_one (w : Word) : InlineSw w (setBits w 0 1 1) true :=
  ⟨bit_setBits_one w 1 (by decide), fun i hi => bit_setBits_out w 1 (by omega)⟩

theorem sameButRegs_runInline : SameButRegs x (x.runInline e now) := by
  obtain ⟨g, full, badG, wbRegs, wbDue, h⟩ := x.writeOwn_shape 15 (inlineLink x) (now + 1)
  unfold SameButRegs
  rw [runInline_eq, h]

end

theorem pushes_inline (s : State) : s.pushes (some 15) = false := by
  unfold State.pushes
  rw [show ((some 15 : Option Reg) == some 14) = false from rfl, Bool.and_false]

/-- R144, R172: the child runs in its spawner's slot. -/
theorem runInline_wroteTo (s : State) (srcs : List Reg) (e : Word) : ∃ sw, InlineSw s.me.sw sw true ∧
    WroteTo s ((s.take srcs).modMe (fun x => x.runInline e s.now)) srcs 15 (inlineLink s.me) 0 1 (pcDown e) sw := by
  have hme : ((s.take srcs).modMe (fun x => x.runInline e s.now)).me = s.me.runInline e s.now := by
    rw [State.me_modMe, State.take_me]
  have hpush := pushes_inline s
  refine ⟨setBits s.me.sw 0 1 1, inlineSw_one _,
    { reg := fun r => ?_, full := fun r => ?_, flags := ?_, due := fun _ _ => ?_, pc := ?_, rest := ?_, queue := fun c k => ?_
      slots := fun c k h _ => ?_, latch := fun c _ => s.latch_take srcs c
      parts := (s.take_shape srcs).trans (SameButChains.modMe _), alone := fun hp _ => ?_ }⟩
  · rw [hme, reg_runInline, hpush]
    by_cases h : r = 15
    · subst h; rfl
    · rw [if_neg h, if_neg (fun g => h g.1)]
  · rw [hme, isFull_runInline, hpush, Bool.not_false, Bool.and_true, Bool.or_comm]
  · rw [hme, runInline_eq]; simp
  · rw [hme, runInline_eq]; exact s.me.writeOwn_due _ _ (by decide)
  · rw [hme, runInline_eq]; exact ⟨rfl, rfl⟩
  · rw [hme]; exact sameButRegs_runInline ..
  · rw [State.chainOut_modMe, State.chainOut_take, hpush]; simp
  · rw [State.slot_modMe_other _ (by unfold State.other at *; simpa using h), State.slot_take]
  · rw [State.take_none hp]; exact OnlyMe.modMe _

/-! ## The child that claims (R143, R172) -/

section
variable (x : Slot) (v w y z : Word) (q : Reg)

theorem reg_withRegs_four : (x.withRegs [(1, v, true), (2, w, true), (3, y, true), (4, z, true)]).reg q =
    if q = 4 then z else if q = 3 then y else if q = 2 then w else if q = 1 then v else x.reg q := by
  rw [withRegs_cons, withRegs_cons, withRegs_cons, withRegs_cons, withRegs_nil]
  refine (reg_handOver ..).trans ?_
  rw [reg_handOver, reg_handOver, reg_handOver]
  simp

theorem isFull_withRegs_four : (x.withRegs [(1, v, true), (2, w, true), (3, y, true), (4, z, true)]).isFull q =
    (decide (q = 4) || (decide (q = 3) || (decide (q = 2) || (decide (q = 1) || x.isFull q)))) := by
  rw [withRegs_cons, withRegs_cons, withRegs_cons, withRegs_cons, withRegs_nil]
  refine (isFull_handOver ..).trans ?_
  rw [isFull_handOver, isFull_handOver, isFull_handOver]

end

theorem reg_fresh (x : Slot) (h : x.g = Slot.reset.g) (q : Reg) : x.reg q = 0 := by
  unfold Slot.reg
  rw [h]
  split
  · rfl
  · exact Vector.getElem_replicate ..

theorem isFull_fresh (x : Slot) (h : x.full = 1) (q : Reg) : x.isFull q = decide (q = 0) := by
  unfold Slot.isFull
  have hone : (1 : BitVec 16).getLsbD q.toNat = decide (q = 0) := by
    refine (BitVec.getLsbD_one ..).trans ?_
    rw [Bool.and_eq_right_iff_imp.2 (by simp)]
    exact decide_eq_decide.2 ⟨fun g => BitVec.eq_of_toNat_eq g, fun g => by rw [g]; rfl⟩
  rw [h, hone, Bool.or_self]

/-- The registers that a spawn hands over are g1 to g4. -/
theorem handed_cases {q : Reg} (h : 1 ≤ q.toNat ∧ q.toNat ≤ 4) : q = 4 ∨ q = 3 ∨ q = 2 ∨ q = 1 := by
  have hn : q.toNat = 4 ∨ q.toNat = 3 ∨ q.toNat = 2 ∨ q.toNat = 1 := by omega
  exact hn.imp BitVec.eq_of_toNat_eq (.imp BitVec.eq_of_toNat_eq (.imp BitVec.eq_of_toNat_eq BitVec.eq_of_toNat_eq))

section
variable (s : State) (c : Nat) (room : Room) (x : Slot) (now : Nat) (e : Word) (r : KernRef) (q : Reg)

/-- The child's registers g1 to g4 are the spawner's, and full; every other is zero. -/
theorem reg_claimed_spawn : (claimed s c room (spawnArrival x now e r [x.reg 1, x.reg 2, x.reg 3, x.reg 4])).reg q =
    if 1 ≤ q.toNat ∧ q.toNat ≤ 4 then x.reg q else 0 := by
  refine (reg_withRegs_four ..).trans ?_
  by_cases h : 1 ≤ q.toNat ∧ q.toNat ≤ 4
  · rw [if_pos h]
    obtain rfl | rfl | rfl | rfl := handed_cases h <;> rfl
  · have hne (n : Reg) (hn : 1 ≤ n.toNat ∧ n.toNat ≤ 4) : q ≠ n := fun g => h (g ▸ hn)
    rw [if_neg h, if_neg (hne 4 (by decide)), if_neg (hne 3 (by decide)), if_neg (hne 2 (by decide)), if_neg (hne 1 (by decide))]
    exact reg_fresh _ rfl q

theorem isFull_claimed_spawn (l : List Word) : (claimed s c room (spawnArrival x now e r l)).isFull q = decide (q.toNat ≤ 4) := by
  refine (isFull_withRegs_four ..).trans ?_
  rw [isFull_fresh _ rfl]
  by_cases h : 1 ≤ q.toNat ∧ q.toNat ≤ 4
  · obtain rfl | rfl | rfl | rfl := handed_cases h <;> rfl
  · have hne (n : Reg) (hn : 1 ≤ n.toNat ∧ n.toNat ≤ 4) : decide (q = n) = false := decide_eq_false fun g => h (g ▸ hn)
    rw [hne 4 (by decide), hne 3 (by decide), hne 2 (by decide), hne 1 (by decide)]
    refine decide_eq_decide.2 ⟨fun g => by rw [g]; decide, fun g => BitVec.eq_of_toNat_eq ?_⟩
    exact Nat.lt_one_iff.1 (Nat.lt_of_not_le fun h1 => h ⟨h1, g⟩)

end

/-- The slot of the child, and where the spawner goes on. -/
theorem claim_advance_leaves {u : State} (hu : ∀ c k, u.slot c k = s.slot c k) (hc : u.curCore = s.curCore) (hk : u.curSlot = s.curSlot)
    (hready : s.me.st = .ready) {room : Room} {a : Arrival} (hfree : (s.slot s.curCore room.slot).st = .free) :
    let x := ((u.claim s.curCore room a).advance).slot s.curCore room.slot
    (x.pc = pcDown a.pc ∧ x.st = .ready ∧ (∀ q, x.reg q = (claimed u s.curCore room a).reg q) ∧
      ∀ q, x.isFull q = (claimed u s.curCore room a).isFull q) ∧
      ((u.claim s.curCore room a).advance).me.pc = s.me.advance.pc := by
  intro x
  obtain ⟨hcore, hslot⟩ := claim_turn u s.curCore room a
  have hne : 16 * s.curCore + s.curSlot ≠ 16 * s.curCore + room.slot := by
    intro e
    have hsame : room.slot = s.curSlot := by omega
    rw [hsame, ← State.me_eq, hready] at hfree
    cases hfree
  have hchild : (u.setSlot s.curCore room.slot (claimed u s.curCore room a)).slot s.curCore room.slot = claimed u s.curCore room a :=
    State.slot_setSlot_self ..
  have hown : (u.setSlot s.curCore room.slot (claimed u s.curCore room a)).slot s.curCore s.curSlot = s.me := by
    rw [State.slot_setSlot_ne _ _ hne, hu, ← State.me_eq]
  obtain ⟨v, hv⟩ := slot_claim (s := u) (r := room) (a := a) (c := s.curCore) (c' := s.curCore) (k := room.slot)
    (by rw [hchild, claimed_st]; decide)
  obtain ⟨w, hw⟩ := slot_claim (s := u) (r := room) (a := a) (c := s.curCore) (c' := s.curCore) (k := s.curSlot)
    (by rw [hown, hready]; decide)
  rw [hchild] at hv
  rw [hown] at hw
  have hx : x = { claimed u s.curCore room a with resv := v } := by
    refine (State.slot_modMe_other _ ?_).trans hv
    unfold State.other
    rw [hcore, hslot, hc, hk]
    exact hne.symm
  refine ⟨?_, ?_⟩
  · rw [hx]
    exact ⟨claimed_pc .., claimed_st .., fun _ => rfl, fun _ => rfl⟩
  · rw [State.advance_me, State.me_eq, hcore, hslot, hc, hk, hw]
    exact (Slot.advance_congr (x := { s.me with resv := w }) (y := s.me) rfl rfl).1

/-! ## The checks of `spawn` -/

theorem spawn_leaves {a b : Reg} (h : PassesG s false (spawnSrcs a b) none) :
    ∃ t, exec (.spawn a b) s = .next t ∧
      (3071 < un s a ∨ (s.core (un s a)).owner ≠ (s.core s.curCore).owner → Stops s t 12 0 (s.src a)) ∧
      (un s a ≤ 3071 → (s.core (un s a)).owner = (s.core s.curCore).owner →
        (s.entryKernel s.me (s.src b) = none → Stops s t 15 0 (s.src b)) ∧
        ∀ r, s.entryKernel s.me (s.src b) = some r →
          (s.me.buf ≠ [] → Parked s t 4 .retry) ∧
          (s.me.buf = [] → un s a ≠ s.curCore →
            Parked s t 3 (.spawn (un s a) (s.src b) r.kernel (handed s) none) ∧ t.me.popDue = s.pops (spawnSrcs a b)) ∧
          (s.me.buf = [] → un s a = s.curCore → s.admits s.curCore r = none → ∃ sw, InlineSw s.me.sw sw true ∧
            WroteTo s t (spawnSrcs a b) 15 (inlineLink s.me) 0 1 (pcDown (s.src b)) sw) ∧
          (s.me.buf = [] → un s a = s.curCore → ∀ room, s.admits s.curCore r = some room →
            t = ((s.take (spawnSrcs a b)).claim s.curCore room (spawnArrival s.me s.now (s.src b) r (handed s))).advance)) := by
  change ∃ t, execSpawn a b s = .next t ∧ _
  unfold execSpawn un handed spawnSrcs
  refine ⟨_, State.issue_passes _ h, fun hbad => ?_, fun hin hown => ?_⟩ <;> dsimp only
  · rw [if_pos (by simpa using hbad)]; exact s.fault_stops .target 0 _
  rw [if_neg (by simpa [hown] using hin)]
  refine ⟨fun hn => ?_, fun r hr => ?_⟩
  · rw [hn]; exact s.fault_stops .entry 0 _
  rw [hr]
  dsimp only
  refine ⟨fun hb => ?_, fun hb hc => ?_, fun hb hc hn => ?_, fun hb hc room hroom => ?_⟩
  · rw [if_pos (List.isEmpty_eq_false_iff.2 hb)]; exact s.parkRetry_parked 4
  all_goals rw [if_neg (by rw [hb]; decide)]
  · rw [if_neg hc]; exact ⟨s.parkOn_parked _ 3 _, by rw [State.parkOn, State.me_modMe]⟩
  · rw [if_pos hc, hc, hn]; exact runInline_wroteTo s _ _
  · rw [if_pos hc, hc, hroom]

/-! ## The packet and its answer -/

theorem exec_spawnPacket {c k n kn : Nat} {e : Word} {regs : List Word} {kr : KernRef} (hst : (s.slot c k).st = .parked)
    (hp : (s.slot c k).pend = .spawn n e kn regs none) (hk : (s.slot c k).kern = some kr) (hcyc : (s.core n).claimCyc ≠ s.now + 1) :
    exec (.spawnPacket c k) s = .next (match s.admits n { kr with kernel := kn } with
      | some room => (s.claim n room (spawnArrival (s.slot c k) s.now e { kr with kernel := kn } regs)).modSlot c k
          (fun y => { y with pend := .spawn n e kn regs (some true) })
      | none => s.modSlot c k (fun y => { y with pend := .spawn n e kn regs (some false) })) := by
  change execSpawnPacket c k s = _
  unfold execSpawnPacket
  dsimp only
  rw [hst, hp, hk]
  dsimp only
  rw [if_neg hcyc]
  cases s.admits n { kr with kernel := kn } <;> rfl

theorem exec_spawnAnswer {c k n kn : Nat} {e : Word} {regs : List Word} {ok : Bool} (hst : (s.slot c k).st = .parked)
    (hp : (s.slot c k).pend = .spawn n e kn regs (some ok)) :
    exec (.spawnAnswer c k) s = .next (if ok = true then s.goOn c k
      else (if (s.slot c k).popDue = true then s.chainPop c k else s).modSlot c k (fun x => x.wake.runInline e s.now)) := by
  change execSpawnAnswer c k s = _
  unfold execSpawnAnswer
  rw [hst, hp]
  cases ok <;> rfl

theorem inlineLink_wake (x : Slot) : inlineLink x.wake = inlineLink x := by
  unfold inlineLink Slot.inline_
  rw [Slot.wake_pc, bit_wake_sw x (by omega)]

/-- The child of a refused spawn runs inline. -/
theorem refused_leaves (s : State) (c k : Nat) (e : Word) :
    let t := (if (s.slot c k).popDue = true then s.chainPop c k else s).modSlot c k (fun x => x.wake.runInline e s.now)
    (t.slot c k).st = .ready ∧ (t.slot c k).pc = pcDown e ∧ (t.slot c k).inline_ = true ∧ (t.slot c k).reg 15 = inlineLink (s.slot c k) ∧
      (∀ r, r ≠ 15 → (t.slot c k).reg r = (s.slot c k).reg r) ∧ t.mem = s.mem := by
  intro t
  have hslot : t.slot c k = (s.slot c k).wake.runInline e s.now := by
    refine (State.slot_modSlot_self ..).trans ?_
    split <;> rfl
  have hmem : t.mem = s.mem := by
    change (if (s.slot c k).popDue = true then s.chainPop c k else s).mem = s.mem
    split <;> rfl
  rw [hslot]
  refine ⟨?_, ?_, runInline_inline .., ?_, fun r hr => ?_, hmem⟩
  · rw [runInline_st, wake_st]
  · rw [runInline_eq]
  · rw [reg_runInline, if_pos rfl, inlineLink_wake]
  · rw [reg_runInline, if_neg hr, Slot.reg_wake]

/-- Settles O23: the checks of `spawn`, the child's claim or inline run, the packet to another core and its answer. -/
theorem spawnStartsAChildOrRunsItInline : Obligations.SpawnStartsAChildOrRunsItInline := by
  refine ⟨fun s a b h hready => ?_, fun s c k n kn e regs kr hst hp hk hcyc => ?_, fun s c k n kn e regs ok hst hp => ?_⟩
  · obtain ⟨t, hexec, hbad, hgood⟩ := spawn_leaves h
    refine ⟨t, hexec, hbad, fun hin hown => ⟨(hgood hin hown).1, fun r hr => ?_⟩⟩
    obtain ⟨hretry, hother, hinline, hclaim⟩ := (hgood hin hown).2 r hr
    refine ⟨hretry, hother, hinline, fun hb hc room hroom => ?_⟩
    have ht := hclaim hb hc room hroom
    obtain ⟨⟨hpc, hst, hreg, hfull⟩, hown⟩ := claim_advance_leaves (s := s) (u := s.take (spawnSrcs a b)) (room := room)
      (a := spawnArrival s.me s.now (s.src b) r (handed s)) (s.slot_take _) (s.take_curCore _) (s.take_curSlot _) hready (free_of_admits hroom)
    rw [← ht] at hpc hst hreg hfull hown
    exact ⟨ht, hpc, hst, fun q => (hreg q).trans (reg_claimed_spawn ..), fun q => (hfull q).trans (isFull_claimed_spawn ..), hown⟩
  · refine ⟨_, exec_spawnPacket hst hp hk hcyc, fun hn => ?_, fun room hroom => ?_⟩
    · rw [hn]
    · rw [hroom]
  · refine ⟨_, exec_spawnAnswer hst hp, fun hok => ?_, fun hok => ?_⟩
    · rw [if_pos hok]; exact s.goOn_resumed c k
    · rw [if_neg (by rw [hok]; decide)]; exact refused_leaves s c k e

end Sys2Proof.Threads
